-- ==== Sys2Proof/Word.lean ====
section
/-! DEFINITION. The word types of the module's interfaces and their plainest arithmetic. -/

namespace Sys2Proof

/-- One byte of a packet or of memory. -/
abbrev Byte := BitVec 8
abbrev W16 := BitVec 16
abbrev W32 := BitVec 32
abbrev W64 := BitVec 64
abbrev W128 := BitVec 128

/-- Integer division rounded up; a zero divisor gives zero. -/
def ceilDiv (a b : Nat) : Nat := if b = 0 then 0 else (a + b - 1) / b

/-- `a` rounded up to a multiple of `b`. -/
def roundUp (a b : Nat) : Nat := ceilDiv a b * b

/-- A counter of `w` bits that saturates at its largest value (the RC counters of 03 R96 and others). -/
def satAdd (w a b : Nat) : Nat := min (a + b) (2 ^ w - 1)

/-- Bits `hi` to `lo` of `n`, as a number. -/
def bitsOf (n hi lo : Nat) : Nat := n / 2 ^ lo % 2 ^ (hi + 1 - lo)

/-- Bit `k` of `n`. -/
def bitOf (n k : Nat) : Bool := n.testBit k

/-- 1 for true, 0 for false. -/
def b2n (b : Bool) : Nat := if b then 1 else 0

end Sys2Proof
end

