-- ==== Sys2Proof/Syntax.lean ====
section
/-! DEFINITION. The commands of the block: one constructor of Instr for each row of spec/opcode_table.json, with
the packets, frames and surroundings that are their operands. -/

namespace Sys2Proof

/-- An IP address of either family (03 R62). -/
inductive IpAddr where
  | v4 (a : W32)
  | v6 (a : W128)
  deriving DecidableEq, Repr

/-- A host address and UDP port, which identify a session (03 R71). -/
structure Endpoint where
  ip : IpAddr
  port : W16
  deriving DecidableEq, Repr

/-- What a memory error found by a read or by scrub struck (07 R251). -/
inductive MemPlace where
  | hob (core address : Nat)
  | stack (stack partition va : Nat)
  | mantel (die partition va : Nat)
  | stage (die partition va : Nat)
  deriving DecidableEq, Repr

/-- A memory error that the surroundings cause and that this step's reads or scrub find (04 R123, 07 R247). -/
structure MemError where
  place : MemPlace
  /-- a single-bit (or one-symbol) error, which is corrected -/
  correctable : Bool
  deriving DecidableEq, Repr

/-- The surroundings of one step: the nanoseconds since the last step and the memory errors its reads find. -/
structure Env where
  dt : Nat
  errs : List MemError
  deriving DecidableEq, Repr

/-- A Nervia command packet (03 R65). The opcode is the row of the table the constructor stands for. -/
structure Packet where
  dt : Nat
  src : Endpoint
  dst : IpAddr
  /-- length of the UDP payload in bytes (03 R67) -/
  udpLength : Nat
  magic : W16
  version : Byte
  flags : Byte
  partition : Byte
  jobTag : W32
  seq : W32
  deadline : W64
  paramLength : W32
  paramCrc : W32
  params : List Byte
  deriving DecidableEq, Repr

/-- A Flue packet from the host (03 R108). KIND is the row the constructor stands for. -/
structure FluePacket where
  dt : Nat
  src : Endpoint
  dst : IpAddr
  magic : W16
  partition : Byte
  windowId : Byte
  windowGen : Byte
  payloadLength : W16
  burstSeq : W32
  payloadCrc : W32
  payload : List Byte
  deriving DecidableEq, Repr

/-- A register access packet (17 R514). RAP_OP is the row the constructor stands for. -/
structure RapPacket where
  dt : Nat
  src : Endpoint
  magic : W16
  kind : Byte
  seq : W32
  address : W32
  count : W16
  status : W16
  /-- the words between the fixed part and RAP_CRC -/
  values : List W32
  crc : W32
  deriving DecidableEq, Repr

/-- A Zhevub frame as it arrives (14 R435). FRAME_KIND and the CONTROL or RELAY code are the row's. -/
structure Frame where
  link : Nat
  hops : Byte
  frameSeq : W32
  dest : W64
  src : W64
  groupTag : W16
  ackSeq : W32
  payload : List Byte
  deriving DecidableEq, Repr

/-- A Sync message as the timestamping unit sees it (02 R22, R604). -/
structure SyncMsg where
  /-- identity of the grandmaster it comes from -/
  grandmaster : W64
  /-- the master's time less the module's counter, in nanoseconds -/
  offset : Int
  /-- logMessageInterval: the Sync interval is 2^logInterval seconds -/
  logInterval : Int
  /-- the message can be used (right domain, transport and delay answers) -/
  usable : Bool
  deriving DecidableEq, Repr

/-- The fields of an Announce message that master selection compares (02 R22, R23). -/
structure AnnounceMsg where
  grandmaster : W64
  domain : Byte
  priority1 : Byte
  clockClass : Byte
  accuracy : Byte
  variance : W16
  priority2 : Byte
  ptpTimescale : Bool
  utcOffset : Int
  deriving DecidableEq, Repr

/-- How a link came out of training or retraining (14 R431, 17 R529). -/
structure LinkOutcome where
  link : Nat
  /-- the peer answered at all -/
  peerSeen : Bool
  /-- lanes of the widest group that trained: 4, 2, 1, or 0 for none -/
  width : Nat
  /-- lane mask of that group -/
  lanes : Nat
  /-- lanes of the widest group that passes the error-rate check, 0 for none -/
  passed : Nat
  passedLanes : Nat
  peerSerial : W64
  /-- lowest and highest protocol version the peer offers -/
  peerMin : Byte
  peerMax : Byte
  deriving DecidableEq, Repr

/-- The readings of the management target that are read live (20 R600). -/
structure Telemetry where
  vinMv : Nat
  iinCa : Nat
  pinW : Nat
  inletC : Nat
  deriving DecidableEq, Repr

/-- The commands: the rows of spec/opcode_table.json, in the table's order. -/
inductive Instr where
  /-- HELLO (R76): Opens a session, or resumes or replaces one, after version negotiation and the HELLO checks. -/
  | hello (p : Packet)
  /-- CAPS (R11): Returns the 64-byte capability block in the reply. -/
  | caps (p : Packet)
  /-- BYE (R91): Ends the session at its reply stamp and frees its notification ring. -/
  | bye (p : Packet)
  /-- NOTIFY_ACK (R104): Acknowledges notification packets up to ACK_STREAM_SEQ, which may add an EVENTS_LOST record. -/
  | notifyAck (p : Packet)
  /-- ALLOC (R229): Places a new allocation in a tier, reclaiming sequences if needed, and replies with its handle. -/
  | alloc (p : Packet)
  /-- FREE (R222): Removes an allocation from the partition's address space at the reply stamp. -/
  | freeAlloc (p : Packet)
  /-- FREE_GRANULES_RETURN (R222): Returns a freed allocation's granules to the pool once every earlier operation on it has retired. -/
  | freeGranulesReturn (e : Env) (handle : Nat)
  /-- SET_MOBILITY (R223): HINT operation that changes an allocation's mobility under the pairing rules. -/
  | setMobility (p : Packet)
  /-- SET_OWNER (R223): HINT operation that changes an allocation's owner sequence. -/
  | setOwner (p : Packet)
  /-- TOUCH (R223): HINT operation that sets LAST_USE to the reply stamp. -/
  | touch (p : Packet)
  /-- PROMOTE (R223): HINT operation that requests the move of a Woodshed allocation to the Firebox tier. -/
  | promote (p : Packet)
  /-- TIER_MOVE (R231): Background demotion or promotion of an allocation between tiers, copied granule by granule. -/
  | tierMove (e : Env) (handle : Nat)
  /-- FLUE_OPEN (R106): Opens a Flue window on an allocation and returns its generation, burst count and credit. -/
  | flueOpen (p : Packet)
  /-- FLUE_CLOSE (R113): Closes a Flue window and returns its CUM_SEQ. -/
  | flueClose (p : Packet)
  /-- FLUE_DATA (R111): A DATA burst on a write window is written to memory and may trigger an ACK. -/
  | flueData (f : FluePacket)
  /-- FLUE_CREDIT (R112): A CREDIT packet raises a read window's CREDIT_LIMIT and may request resends. -/
  | flueCredit (f : FluePacket)
  /-- FLUE_ACK_TIMER (R111): An ACK is sent 20 µs after the last burst received while a burst is unacknowledged. -/
  | flueAckTimer (e : Env) (partition window : Nat)
  /-- FLUE_READ_BURST (R112): The transmitter sends the next read burst once credit, damper and arbitration allow. -/
  | flueReadBurst (e : Env)
  /-- LOAD_IMAGE (R143): Checks the image header and replies, then copies the image into the partition's image store. -/
  | loadImage (p : Packet)
  /-- IMAGE_CHECK (R148): After the copy ends, checks the loaded image and completes LOAD_IMAGE. -/
  | imageCheck (e : Env) (cmd : Nat)
  /-- UNLOAD_IMAGE (R149): Releases a loaded image's store unless a launch, cost reference or sequence still uses it. -/
  | unloadImage (p : Packet)
  /-- LAUNCH (R150): Admits a launch of a loaded image on a core set. -/
  | launch (p : Packet)
  /-- SEQ_OPEN (R302): Opens a new sequence-table entry and returns its handle. -/
  | seqOpen (p : Packet)
  /-- REVIVE (R304): SEQ_OPEN with REVIVE returns an EVICTED sequence to OPEN, unbound. -/
  | revive (p : Packet)
  /-- SEQ_STEP (R312): Admits a step of passes or a decode step for a sequence. -/
  | seqStep (p : Packet)
  /-- SEQ_CLOSE (R307): Stops new steps of a sequence and closes it after its accepted steps end. -/
  | seqClose (p : Packet)
  /-- SEQ_QUERY (R306): Returns the 128-byte sequence-table entry. -/
  | seqQuery (p : Packet)
  /-- BIND (R264): PT_EDIT operation that fixes a sequence's geometry, layout and staging area. -/
  | bindSeq (p : Packet)
  /-- APPEND (R291): PT_EDIT operation that adds frames to a layer's page table from page PAGES onward. -/
  | appendPages (p : Packet)
  /-- REPLACE (R291): PT_EDIT operation that replaces pages of a layer with named frames. -/
  | replacePages (p : Packet)
  /-- TRUNCATE (R292): PT_EDIT operation that shortens a layer to NEW_LENGTH. -/
  | truncate (p : Packet)
  /-- PT_FREE (R292): PT_EDIT FREE empties a layer, like TRUNCATE to zero. -/
  | ptFree (p : Packet)
  /-- CARVE (R263): PT_EDIT operation that cuts a KV_FRAMES allocation into FREE frames. -/
  | carve (p : Packet)
  /-- PT_STATE (R290): PT_EDIT STATE returns a layer's generation, pages and length without change. -/
  | ptState (p : Packet)
  /-- COLL_GROUP (R446): Defines or replaces a collective group after checking its member table. -/
  | collGroup (p : Packet)
  /-- COLL_GROUP_DELETE (R444): COLL_GROUP with MEMBERS 0 deletes the group. -/
  | collGroupDelete (p : Packet)
  /-- COLL_POST (R449): Admits a list of collective operations on a group. -/
  | collPost (p : Packet)
  /-- CODEC_OPEN (R497): Opens an encode or decode handle on a codec engine. -/
  | codecOpen (p : Packet)
  /-- CODEC_PUSH (R503): Admits a push of frames or access units to a codec handle. -/
  | codecPush (p : Packet)
  /-- CODEC_CLOSE (R509): Stops new pushes and closes the handle after its accepted pushes end. -/
  | codecClose (p : Packet)
  /-- CODEC_UNIT_END (R480): A codec engine finishes one row of one frame and chooses its next unit. -/
  | codecUnitEnd (e : Env) (engine : Nat)
  /-- SET_POLICY (R383): WATCH_SET operation that sets the partition's watch policy. -/
  | setPolicy (p : Packet)
  /-- SET_ENTRIES (R384): WATCH_SET operation that writes watch entries. -/
  | setEntries (p : Packet)
  /-- CLEAR_ALL (R382): WATCH_SET operation that clears every entry and restores the default policy. -/
  | clearAll (p : Packet)
  /-- STEP_BEGIN (R394): Opens a journal over allocations and reserves shadow granules. -/
  | stepBegin (p : Packet)
  /-- STEP_COMMIT (R398): Closes the journal to new commands and schedules publication. -/
  | stepCommit (p : Packet)
  /-- STEP_COMMIT_PUBLISH (R398): Once every journalled command has ended, publishes or discards the shadows and stamps the completions. -/
  | stepCommitPublish (e : Env) (partition : Nat)
  /-- STEP_ABORT (R399): Stops the journal, discards shadows and completes its commands NUMERIC_UNRECOVERED. -/
  | stepAbort (p : Packet)
  /-- CTR_CONFIG (R582): Configures core counters and sampling for a core or a partition. -/
  | ctrConfig (p : Packet)
  /-- CTR_FREEZE_NOW (R586): Copies every counter of the partition at the reply stamp. -/
  | ctrFreezeNow (p : Packet)
  /-- CTR_FREEZE_AT_BOUNDARY (R586): Arms a counter freeze at a grid boundary. -/
  | ctrFreezeAtBoundary (p : Packet)
  /-- CTR_FREEZE_INSTANT (R588): At the armed boundary, copies the counters and stamps the snapshot records and the completion. -/
  | ctrFreezeInstant (e : Env) (partition : Nat)
  /-- CTR_READ_LIVE (R589): Returns a core's live counter values. -/
  | ctrReadLive (p : Packet)
  /-- CTR_READ_SNAPSHOT (R589): Returns a core's values from the latest snapshot. -/
  | ctrReadSnapshot (p : Packet)
  /-- CTR_READ_SAMPLE_STATE (R589): Returns SAMPLES_WRITTEN and SAMPLES_LOST. -/
  | ctrReadSampleState (p : Packet)
  /-- FW_STAGE (R560): Copies a firmware image from an allocation into a flash slot. -/
  | fwStage (p : Packet)
  /-- FW_STAGE_VERIFY (R561): After the copy, verifies the slot by R558 and completes FW_STAGE. -/
  | fwStageVerify (e : Env)
  /-- FW_RELAY (R562): Starts relaying a slot's image along a chain of modules. -/
  | fwRelay (p : Packet)
  /-- RELAY_TIMEOUT (R565): FW_RELAY completes when no report has arrived for 300 s. -/
  | relayTimeout (e : Env)
  /-- FW_ARM (R566): Arms activation of a staged slot at ACTIVATION_MT. -/
  | fwArm (p : Packet)
  /-- FW_DISARM (R566): Cancels an armed activation. -/
  | fwDisarm (p : Packet)
  /-- FW_ACTIVATING (R568): At ACTIVATION_MT, stamps completions, writes the trial slot and begins a warm reset. -/
  | fwActivating (e : Env)
  /-- ATTEST (R575): Admits an attestation request to Ryqua. -/
  | attest (p : Packet)
  /-- ATTEST_QUOTE (R576): Ryqua finishes signing a quote and the ATTEST completion is stamped. -/
  | attestQuote (e : Env)
  /-- PART_CREATE (R470): Creates a partition with its clusters, quotas, floors, ceilings and dampers. -/
  | partCreate (p : Packet)
  /-- PART_DESTROY (R473): Applies a partition reset, then removes everything the partition holds. -/
  | partDestroy (p : Packet)
  /-- DAMPER_SET (R479): Changes selected damper entries of a partition. -/
  | damperSet (p : Packet)
  /-- REG_READ (R93): Reads a range of registers. -/
  | regRead (p : Packet)
  /-- REG_WRITE (R93): Writes a range of registers in ascending address order. -/
  | regWrite (p : Packet)
  /-- MT_CTRL_WRITE (R28): A write to MT_CTRL that may change the time source and return TIME_STATE to FREE. -/
  | mtCtrlWrite (e : Env) (value : W32)
  /-- MT_SET_SECONDS_WRITE (R31): Sets the TAI second to apply at the next PPS_IN edge in PPS_HOST mode. -/
  | mtSetSecondsWrite (e : Env) (value : W32)
  /-- HEARTWOOD_STORE (R571): Stores a written Heartwood field in flash within 100 ms. -/
  | heartwoodStore (e : Env)
  /-- RESET_CORE (R537): Applies a core reset to one core. -/
  | resetCore (p : Packet)
  /-- RESET_CLUSTER (R537): Applies a cluster reset to a cluster. -/
  | resetCluster (p : Packet)
  /-- RESET_PARTITION (R482): Starts a partition reset that drains or absorbs the partition's activity. -/
  | resetPartition (p : Packet)
  /-- PART_RESET_DRAINED (R483): When every drained activity has arrived, the partition reset completes and its completions are stamped. -/
  | partResetDrained (e : Env) (partition : Nat)
  /-- RESET_WARM (R535): Requests a warm reset. -/
  | resetWarm (p : Packet)
  /-- RESET_POWER_ON (R535): Requests a power-on reset. -/
  | resetPowerOn (p : Packet)
  /-- WARM_RESET (R536): The module performs a warm reset, keeping media time and flash. -/
  | warmReset (e : Env)
  /-- POWER_ON_RESET (R536): The module performs a power-on reset of everything. -/
  | powerOnReset (e : Env)
  /-- AUTO_RESUME (R523): After a warm reset, the module runs kindling steps 3 to 11 itself. -/
  | autoResume (e : Env)
  /-- MATMUL (R170): Computes a batched matrix product with epilogue, bias and Ember term. -/
  | matmul (e : Env) (core : Nat)
  /-- CONV3D (R331): Computes a three-dimensional convolution over the input view, fused or alone. -/
  | conv3d (e : Env) (core : Nat)
  /-- ATTN (R285): Appends, then walks and culls a sequence layer's pages, and writes the attention output. -/
  | attn (e : Env) (core : Nat)
  /-- ATTN_HALF_RELEASE (R281): A waiting append proceeds once the ATTNs reading its staging half have retired. -/
  | attnHalfRelease (e : Env) (core : Nat)
  /-- ELTWISE (R365): Applies an elementwise function to up to three inputs. -/
  | eltwise (e : Env) (core : Nat)
  /-- PRELOAD (R366): ELTWISE with PRELOAD only loads a custom table into a bank. -/
  | preload (e : Env) (core : Nat)
  /-- FLAME_TABLE_LOAD (R369): A custom table load finishes, is checked and binds the waiting macro-instruction to the bank. -/
  | flameTableLoad (e : Env) (core : Nat)
  /-- ROWSTAT (R375): Reduces rows to a statistic or a softmax. -/
  | rowstat (e : Env) (core : Nat)
  /-- NORM (R379): Applies RMS normalisation over groups. -/
  | norm (e : Env) (core : Nat)
  /-- UPDATE (R416): Applies the optimiser recurrence to a layer's weights and state. -/
  | updateLayer (e : Env) (core : Nat)
  /-- ROOT (R422): Computes an inverse matrix root by coupled Newton iteration when due. -/
  | rootMatrix (e : Env) (core : Nat)
  /-- COPY (R241): MOVE in COPY mode copies or converts a tensor. -/
  | copyTensor (e : Env) (core : Nat)
  /-- REDUCE_FP32 (R242): MOVE that adds a source into an FP32 destination at its home slices. -/
  | reduceFp32 (e : Env) (core : Nat)
  /-- REDUCE_BF16 (R242): MOVE that adds a source into a BF16 destination at its home slices. -/
  | reduceBf16 (e : Env) (core : Nat)
  /-- ATOMIC (R243): MOVE that applies a list of atomic operations at home slices. -/
  | atomic (e : Env) (core : Nat)
  /-- SEND (R133): Sends a message in fragments to a core of the launch. -/
  | sendMsg (e : Env) (core : Nat)
  /-- MAILBOX_SLOT_GRANT (R135): A destination mailbox grants a slot to a waiting fragment, which then leaves. -/
  | mailboxSlotGrant (e : Env) (core : Nat)
  /-- RECV (R134): Receives a matching message into hob memory and writes a receipt. -/
  | recv (e : Env) (core : Nat)
  /-- WAIT_COUNTER (R136): Holds issue until an event counter reaches the threshold. -/
  | waitCounter (e : Env) (core : Nat)
  /-- CLUSTER_BARRIER (R136): Holds issue until every core of the launch in the cluster reaches the barrier. -/
  | clusterBarrier (e : Env) (core : Nat)
  /-- WAIT_MAILBOX (R136): Holds issue until enough messages with the tag are held. -/
  | waitMailbox (e : Env) (core : Nat)
  /-- WAIT_SATISFIED (R136): A waiting WAIT's condition becomes true and issue resumes. -/
  | waitSatisfied (e : Env) (core : Nat)
  /-- FENCE_CORE (R138): Holds issue until earlier writes reach this core's hob memory. -/
  | fenceCore (e : Env) (core : Nat)
  /-- FENCE_DIE (R138): Holds issue until earlier writes reach this die's Mantel slices or write stage. -/
  | fenceDie (e : Env) (core : Nat)
  /-- FENCE_MODULE (R138): Holds issue until earlier writes reach their home slices. -/
  | fenceModule (e : Env) (core : Nat)
  /-- BANKCHK (R324): Reuses a block's stored output or lets its skip range compute it. -/
  | bankchk (e : Env) (core : Nat)
  /-- MACRO_RETIRE (R129): A macro-instruction retires, which may raise SIGNAL and record a sample. -/
  | macroRetire (e : Env) (core index : Nat)
  /-- LAUNCH_END (R154): When every core has retired, fences and stamps the launch, pass or batch completion. -/
  | launchEnd (e : Env) (run : Nat)
  /-- STOKE_BOUNDARY (R315): At each stoke boundary, the Stoker builds the work list and launches due work. -/
  | stokeBoundary (e : Env)
  /-- BATCH_CLOSE (R318): A deadline decode batch closes at the start of its first reserved slot. -/
  | batchClose (e : Env) (batch : Nat)
  /-- STALL_LIMIT (R140): A core stalled for STALL_LIMIT causes a core reset of its whole launch. -/
  | stallLimit (e : Env) (run : Nat)
  /-- DAMPER_REFILL (R476): Every 1,000 ns each damper refills and admits waiting requests. -/
  | damperRefill (e : Env)
  /-- THERMAL_SAMPLE (R253): Every 100 µs each stack's temperature is sampled and its level may rise. -/
  | thermalSample (e : Env) (temps : List Nat)
  /-- THERMAL_LEVEL_FALL (R253): After 10 ms below the exit value a stack's level falls by one. -/
  | thermalLevelFall (e : Env) (stack : Nat)
  /-- HOB_SCRUB (R125): Background scrub of hob memory words. -/
  | hobScrub (e : Env) (core address : Nat)
  /-- HBM_SCRUB (R250): Background scrub of HBM and Mantel sectors. -/
  | hbmScrub (e : Env) (partition va : Nat)
  /-- PTP_SYNC (R604): A Sync message is timestamped and disciplines the media-time counter toward lock. -/
  | ptpSync (e : Env) (m : SyncMsg)
  /-- PTP_ANNOUNCE (R22): An Announce message feeds master selection and may set ARB_SEEN. -/
  | ptpAnnounce (e : Env) (m : AnnounceMsg)
  /-- SOURCE_LOST (R604): Three Sync intervals without a usable Sync mark the source lost. -/
  | sourceLost (e : Env)
  /-- HOLDOVER_EXPIRY (R24): After 60 s of holdover TIME_STATE becomes UNLOCKED. -/
  | holdoverExpiry (e : Env)
  /-- MT_STEPPED (R25): Once no accepted deadline command remains, the pending step of media time is made. -/
  | mtStepped (e : Env)
  /-- PPS_IN_EDGE (R26): A PPS_IN edge supplies the phase of the second and aligns the counter in PPS_HOST mode. -/
  | ppsInEdge (e : Env) (falling : Bool)
  /-- PPS_ABSENT (R29): PPS_IN missing for 3 s clears PPS_PRESENT and may lose the source. -/
  | ppsAbsent (e : Env)
  /-- FRAME_SYNC_IN_PULSE (R35): A FRAME_SYNC_IN pulse re-phases the bound grids or is counted as an outlier. -/
  | frameSyncInPulse (e : Env) (falling : Bool)
  /-- FRAME_SYNC_LOST (R35): Three consecutive boundaries without an accepted pulse raise FRAME_SYNC_LOST. -/
  | frameSyncLost (e : Env) (partition gridId : Nat)
  /-- NOTIFY_RETRY (R104): Every NOTIFY_RETRY interval, unacknowledged notification packets are sent again. -/
  | notifyRetry (e : Env) (session : Nat)
  /-- SESSION_TIMEOUT (R78): A session idle for SESSION_TIMEOUT ends and its ring is kept for RESUME. -/
  | sessionTimeout (e : Env) (session : Nat)
  /-- RING_EXPIRY (R78): 60 s after its session ended, the ring is freed. -/
  | ringExpiry (e : Env) (session : Nat)
  /-- OTHER_UDP_PORT (R62): A packet on an unserved UDP port is discarded. -/
  | otherUdpPort (e : Env) (port : W16)
  /-- IP_FRAGMENT (R63): An IP fragment is discarded. -/
  | ipFragment (e : Env)
  /-- ARP_REQUEST (R64): Answers an ARP request for IPV4_ADDR. -/
  | arpRequest (e : Env) (target : W32) (sender : W32)
  /-- NEIGHBOUR_DISCOVERY (R64): Answers IPv6 neighbour discovery for the module's addresses. -/
  | neighbourDiscovery (e : Env) (target : W128) (sender : W128)
  /-- ECHO_REQUEST (R62): Answers an ICMP or ICMPv6 echo request. -/
  | echoRequest (e : Env) (dst : IpAddr) (src : IpAddr) (body : List Byte)
  /-- CHUNK (R436): A CHUNK frame is received, forwarded, or checked and combined by the Bellows. -/
  | chunk (e : Env) (f : Frame)
  /-- CHUNK_SEND (R452): The Bellows starts sending a chunk against a credit. -/
  | chunkSend (e : Env) (die : Nat)
  /-- LINK_CREDIT (R452): A CREDIT frame grants reduction-buffer slots to the sender. -/
  | linkCredit (e : Env) (f : Frame)
  /-- LINK_ACK (R437): A LINK_ACK frees acknowledged frames from the replay buffer. -/
  | linkAck (e : Env) (f : Frame)
  /-- LINK_NAK (R437): A LINK_NAK causes replay from the named frame. -/
  | linkNak (e : Env) (f : Frame)
  /-- ABORT (R453): An ABORT control frame ends the operation with COLL_MISMATCH or POISONED. -/
  | abortFrame (e : Env) (f : Frame)
  /-- CHUNK_ACKNOWLEDGE (R456): A CONTROL frame acknowledges a verified chunk and frees the sender's slot. -/
  | chunkAcknowledge (e : Env) (f : Frame)
  /-- SETTLE_REPORT (R458): A clean or failed report is combined toward settlement or retraction. -/
  | settleReport (e : Env) (f : Frame)
  /-- RETRACT (R460): A retraction poisons provisional sectors and taints the operation's consumers. -/
  | retract (e : Env) (f : Frame)
  /-- COLL_WAIT_LIMIT (R454): An operation awaiting a chunk past COLL_WAIT_LIMIT ends as a mismatch. -/
  | collWaitLimit (e : Env) (tag : Nat)
  /-- COLL_SETTLE_LIMIT (R458): An operation not settled COLL_SETTLE_LIMIT after release is retracted. -/
  | collSettleLimit (e : Env) (op : Nat)
  /-- RELAY_ROUTE (R564): A ROUTE frame starts a firmware relay into the receiver's slot. -/
  | relayRoute (e : Env) (f : Frame)
  /-- RELAY_DATA (R564): A DATA frame writes image bytes into the receiving slot, which is verified at the end. -/
  | relayData (e : Env) (f : Frame)
  /-- RELAY_REPORT (R565): A REPORT frame carries a hop result back toward module 0. -/
  | relayReport (e : Env) (f : Frame)
  /-- LANE_LOCK_LOSS (R434): Loss of lane lock takes a link DOWN. -/
  | laneLockLoss (e : Env) (link : Nat)
  /-- LINK_FEC_ERROR (R434): Uncorrectable FEC codewords are counted and may make a link DEGRADED. -/
  | linkFecError (e : Env) (link count : Nat)
  /-- LINK_RETRAIN (R434): Every 1 s a DOWN or DEGRADED link retrains and, after its check, may return UP. -/
  | linkRetrain (e : Env) (o : LinkOutcome)
  /-- RAP_READ (R517): Reads registers in kindling mode. -/
  | rapRead (r : RapPacket)
  /-- RAP_WRITE (R517): Writes registers in kindling mode. -/
  | rapWrite (r : RapPacket)
  /-- CLAIM (R516): Makes the sender the RAP owner. -/
  | claim (r : RapPacket)
  /-- RELEASE (R516): Ends RAP ownership. -/
  | releaseRap (r : RapPacket)
  /-- FUSE_READOUT (R524): Kindling step 3 reads and checks the fuse records. -/
  | fuseReadout (e : Env) (crcBad : List Nat)
  /-- BIST (R524): Kindling step 4 runs BIST on every die. -/
  | bist (e : Env) (badCores : List (Nat × Nat)) (badDies : List Nat)
  /-- CORE_ENABLE_APPLY (R525): Kindling step 5 applies the core-enable masks and derives the remap. -/
  | coreEnableApply (e : Env)
  /-- HBM_TRAINING (R528): Kindling step 6 trains every HBM stack. -/
  | hbmTraining (e : Env) (failed : List Nat)
  /-- LINK_TRAINING (R529): Kindling step 7 trains every link present. -/
  | linkTraining (e : Env) (outcomes : List LinkOutcome)
  /-- PRBS31_CHECK (R530): Kindling step 8 checks the error rate of each trained link. -/
  | prbs31Check (e : Env) (outcomes : List LinkOutcome)
  /-- STOKER_FIRMWARE_LOAD (R569): Kindling step 9 loads and verifies the Stoker firmware, handling trial slots. -/
  | stokerFirmwareLoad (e : Env)
  /-- CORE_FIRMWARE_DISTRIBUTION (R533): Kindling step 10 loads the core firmware into every enabled core. -/
  | coreFirmwareDistribution (e : Env) (failedTwice : List (Nat × Nat))
  /-- READY (R519): Kindling step 11 starts the Stoker, opens port 46210 and commits any trial image. -/
  | ready (e : Env)
  /-- KINDLE_STEP_COMPLETE (R522): A running kindling step ends with PASS, PASS_DEGRADED or FAIL. -/
  | kindleStepComplete (e : Env)
  /-- FLASH_PROG_SLOT (R573): Erases a slot for programming through RAP. -/
  | flashProgSlot (e : Env) (slot : W32)
  /-- FLASH_PROG_BUFFER (R573): Programs 1,024 bytes of a slot and advances the offset. -/
  | flashProgBuffer (e : Env) (values : List W32)
  /-- POWER_TARGET_RUN (R541): A write of TARGET 0 starts the exit from S2 or S3. -/
  | powerTargetRun (e : Env)
  /-- POWER_TARGET_S1 (R541): A write of TARGET 1 requests idle at suitable stoke boundaries. -/
  | powerTargetS1 (e : Env)
  /-- POWER_TARGET_S2 (R541): A write of TARGET 2 requests the Banked state. -/
  | powerTargetS2 (e : Env)
  /-- POWER_TARGET_S3 (R541): A write of TARGET 3 requests the Ember state. -/
  | powerTargetS3 (e : Env)
  /-- POWER_STATE_ENTRY (R541): Once no command is in flight and no window is open, S2 or S3 is entered. -/
  | powerStateEntry (e : Env)
  /-- POWER_STATE_EXIT_DONE (R541): The exit from S2 or S3 ends in RUN or EXIT_FAILED. -/
  | powerStateExitDone (e : Env) (failedStacks : List Nat) (outcomes : List LinkOutcome)
  /-- SUPPLY_WARNING (R544): A rail falling below the warning level halves the die clock and starts an episode. -/
  | supplyWarning (e : Env) (die mv : Nat)
  /-- SUPPLY_SUSTAINED (R545): 2 ms below the warning level stops admission of deadline commands. -/
  | supplySustained (e : Env) (die mv : Nat)
  /-- SUPPLY_RECOVERED (R544): 50 µs at or above the warning level ends the episode and restores the clock. -/
  | supplyRecovered (e : Env) (die mv : Nat)
  /-- SUPPLY_RESET_LEVEL (R547): A rail at the reset level holds the die in reset and causes a warm reset. -/
  | supplyResetLevel (e : Env) (die mv : Nat)
  /-- PWR_EN_HIGH (R595): The platform raises PWR_EN and the module brings up its rails. -/
  | pwrEnHigh (e : Env)
  /-- PWR_GOOD (R595): When every rail is up the module drives PWR_GOOD high and kindling step 2 begins. -/
  | pwrGood (e : Env)
  /-- PWR_EN_LOW (R595): PWR_EN low removes every rail, a power-on reset. -/
  | pwrEnLow (e : Env)
  /-- RESET_N_LOW (R598): A RESET_N low of 10 µs or more is a power-on reset. -/
  | resetNLow (e : Env) (ns : Nat)
  /-- VIN_OUT_OF_RANGE (R594): An input outside the permitted range removes every rail. -/
  | vinOutOfRange (e : Env) (mv ns : Nat)
  /-- ENTDAA (R599): I3C CCC that assigns a dynamic address. -/
  | entdaa (e : Env) (address : Nat)
  /-- SETDASA (R599): I3C CCC that sets a dynamic address from the static one. -/
  | setdasa (e : Env) (static address : Nat)
  /-- RSTDAA (R599): I3C CCC that resets the dynamic address. -/
  | rstdaa (e : Env)
  /-- GETPID (R599): I3C CCC that returns the provisioned identifier. -/
  | getpid (e : Env) (address : Nat)
  /-- GETBCR (R599): I3C CCC that returns the bus characteristics register. -/
  | getbcr (e : Env) (address : Nat)
  /-- GETDCR (R599): I3C CCC that returns the device characteristics register. -/
  | getdcr (e : Env) (address : Nat)
  /-- GETSTATUS (R599): I3C CCC that returns the target status. -/
  | getstatus (e : Env) (address : Nat)
  /-- GETMXDS (R599): I3C CCC that returns the maximum data speed. -/
  | getmxds (e : Env) (address : Nat)
  /-- ENEC (R601): I3C CCC that enables in-band interrupts. -/
  | enec (e : Env) (address : Nat) (events : Byte)
  /-- DISEC (R599): I3C CCC that disables in-band interrupts. -/
  | disec (e : Env) (address : Nat) (events : Byte)
  /-- I3C_OTHER_CCC (R599): Any other CCC is NACKed. -/
  | i3cOtherCcc (e : Env) (code : Byte)
  /-- I3C_PRIVATE_WRITE (R600): A one-byte private write sets the management read offset. -/
  | i3cPrivateWrite (e : Env) (address : Nat) (bytes : List Byte)
  /-- I3C_PRIVATE_READ (R600): A private read returns management fields from the offset onward. -/
  | i3cPrivateRead (e : Env) (address length : Nat) (tel : Telemetry)
  /-- PORT_WINDOW_END (R591): At each window boundary the port counters' LAST, PEAK and totals are updated. -/
  | portWindowEnd (e : Env)
  /-- UNKNOWN_OPCODE (R90): A command whose opcode is not in the table, or not defined at the session's version, is answered with BAD_DESCRIPTOR, cause UNKNOWN_OPCODE. -/
  | unknownOpcode (p : Packet) (opcode : W16)
  /-- FSYNC_ABSENT (R29): When no FRAME_SYNC_IN pulse has arrived for 3 s, FSYNC_PRESENT clears. -/
  | fsyncAbsent (e : Env)
  /-- PAUSE_FRAME (R602): A received Ethernet PAUSE frame is discarded. -/
  | pauseFrame (e : Env)
  /-- UNKNOWN_FRAME_KIND (R432): A Zhevub frame of a kind the negotiated version does not define is discarded and counted in UNKNOWN_FRAMES. -/
  | unknownFrameKind (e : Env) (f : Frame) (kind : Byte)
  /-- LINK_CRC_FAILURE (R437): A Zhevub frame that fails LINK_CRC or arrives out of FRAME_SEQ order is discarded, counted, and answered with LINK_NAK. -/
  | linkCrcFailure (e : Env) (link : Nat)
  /-- CHUNK_REQUESTED_AGAIN (R456): In verified release, a receiver's request for a chunk that failed its checksum makes the sender send that chunk again, up to 3 times. -/
  | chunkRequestedAgain (e : Env) (f : Frame)
  deriving DecidableEq, Repr

end Sys2Proof
end

