-- ==== Sys2Proof/Config.lean ====
section
/-! DEFINITION. What the spec leaves open: constants without a body. Nothing in Lean can say what they are, so a
claim holds whatever they are. Each is applied to the model's counter State.fresh, or to the operands it depends on. -/

namespace Sys2Proof

/-- Nanoseconds from a command's receipt to the stamp of its reply, before the bound of 02 R42 or 03 R87. -/
opaque Config.replyLatency : Nat → Nat

/-- A number that the spec leaves open. -/
opaque Config.freeNat : Nat → Nat

/-- A byte whose value the spec leaves open: byte `i` of the `n`-th open choice. -/
opaque Config.freeByte : Nat → Nat → Byte

/-- A choice between two behaviours that the spec allows. -/
opaque Config.freeBool : Nat → Bool

/-- Which of the results that 11 R361 allows the function of code `c` gives at the FP32 word `x`. -/
opaque Config.flame : Nat → Nat → Nat

/-- Which of the results within two units in the last place (13 R413) a power has: FP32 word and exponent. -/
opaque Config.power : Nat → Nat → Nat

/-- How a stack address maps to a set of its home slice (07 R236 names the slices and ways, not the mapping). -/
opaque Config.mantelSet : Nat → Nat → Nat

end Sys2Proof
end

