-- ==== Sys2Proof/Machine/FVal.lean ====
section
/-! DEFINITION. Floating-point values of the module (06 R189). -/

namespace Sys2Proof.Machine

/-- A floating-point value: a finite one keeps its sign, so that a zero has one. -/
inductive FVal where
  | nan
  | inf (neg : Bool)
  | fin (neg : Bool) (mag : Rat)
  deriving DecidableEq, Repr

end Sys2Proof.Machine
end

