-- ==== Sys2Proof/Machine/State.lean ====
section
/-! DEFINITION. The state of the module: every register, table, queue, buffer, memory and pin that the spec gives it,
as plain data, with the state right after a power-on reset. -/

namespace Sys2Proof.Machine

/-! ## Identity and flash (chapters 00, 17, 18) -/

/-- The three variants (00 R1). -/
inductive Variant where
  | ix8a
  | ix8s
  | ix4c
  deriving DecidableEq, Repr

/-- A signing-key slot of the fuses (18 R557). -/
structure KeySlot where
  present : Bool
  revoked : Bool
  /-- SHAKE256 digest, 32 bytes, of the Ed448 public key -/
  digest : List Byte
  deriving DecidableEq, Repr

/-- What the fuses and Ryqua hold (00 R1, 17 R513, R524, 18 R553, R557, R574). -/
structure Fuses where
  variant : Variant
  serial : Nat
  mac : Nat
  /-- the 64-byte device secret of Ryqua -/
  secret : List Byte
  /-- the X.509 certificate that Ryqua holds -/
  certificate : List Byte
  keys : List KeySlot
  minSecurity : Nat
  /-- per die, the 36 marks of bad physical cores -/
  badCores : List Nat
  deriving DecidableEq, Repr

/-- The register fields whose Reset column reads Heartwood, at their values in force. -/
structure Settings where
  /-- MT_CTRL (02 R28) -/
  source : Nat
  transport : Nat
  delayMech : Nat
  ppsEdge : Nat
  fsyncEdge : Nat
  domain : Nat
  stokeInterval : Nat
  /-- MT_EPOCH (02 R31) -/
  mtEpoch : Nat
  /-- NET_FLAGS to IPV6_GATEWAY3 (03 R64) -/
  netFlags : Nat
  ipv4Addr : Nat
  ipv4Prefix : Nat
  ipv4Gateway : Nat
  ipv6Addr : List Nat
  ipv6Prefix : Nat
  ipv6Gateway : List Nat
  /-- NCP_CTRL (03 R95) -/
  mtu : Nat
  notifyRetry : Nat
  sessionTimeout : Nat
  /-- KINDLE_CTRL (17 R521) -/
  distMode : Nat
  autoResume : Nat
  checkWindow : Nat
  /-- CORE_ENABLE_LO and CORE_ENABLE_HI of each die, as one 36-bit mask (17 R525) -/
  coreEnable : List Nat
  /-- POOL_CTRL (07 R234) -/
  fbLowWater : Nat
  fbHighWater : Nat
  /-- CORE_WATCHDOG (04 R141) -/
  stallLimit : Nat
  /-- COLL_CTRL (14 R466) -/
  collWaitLimit : Nat
  collSettleLimit : Nat
  /-- RETRAIN of each link (14 R439) -/
  linkRetrain : List Nat
  /-- PORT_WINDOW (19 R590) -/
  windowUs : Nat
  deriving DecidableEq, Repr

/-- The shipped defaults (02 R28, R31, 03 R64, R95, 04 R141, 07 R234, 14 R439, R466, 17 R521, 19 R590); a field whose
default no rule states is 0, and every core is enabled (log entry 6). -/
def Settings.shipped : Settings :=
  { source := 0, transport := 0, delayMech := 0, ppsEdge := 0, fsyncEdge := 0, domain := 0, stokeInterval := 25,
    mtEpoch := 0, netFlags := 0, ipv4Addr := 0, ipv4Prefix := 0, ipv4Gateway := 0, ipv6Addr := [0, 0, 0, 0],
    ipv6Prefix := 0, ipv6Gateway := [0, 0, 0, 0], mtu := 9000, notifyRetry := 10, sessionTimeout := 10,
    distMode := 0, autoResume := 0, checkWindow := 30, coreEnable := List.replicate 4 (2 ^ 36 - 1),
    fbLowWater := 2048, fbHighWater := 4096, stallLimit := 100, collWaitLimit := 1000, collSettleLimit := 1000,
    linkRetrain := List.replicate 64 1, windowUs := 1000 }

/-- One copy of Heartwood (18 R551, R571). -/
structure HeartwoodCopy where
  count : Nat
  valid : Bool
  settings : Settings
  bootCount : Nat
  format : Nat
  deriving DecidableEq, Repr

/-- The state of a firmware slot (18 R552). -/
inductive SlotState where
  | empty
  | staged
  | active
  | bad
  deriving DecidableEq, Repr

/-- The boot record (18 R552). -/
structure BootRecord where
  slots : List SlotState
  trial : Option Nat
  trialBoots : Nat
  deriving DecidableEq, Repr

/-- One copy of the boot record (18 R551). -/
structure BootCopy where
  count : Nat
  valid : Bool
  record : BootRecord
  deriving DecidableEq, Repr

/-- The contents of a firmware slot: the bytes programmed into it, and FW_DIGEST of the image (18 R555, R556). -/
structure FwSlot where
  bytes : List Byte
  digest : List Byte
  deriving DecidableEq, Repr

/-- An entry of the defect log (17 R527). -/
structure Defect where
  die : Nat
  core : Nat
  kind : Nat
  bootCount : Nat
  deriving DecidableEq, Repr

/-- The flash device (18 R550). -/
structure Flash where
  slots : List FwSlot
  boot : List BootCopy
  heartwood : List HeartwoodCopy
  defects : List Defect
  /-- per stack, the device identity a cold training was stored with (17 R528) -/
  hbmTraining : List (Option Nat)
  /-- per link, the peer serial the equaliser settings were stored with (17 R532) -/
  linkTraining : List (Option Nat)
  deriving DecidableEq, Repr

/-! ## Media time (chapter 02) -/

/-- TIME_STATE (02 R24). -/
inductive TimeState where
  | free
  | locked
  | holdover
  | unlocked
  deriving DecidableEq, Repr

/-- What the module keeps of its PTP master (02 R22, R23, R604). -/
structure Master where
  grandmaster : Nat
  /-- the fields master selection compares, most significant first -/
  rank : List Nat
  ptpTimescale : Bool
  utcOffset : Int
  /-- the interval at which it sends Sync, in nanoseconds -/
  syncInterval : Nat
  /-- steady time of its last usable Sync -/
  lastSync : Nat
  deriving DecidableEq, Repr

/-- Media time, its state and the inputs that set it (02 R21 to R35). -/
structure Clock where
  /-- nanoseconds of steps since power-on: the model's own, so that intervals can be measured (log entry 2) -/
  steady : Nat
  mt : Nat
  state : TimeState
  /-- Syncs in a row with an offset below 100 ns -/
  goodSyncs : Nat
  master : Option Master
  /-- the offset that the servo is still slewing away, source less counter -/
  slewLeft : Int
  stepPending : Bool
  /-- the source less the counter, when a step is pending -/
  stepOffset : Int
  /-- steady time at which HOLDOVER was entered -/
  holdoverSince : Nat
  arbSeen : Bool
  /-- steady times of the last PPS_IN edge and FRAME_SYNC_IN pulse -/
  lastPps : Option Nat
  lastFsync : Option Nat
  ppsPresent : Bool
  fsyncPresent : Bool
  /-- consecutive PPS_IN periods with an error below 100 ns -/
  ppsGood : Nat
  /-- MT_SET_SECONDS written and not yet used -/
  setSeconds : Option Nat
  /-- the counter has been set by an edge since the last source change (PPS_HOST) -/
  ppsAligned : Bool
  mtNowHi : Nat
  /-- the stoke interval in force before media time `stokeSwitch`, in units of 10 µs: a change takes effect there (R32) -/
  stokeInForce : Nat
  stokeSwitch : Nat
  /-- the last stoke boundary acted on -/
  lastBoundary : Nat
  fsyncOutliers : Nat
  deriving DecidableEq, Repr

/-- A FRAME_GRID (02 R33) as a stream holds it, re-phased under R35. -/
structure Grid where
  num : Nat
  den : Nat
  phase : Nat
  fsyncBound : Bool
  gridId : Nat
  /-- the re-phase base of R35: boundary `baseK` falls at media time `base` -/
  base : Nat
  baseK : Nat
  /-- boundaries after this one still await a pulse; and FRAME_SYNC_LOST has been raised since -/
  sinceK : Nat
  lost : Bool
  deriving DecidableEq, Repr

/-! ## Sessions, notifications and Flue windows (chapter 03) -/

/-- A status reply (03 R85, R86). -/
structure Reply where
  seq : Nat
  status : Nat
  cause : Nat
  eventSeq : Nat
  mediaTime : Nat
  data : List Byte
  deriving DecidableEq, Repr

/-- A notification record (03 R100). -/
structure NRecord where
  kind : Nat
  partition : Nat
  code : Nat
  cause : Nat
  eventSeq : Nat
  mediaTime : Nat
  cmdSeq : Nat
  jobTag : Nat
  payload : List Byte
  deriving DecidableEq, Repr

/-- A notification packet not yet acknowledged (03 R99). -/
structure NPacket where
  streamSeq : Nat
  recs : List NRecord
  deriving DecidableEq, Repr

/-- A session's notification ring (03 R103 to R105). -/
structure Ring where
  packets : List NPacket
  nextSeq : Nat
  /-- EVENT and COUNTER_SNAPSHOT records left out since the backlog began -/
  leftOut : Nat
  /-- steady time of the last resending -/
  lastRetry : Nat
  deriving DecidableEq, Repr

/-- A session, open or ended with its ring kept (03 R71 to R81, R605). -/
structure Session where
  peer : Endpoint
  version : Nat
  id : Nat
  notifyPort : Nat
  partMask : Nat
  eventMask : Nat
  helloSeq : Nat
  /-- no command has been recorded since HELLO (R80) -/
  first : Bool
  /-- H of R80 -/
  high : Nat
  /-- the recorded SEQs of the window with their stored replies -/
  stored : List Reply
  /-- steady time of the last command, or of the last NOTIFY_ACK that advanced -/
  lastActive : Nat
  opened : Bool
  /-- steady time at which it ended -/
  endedAt : Nat
  ring : Ring
  deriving DecidableEq, Repr

/-- A Flue window (03 R106 to R113). -/
structure Window where
  partition : Nat
  id : Nat
  gen : Nat
  session : Nat
  handle : Nat
  start : Nat
  rowLength : Nat
  rowCount : Nat
  rowPitch : Nat
  read : Bool
  burstSize : Nat
  hostPort : Nat
  hint : Nat
  burstCount : Nat
  creditLimit : Nat
  /-- write windows: bursts written in sequence, and those written beyond them -/
  cumSeq : Nat
  beyond : List Nat
  /-- bursts written since the last ACK, and steady time of the last burst received while one is unacknowledged -/
  sinceAck : Nat
  lastBurst : Option Nat
  /-- read windows: the next burst to send, and how many bursts have been sent at all -/
  next : Nat
  sent : Nat
  deriving DecidableEq, Repr

/-- The Nervia and Flue state of the Ethernet port (chapter 03). -/
structure Net where
  sessions : List Session
  nextSession : Nat
  /-- the last event sequence number stamped (R102) -/
  eventSeq : Nat
  discards : Nat
  duplicates : Nat
  notifyDiscards : Nat
  windows : List Window
  /-- the generation last given to each (partition, WINDOW_ID) -/
  windowGens : List (Nat × Nat × Nat)
  /-- the addresses in use since step 11 of the bring-up (R64) -/
  useV4 : Option Nat
  useV6 : Option Nat
  v4Prefix : Nat
  v4Gateway : Nat
  v6Prefix : Nat
  v6Gateway : Nat
  deriving DecidableEq, Repr

/-! ## Commands in flight and the calendar (chapters 02, 03) -/

/-- A cost record (02 R39). -/
structure Cost where
  format : Nat
  cores : Nat
  replays : Nat
  critCycles : Nat
  fireboxBytes : Nat
  woodshedBytes : Nat
  linkBytes : Nat
  flameLoads : Nat
  costId : Nat
  deriving DecidableEq, Repr

/-- Slots reserved for a command (02 R38, R45): slot n covers media times 10000 n to 10000 n + 9999. -/
structure Reservation where
  slots : List Nat
  cores : Nat
  fb : Nat
  ws : Nat
  links : Nat
  deriving DecidableEq, Repr

/-- A cause of R49 that struck a command, with the event that reported it. -/
structure Strike where
  code : Nat
  eventSeq : Nat
  /-- the member module named by R51, or 0 -/
  member : Nat
  deriving DecidableEq, Repr

/-- What an accepted notification command is to do. -/
inductive Work where
  | loadImage (image : Nat)
  | launch (run : Nat)
  | seqStep (step : Nat)
  | seqClose (seq : Nat)
  | collGroup (tag : Nat)
  | collPost (tag : Nat)
  | codecPush (push : Nat)
  | codecClose (handle : Nat)
  | stepCommit (journal : Nat)
  | ctrFreeze (partition : Nat)
  | fwStage
  | fwRelay
  | attest (nonce : List Byte) (flags : Nat)
  | partDestroy (partition : Nat)
  | reset (kind target : Nat)
  deriving DecidableEq, Repr

/-- A command in flight, from its reply to the stamp of its completion (02 R55). -/
structure Cmd where
  /-- ascending in order of acceptance -/
  id : Nat
  opcode : Nat
  session : Nat
  seq : Nat
  jobTag : Nat
  partition : Nat
  deadline : Nat
  /-- accepted with ACCEPTED -/
  contract : Bool
  replays : Nat
  reserved : Reservation
  /-- the image whose cost record it names by COST_REF, or 0 (04 R149) -/
  costImage : Nat
  costId : Nat
  /-- the event sequence number and media time of its reply -/
  replySeq : Nat
  replyTime : Nat
  /-- dies, stacks and links its work has used (02 R50) -/
  dies : List Nat
  hbmSet : List Nat
  links : List Nat
  strikes : List Strike
  poisoned : Bool
  tainted : Bool
  /-- the journal it belongs to, or 0 (12 R394) -/
  journal : Nat
  /-- numeric replays of its step so far -/
  replayed : Nat
  work : Work
  deriving DecidableEq, Repr

/-! ## Partitions and dampers (chapter 15) -/

/-- Who a request held by a Damper belongs to. -/
inductive Waiter where
  /-- macro-instruction `opId` of a core -/
  | core (core opId : Nat)
  /-- a chunk of collective operation `op` -/
  | chunk (op : Nat)
  /-- a burst of a read window -/
  | burst (partition window : Nat)
  /-- a codec engine's unit -/
  | codec (engine : Nat)
  deriving DecidableEq, Repr

/-- A request that a Damper has not admitted in full (15 R476). -/
structure DamperReq where
  bytes : Nat
  /-- bytes of one indivisible request: a sector for memory, all of it otherwise -/
  unit : Nat
  /-- class 0 read: admitted while the tokens stay at or above -BURST -/
  urgent : Bool
  waiter : Waiter
  deriving DecidableEq, Repr

/-- A Damper (15 R474 to R476, R486). -/
structure Damper where
  rate : Nat
  burst : Nat
  tokens : Int
  waiting : List DamperReq
  waitUs : Nat
  /-- a request has waited since the last refill -/
  waited : Bool
  deriving DecidableEq, Repr

/-- A command that a partition reset has ended (15 R483, 17 R537). -/
structure PartEnded where
  cmd : Nat
  journalled : Bool
  payload : List Byte
  deriving DecidableEq, Repr

/-- A partition (15 R469 to R473, R482 to R486). -/
structure Partition where
  num : Nat
  clusters : Nat
  slotQuota : Nat
  seqQuota : Nat
  windowQuota : Nat
  fbFloor : Nat
  fbCeiling : Nat
  wsFloor : Nat
  wsCeiling : Nat
  dampers : List Damper
  /-- the PART_DESTROY accepted for it, or 0 -/
  destroying : Nat
  resetting : Bool
  /-- the RESET command in progress, or 0 -/
  resetCmd : Nat
  /-- commands ended by the reset, to be completed in order of acceptance, with their payloads -/
  ended : List PartEnded
  deriving DecidableEq, Repr

/-! ## Memory (chapters 04, 07) -/

/-- The two HBM tiers (07 R217). -/
inductive Tier where
  | firebox
  | woodshed
  deriving DecidableEq, Repr

/-- An allocation (07 R216 to R233). -/
structure Alloc where
  handle : Nat
  partition : Nat
  base : Nat
  granules : Nat
  tier : Tier
  /-- stack list and a.first of R225 -/
  hbmSet : List Nat
  first : Nat
  affinity : Option Nat
  evictable : Bool
  owner : Nat
  kv : Bool
  /-- a CARVE has cut it into frames (08 R263) -/
  carved : Bool
  accessed : Bool
  lastUse : Nat
  promote : Bool
  deriving DecidableEq, Repr

/-- A freed allocation whose granules have not returned to the pool (07 R222). -/
structure Freed where
  alloc : Alloc
  /-- operations numbered below this were issued before the stamp -/
  before : Nat
  deriving DecidableEq, Repr

/-- A loaded image, or one being copied and checked (04 R142 to R149). -/
structure Image where
  handle : Nat
  partition : Nat
  bytes : List Byte
  /-- the copy read a poisoned sector -/
  poisoned : Bool
  loaded : Bool
  granules : Nat
  hbmSet : List Nat
  first : Nat
  deriving DecidableEq, Repr

/-- An HBM stack (07 R252, R253, R257, 17 R528). -/
structure Stack where
  inService : Bool
  tempC : Nat
  level : Nat
  /-- steady time since which the temperature has been below the value that leaves the level -/
  below : Option Nat
  levelChanges : Nat
  corrected : Nat
  uncorrectable : Nat
  deriving DecidableEq, Repr

/-- A 64-byte sector in a Mantel slice (07 R238, R239). -/
structure CacheLine where
  partition : Nat
  /-- virtual address of the sector -/
  va : Nat
  slice : Nat
  set : Nat
  prio : Nat
  dirty : Bool
  /-- order of last use -/
  used : Nat
  /-- steady time until which a fetch-ahead holds it -/
  heldUntil : Nat
  deriving DecidableEq, Repr

/-- A write waiting in a die write stage (07 R237): one byte-masked write of one sector. -/
structure StageWrite where
  partition : Nat
  core : Nat
  va : Nat
  bytes : List Byte
  poison : Bool
  deriving DecidableEq, Repr

/-- A hearth die: clock, supply episode, Mantel cache and write stage (07 R236, R254, 17 R544, R548). -/
structure Die where
  cache : List CacheLine
  stage : List StageWrite
  /-- arithmetic clock cycles times 1000 since power-on (19 R579) -/
  ticks : Nat
  railMv : Nat
  inEpisode : Bool
  sustained : Bool
  minMv : Nat
  episodes : Nat
  /-- event sequence number of the episode's SUPPLY_WARNING -/
  warnSeq : Nat
  /-- steady times of the first and of the last fall below the warning level in the episode -/
  fellFirst : Nat
  fellLast : Nat
  deriving DecidableEq, Repr

/-- Module memory and what governs it (chapter 07). -/
structure Mem where
  allocs : List Alloc
  freed : List Freed
  images : List Image
  nextHandle : Nat
  nextImage : Nat
  /-- allocations placed in each tier since READY (R225) -/
  placedFb : Nat
  placedWs : Nat
  /-- bytes of module memory that are not zero, keyed partition × 2^48 + virtual address (R220) -/
  cells : List Host.Cell
  /-- poisoned sectors, by the key of their first byte (R247) -/
  poison : List Nat
  /-- provisional sectors with the collective operation that wrote them (14 R458) -/
  provisional : List (Nat × Nat)
  /-- bytes of hob memory that are not zero, keyed core × 2^23 + address (04 R122) -/
  hob : List Host.Cell
  hobPoison : List Nat
  hbmSet : List Stack
  dies : List Die
  /-- demotion has begun below FB_LOW_WATER and goes on to FB_HIGH_WATER (R231) -/
  demoting : Bool
  demotions : Nat
  reclaims : Nat
  /-- ascending number of the next operation issued on memory -/
  nextOp : Nat
  deriving DecidableEq, Repr

/-! ## Cores (chapters 04, 05, 11, 19) -/

/-- A message held in a mailbox (04 R132 to R135). -/
structure Message where
  id : Nat
  source : Nat
  tag : Nat
  length : Nat
  /-- fragments arrived and not yet drained, in order, each with its poison mark -/
  frags : List (List Byte × Bool)
  arrived : Nat
  drained : Nat
  deriving DecidableEq, Repr

/-- A fragment that waits at its sender for a slot (04 R135). -/
structure SlotRequest where
  sender : Nat
  opId : Nat
  message : Nat
  source : Nat
  tag : Nat
  length : Nat
  bytes : List Byte
  poison : Bool
  last : Bool
  deriving DecidableEq, Repr

/-- What holds an issued macro-instruction back from retiring. -/
inductive Pending where
  /-- nothing but time and its Damper requests -/
  | none
  /-- SEND: fragments that have not entered the destination mailbox -/
  | sending (left : Nat)
  /-- RECV: the message it drains, once one has matched -/
  | receiving (message : Option Nat)
  /-- ATTN with an append that waits for its staging half (08 R281) -/
  | half
  /-- a custom function table that is still loading (11 R370) -/
  | table (bank : Nat)
  deriving DecidableEq, Repr

/-- What an ATTN with COMMIT set publishes when it retires (08 R276, R277, R280). -/
structure KvCommit where
  /-- frames flushed into, in page order, and bough blocks opened -/
  pages : List Nat
  boughs : Nat
  /-- the active half, its fill and the layer's length afterwards -/
  half : Nat
  fill : Nat
  length : Nat
  deriving DecidableEq, Repr

/-- A macro-instruction that has issued and not retired (04 R129, 05 R166). -/
structure Macro where
  index : Nat
  /-- entries of the program it stands for: one, or the members of a fuse group (10 R349) -/
  span : Nat
  /-- the 32 bytes of its entry, as decoded -/
  entry : List Byte
  opId : Nat
  /-- what it has copied at issue: descriptors, bound sources and entries, by hob address (05 R166, R167) -/
  desc : List (Nat × List Byte)
  /-- hob ranges [lo, hi) read and written (R130) -/
  reads : List (Nat × Nat)
  writes : List (Nat × Nat)
  /-- a DMA engine is held -/
  dma : Bool
  pending : Pending
  /-- status words to add to at retirement, by hob address, with what each field gains (06 R203, 08 R288) -/
  status : List (Nat × List Nat)
  /-- hob bytes written at retirement (13 R423) -/
  late : List (Nat × List Byte)
  poisoned : Bool
  /-- it has stopped its launch after issue (11 R369) -/
  failed : Bool
  decodeTick : Nat
  issueTick : Nat
  /-- the sequence, layer, staging half and fill, and the frames, of an ATTN's snapshot (08 R274, R281) -/
  attnSeq : Nat
  attnLayer : Nat
  attnHalf : Nat
  attnFill : Nat
  frames : List Nat
  /-- present when COMMIT is set -/
  commit : Option KvCommit
  /-- Flame banks it is bound to (11 R370) -/
  banks : List Nat
  deriving DecidableEq, Repr

/-- What holds the issue of later macro-instructions (04 R136, R138). -/
inductive Hold where
  | none
  | counter (counter threshold : Nat)
  | barrier (count : Nat)
  | mailbox (tag threshold : Nat)
  | fence (scope : Nat)
  deriving DecidableEq, Repr

/-- A custom function table in a bank of the Flame unit (11 R370, R380). -/
structure Bank where
  valid : Bool
  partition : Nat
  va : Nat
  version : Nat
  table : List Byte
  poisoned : Bool
  loading : Bool
  deriving DecidableEq, Repr

/-- A section that a core's hob memory holds intact (04 R152). -/
structure Resident where
  image : Nat
  section_ : Nat
  lo : Nat
  length : Nat
  deriving DecidableEq, Repr

/-- An event counter of a core with its configuration (19 R578 to R582). -/
structure Counter where
  value : Nat
  event : Nat
  chain : Bool
  filter : Nat
  overflow : Bool
  deriving DecidableEq, Repr

/-- A sample record (19 R584) waiting in a core's buffer. -/
abbrev Sample := List Byte

/-- Bytes that a macro-instruction has written outside a journal: the model's own, so that the outputs of a launch that
stops, or of a macro-instruction that a reset cuts off, can be left undefined (04 R155, log entry 76). -/
structure Output where
  /-- the operation that wrote, 0 while it is at work -/
  op : Nat
  /-- the allocation written to, none for hob memory -/
  handle : Option Nat
  /-- first key of module memory, or hob address -/
  lo : Nat
  length : Nat
  deriving DecidableEq, Repr

/-- A hearth core, by its logical number (chapter 04). -/
structure CoreSt where
  /-- the physical core behind it (R117) -/
  phys : Option Nat
  /-- the run it takes part in, or 0, and its relative number -/
  run : Nat
  rel : Nat
  /-- program table: hob address and entries -/
  progBase : Nat
  progLen : Nat
  next : Nat
  unretired : List Macro
  hold : Hold
  holdIndex : Nat
  barriers : Nat
  /-- entries still to retire unissued after a reuse (09 R325) -/
  skip : Nat
  halting : Bool
  finished : Bool
  startTick : Nat
  lastTick : Nat
  events : List Nat
  residency : List Resident
  mailbox : List Message
  requests : List SlotRequest
  slotsUsed : Nat
  nextMessage : Nat
  dropped : Nat
  hobCorrected : Nat
  hobPoisoned : Nat
  poisonSector : Nat
  poisonValid : Bool
  /-- steady time since which it is stalled (R140), and that time less what a T4 halt took -/
  stalledSince : Option Nat
  /-- the oldest decoded macro-instruction waits at issue (05 R166, 04 R130) -/
  issueWait : Bool
  /-- the entry decoded and not issued, with the die's ticks at its decoding (05 R184) -/
  decoded : Option (List Byte × Nat)
  banks : List Bank
  tableLoads : Nat
  monoFails : Nat
  /-- eligible tiles of each MATMUL, CONV3D and ATTN counted for witness selection (12 R389) -/
  witnessCount : Nat
  updates : Nat
  nonfiniteWeights : Nat
  rootConverged : Nat
  rootSkipped : Nat
  rootNotConverged : Nat
  rootNonfinite : Nat
  counters : List Counter
  /-- counters stopped under HOLD (19 R586) -/
  held : Bool
  countdown : Nat
  samples : List Sample
  /-- what its run's macro-instructions have written, newest first: the model's own -/
  outputs : List Output
  deriving DecidableEq, Repr

/-- What a run is for. -/
inductive RunKind where
  | launch (cmd : Nat)
  | pass (step : Nat)
  | batch (batch : Nat)
  deriving DecidableEq, Repr

/-- A launch of an image on a core set: of a LAUNCH, a pass or a batch (04 R150 to R155). -/
structure Run where
  id : Nat
  kind : RunKind
  image : Nat
  partition : Nat
  /-- logical cores, in ascending order; empty until placed (09 R316) -/
  cores : List Nat
  args : List Byte
  forceCopy : Bool
  started : Bool
  boundary : Nat
  /-- the low 32 bits of the reply's EVENT_SEQ (R157) -/
  launchSeq : Nat
  attempt : Nat
  fail : Nat
  failCause : Nat
  failCore : Nat
  failIndex : Nat
  poisoned : Bool
  /-- operation number at its first start: which watch entries it sees (12 R385) -/
  startOp : Nat
  /-- widening is closed for its step (12 R401) -/
  wideningClosed : Bool
  /-- it has retired an ATTN with COMMIT set and tokens to append (12 R404) -/
  committed : Bool
  deriving DecidableEq, Repr

/-! ## Paged attention (chapter 08) -/

/-- The state of a page frame (08 R260). -/
inductive FrameState where
  | uncarved
  | free
  | used
  | ash
  deriving DecidableEq, Repr

/-- An entry of the page-frame table (08 R260). -/
structure PageFrame where
  num : Nat
  dataVa : Nat
  sidecarVa : Nat
  refcount : Nat
  partition : Nat
  state : FrameState
  geometry : Nat
  pageScale : Nat
  tagFlags : Nat
  t0 : Nat
  t1 : Nat
  y0 : Nat
  y1 : Nat
  x0 : Nat
  x1 : Nat
  listOwner : Nat
  /-- the allocation it was carved from -/
  alloc : Nat
  deriving DecidableEq, Repr

/-- The page table of one layer of a sequence (08 R267, R274). -/
structure Layer where
  generation : Nat
  pages : List Nat
  /-- bough blocks it holds -/
  boughs : Nat
  half : Nat
  fill : Nat
  length : Nat
  deriving DecidableEq, Repr

/-- The binding of a sequence (08 R264). -/
structure Binding where
  geometry : Nat
  layers : Nat
  layout : Nat
  basePos : Nat
  frameTokens : Nat
  rowTokens : Nat
  staging : Nat
  stagingOffset : Nat
  tables : List Layer
  deriving DecidableEq, Repr

/-- Page-frame table, page tables and walker caches (chapter 08). -/
structure Kv where
  frames : List PageFrame
  boughsUsed : Nat
  /-- page-table cache lines of each die, most recent first -/
  ptc : List (List Nat)
  /-- per die -/
  ptcHits : List Nat
  ptcMisses : List Nat
  pagesKept : Nat
  pagesCulled : Nat
  deriving DecidableEq, Repr

/-! ## Sequences (chapter 09) -/

/-- STATE of a sequence (09 R299). -/
inductive SeqState where
  | opened
  | ready
  | running
  | banked
  | evicted
  | closed
  deriving DecidableEq, Repr

/-- An entry of the sequence table in use or CLOSED (09 R299). -/
structure Seq where
  handle : Nat
  /-- index among the module's root blocks -/
  index : Nat
  state : SeqState
  partition : Nat
  refine : Bool
  priority : Nat
  batchMax : Nat
  refreshPeriod : Nat
  batchWait : Nat
  model : Nat
  grid : Option Grid
  binding : Option Binding
  passesDone : Nat
  lastRun : Nat
  resultHandle : Nat
  resultOffset : Nat
  resultBytes : Nat
  tilesComputed : Nat
  tilesReused : Nat
  coreSet : Nat
  /-- the SEQ_CLOSE in progress, or 0 -/
  closing : Nat
  /-- event sequence number of the SEQ_CLOSE completion -/
  closedSeq : Nat
  deriving DecidableEq, Repr

/-- An accepted step not yet complete (09 R308 to R314). -/
structure SeqStep where
  id : Nat
  cmd : Nat
  seq : Nat
  passes : Nat
  passIndex : Nat
  /-- media time before which no pass launches -/
  release : Nat
  args : List Byte
  passesRun : Nat
  forced : Nat
  computed : Nat
  reused : Nat
  batchCount : Nat
  cyclesMax : Nat
  /-- attempt number of the pass, 0 to 4 -/
  attempt : Nat
  batch : Nat
  deriving DecidableEq, Repr

/-- A decode batch (09 R318, R319). -/
structure Batch where
  id : Nat
  partition : Nat
  model : Nat
  batchMax : Nat
  batchWait : Nat
  members : List Nat
  /-- the command whose reservation it holds, or 0 when best effort -/
  lead : Nat
  start : Nat
  closeAt : Nat
  closed : Bool
  launched : Bool
  deriving DecidableEq, Repr

/-- The sequence table and its work (chapter 09). -/
structure Seqs where
  table : List Seq
  steps : List SeqStep
  batches : List Batch
  runs : List Run
  nextSeq : Nat
  nextId : Nat
  computed : Nat
  reused : Nat
  deriving DecidableEq, Repr

/-! ## Numeric watch and journals (chapter 12) -/

/-- The watch policy of a partition (12 R383). -/
structure Policy where
  replayLimit : Nat
  alphaShift : Nat
  warmup : Nat
  jumpThreshold : Nat
  witnessPeriod : Nat
  witnessCount : Nat
  witnessBound : Nat
  silenceThreshold : Nat
  holdSteps : Nat
  budgetBytes : Nat
  budgetCycles : Nat
  deriving DecidableEq, Repr

/-- The defaults of R383. 8.0 is 0x41000000 and 2^-7 is 0x3C000000 in FP32. -/
def Policy.initial : Policy :=
  { replayLimit := 2, alphaShift := 4, warmup := 8, jumpThreshold := 0x41000000, witnessPeriod := 256,
    witnessCount := 1, witnessBound := 0x3C000000, silenceThreshold := 64, holdSteps := 16, budgetBytes := 0,
    budgetCycles := 0 }

/-- What the Draught gauge has seen of an entry in one attempt (12 R387). -/
structure Taps where
  count : Nat
  /-- the sum of v², kept exactly -/
  sumSq : Rat
  /-- largest finite |v|, an FP32 bit pattern, and whether there was one -/
  amax : Nat
  finite : Bool
  nonfinite : Bool
  /-- every v was zero; and every block written was a zero block -/
  allZero : Bool
  zeroBlocks : Bool
  deriving DecidableEq, Repr

def Taps.none : Taps :=
  { count := 0, sumSq := 0, amax := 0, finite := false, nonfinite := false, allZero := true, zeroBlocks := true }

/-- A watch entry with its state (12 R384, R401 to R408). -/
structure WatchEntry where
  index : Nat
  layerId : Nat
  gradient : Bool
  valid : Bool
  jump : Bool
  witness : Bool
  fallbackOk : Bool
  handle : Nat
  offset : Nat
  length : Nat
  templateHandle : Nat
  templateOffset : Nat
  wideBytes : Nat
  wideCycles : Nat
  norm : Nat
  silence : Nat
  holdLeft : Nat
  wide : Bool
  flagged : Bool
  /-- step state of R401, of the step that `stepKey` names: a run, or a journal with its mark -/
  stepKey : Nat × Nat
  stepRescaled : Bool
  stepWitnessed : Bool
  stepFlagged : Bool
  stepWidened : Bool
  /-- the taps and witness results of the attempt that `tapKey` names, and the run that wrote the entry last -/
  tapKey : Nat × Nat × Nat
  taps : Taps
  lastRun : Nat
  disagreements : Nat
  worstRel : FVal
  worstCore : Nat
  /-- operation numbers from which and until which launches that start see the entry (R385) -/
  since : Nat
  retired : Option Nat
  deriving DecidableEq, Repr

/-- Where a journal stands (12 R394 to R399). -/
inductive JournalState where
  | opened
  | committing
  | aborted
  deriving DecidableEq, Repr

/-- A journalled command that has ended in this attempt, with what its completion is to say (12 R398). -/
structure Ended where
  cmd : Nat
  payload : List Byte
  deriving DecidableEq, Repr

/-- A journal (12 R394 to R400). -/
structure Journal where
  handle : Nat
  partition : Nat
  allocs : List Nat
  fbReserved : Nat
  wsReserved : Nat
  state : JournalState
  commitCmd : Nat
  /-- its commands, in order of acceptance, and those that have ended in this attempt -/
  cmds : List Nat
  ended : List Ended
  /-- shadowed granules, by granule key, and the shadow bytes -/
  shadowed : List Nat
  shadow : List Host.Cell
  shadowPoison : List Nat
  attempt : Nat
  attempts : Nat
  widened : Nat
  flagged : Nat
  events : Nat
  /-- 0, or the status and cause with which the step failed -/
  failed : Nat
  failedCause : Nat
  wideningClosed : Bool
  /-- a retraction has reached it: its step replays once its launches have stopped (14 R462) -/
  retracted : Bool
  deriving DecidableEq, Repr

/-- The watch of one partition. -/
structure Watch where
  partition : Nat
  policy : Policy
  entries : List WatchEntry
  /-- steps of the partition that have committed (R388) -/
  committed : Nat
  deriving DecidableEq, Repr

/-- Numeric watch of the module (chapter 12). -/
structure WatchSt where
  parts : List Watch
  journals : List Journal
  replays : Nat
  widened : Nat
  witnessTiles : Nat
  witnessFails : Nat
  deriving DecidableEq, Repr

/-! ## Links and collectives (chapter 14) -/

/-- STATE of a link (14 R433, R439). -/
inductive LinkState where
  | down
  | up
  | degraded
  deriving DecidableEq, Repr

/-- A frame in a replay buffer (14 R435, R437). -/
structure SentFrame where
  kind : Nat
  frame : Frame
  replays : Nat
  deriving DecidableEq, Repr

/-- A Zhevub link (14 R430 to R442). -/
structure Link where
  state : LinkState
  width : Nat
  narrow : Bool
  reason : Nat
  lanes : Nat
  protoMinor : Nat
  protoMajor : Nat
  peerSerial : Nat
  fecErrors : Nat
  crcFails : Nat
  checksumFails : Nat
  replaysCount : Nat
  unknownFrames : Nat
  forwardDiscards : Nat
  /-- FRAME_SEQ of the next frame sent, and of the next frame expected -/
  nextOut : Nat
  nextIn : Nat
  replay : List SentFrame
  /-- uncorrectable codewords with the steady time they fell at, and the times of checksum failures -/
  fecTimes : List (Nat × Nat)
  sumTimes : List Nat
  /-- steady time of the last training -/
  lastTrain : Nat
  /-- how it came out of training, for step 8: lane mask and width that trained -/
  trainedWidth : Nat
  trainedLanes : Nat
  /-- the stored settings were loaded (17 R532) -/
  fast : Bool
  deriving DecidableEq, Repr

/-- A member of a group (14 R445). -/
structure Member where
  serial : Nat
  linkMask : Nat
  deriving DecidableEq, Repr

/-- A collective group (14 R444 to R446). -/
structure Group where
  tag : Nat
  partition : Nat
  members : List Member
  rank : Nat
  dims : Nat
  sizes : List Nat
  sequence : Nat
  stale : Bool
  deriving DecidableEq, Repr

/-- One entry of a COLL_POST (14 R447), with the addresses its ranges start at. -/
structure CollEntry where
  kind : Nat
  wireFormat : Nat
  reduceFormat : Nat
  memFormat : Nat
  shiftDim : Nat
  shiftBack : Bool
  peer : Nat
  count : Nat
  wireScale : Nat
  srcHandle : Nat
  srcOffset : Nat
  dstHandle : Nat
  dstOffset : Nat
  srcVa : Nat
  dstVa : Nat
  deriving DecidableEq, Repr

/-- A chunk of an operation on its way in: the frames received so far, by BYTE_OFFSET (14 R436). -/
structure ChunkIn where
  step : Nat
  chunk : Nat
  source : Nat
  link : Nat
  count : Nat
  frames : Nat
  bytes : List (Nat × List Byte)
  checksum : Nat
  /-- times it has been requested again -/
  resends : Nat
  deriving DecidableEq, Repr

/-- A chunk waiting to be sent, or sent and held until it is acknowledged (14 R452, R456). -/
structure ChunkOut where
  step : Nat
  chunk : Nat
  dest : Nat
  /-- the rank that encoded it -/
  source : Nat
  bytes : List Byte
  sent : Bool
  resends : Nat
  deriving DecidableEq, Repr

/-- Where an operation stands (14 R449 to R458). -/
inductive CollPhase where
  | waiting
  | running
  | released
  | settled
  | retracted
  deriving DecidableEq, Repr

/-- Why and by whom an operation is retracted (14 R461). -/
structure Retraction where
  cause : Nat
  detector : Nat
  source : Nat
  chunk : Nat
  deriving DecidableEq, Repr

/-- A command that consumed a provisional result (14 R459). -/
structure Consumer where
  cmd : Nat
  session : Nat
  seq : Nat
  jobTag : Nat
  partition : Nat
  deriving DecidableEq, Repr

/-- A collective operation of a COLL_POST (14 R447 to R463): one entry, or a fused batch. -/
structure CollOp where
  id : Nat
  cmd : Nat
  partition : Nat
  tag : Nat
  /-- the COLL_POST as a command, for records stamped after its completion -/
  owner : Consumer
  journal : Nat
  entries : List CollEntry
  early : Bool
  chunkCode : Nat
  fused : Bool
  /-- set when the operation starts -/
  sequence : Nat
  signature : Nat
  phase : CollPhase
  step : Nat
  /-- working values of the whole vector, as FP32 words -/
  acc : List Nat
  incoming : List ChunkIn
  outgoing : List ChunkOut
  /-- chunks received and used in the current step -/
  done : List Nat
  /-- BROADCAST: wire bytes of the chunks, as the root encoded them -/
  kept : List (Nat × List Byte)
  /-- PERMUTE: the rank whose PEER names this one, once it has sent -/
  permuteSource : Option Nat
  saturated : Nat
  resends : Nat
  /-- steady time of the last chunk, and of release -/
  lastChunk : Nat
  releasedAt : Nat
  /-- reports of R458: combining, the combined value, the ring hop awaited, and reports received ahead -/
  reporting : Bool
  failed : Bool
  reportDim : Nat
  reportHop : Nat
  reports : List (Nat × Nat × Bool)
  /-- a retraction that waits for the release here -/
  retract : Option Retraction
  consumers : List Consumer
  deriving DecidableEq, Repr

/-- A COLL_POST in progress, or ended in a journal (14 R449, R450, R462). -/
structure CollPost where
  cmd : Nat
  partition : Nat
  tag : Nat
  /-- its operations in order, and how many are done -/
  ops : List Nat
  started : Bool
  opsDone : Nat
  ended : Bool
  saturated : Nat
  resends : Nat
  deriving DecidableEq, Repr

/-- Links and collectives of the module (chapter 14). -/
structure Zhevub where
  links : List Link
  groups : List Group
  ops : List CollOp
  posts : List CollPost
  nextOp : Nat
  /-- credits held toward each module, by serial; and slots granted to each -/
  credits : List (Nat × Nat)
  grants : List (Nat × Nat)
  /-- CHUNK frames of operations that have not started here -/
  waiting : List Frame
  mismatches : Nat
  retracts : Nat
  resends : Nat
  tainted : Nat
  deriving DecidableEq, Repr

/-! ## Codec (chapter 16) -/

/-- An accepted push (16 R503). -/
structure Push where
  id : Nat
  cmd : Nat
  handle : Nat
  frameCount : Nat
  flags : Nat
  firstBoundary : Nat
  firstFrame : Nat
  aus : List (Nat × Nat)
  deadline : Nat
  /-- frame and row in progress, the bits kept and coded so far, rows re-quantised in this frame -/
  frame : Nat
  row : Nat
  kept : Nat
  coded : Nat
  requants : Nat
  /-- 16-byte entries of R507, in order -/
  done : List (List Byte)
  poisoned : Bool
  deriving DecidableEq, Repr

/-- A codec handle (16 R495 to R509). -/
structure Codec where
  handle : Nat
  partition : Nat
  engine : Nat
  hevc : Bool
  decode : Bool
  bitDepth : Nat
  width : Nat
  height : Nat
  planeLayout : Nat
  rotation : Nat
  colour : Nat
  vbr : Bool
  srcWidth : Nat
  srcHeight : Nat
  bitrate : Nat
  cpbSize : Nat
  initialDelay : Nat
  maxFrameBytes : Nat
  grid : Grid
  srcHandle : Nat
  srcOffset : Nat
  lumaPitch : Nat
  chromaPitch : Nat
  frameStride : Nat
  dstHandle : Nat
  dstOffset : Nat
  ringSize : Nat
  keyInterval : Nat
  refFrames : Nat
  requantRows : Nat
  qMin : Nat
  qMax : Nat
  poolPictures : Nat
  closing : Nat
  /-- the boundary after the last frame of the last push, once a push has been accepted -/
  nextBoundary : Option Nat
  written : Nat
  releasedTo : Nat
  reservedEnd : Nat
  /-- pool pictures the host holds (decode) -/
  hostPics : Nat
  /-- decode: pictures the stream's DPB holds, pool pictures kept as references, and those not yet output, with the
  grid index, access unit and film-grain flag of each -/
  dpb : Nat
  refs : List Nat
  toOutput : List (Nat × Nat × Nat × Bool)
  /-- bits in the receiver's buffer before the next removal -/
  fullness : Rat
  keyCount : Nat
  keyPending : Bool
  /-- decode: waiting for a key frame or IDR picture -/
  dropping : Bool
  deriving DecidableEq, Repr

/-- A codec engine (16 R510, R511). -/
structure CodecEngine where
  busy : Bool
  syntaxFill : Nat
  /-- the push whose unit is in progress, or 0 -/
  unit : Nat
  framesEncoded : Nat
  framesDecoded : Nat
  requantCount : Nat
  skipFrames : Nat
  fillerBytes : Nat
  decodeErrors : Nat
  deriving DecidableEq, Repr

structure CodecSt where
  handles : List Codec
  pushes : List Push
  engines : List CodecEngine
  nextId : Nat
  deriving DecidableEq, Repr

/-! ## Bring-up, resets and power (chapter 17) -/

/-- Where the module is in its life. -/
inductive Mode where
  /-- no rails (R595) -/
  | off
  /-- the rails are coming up: the Chimney die answers, PWR_GOOD is low -/
  | rails
  | kindling
  | ready
  deriving DecidableEq, Repr

/-- PSTATE (17 R540). -/
inductive PState where
  | run
  | s1
  | s2
  | s3
  | entering
  | leaving
  | exitFailed
  deriving DecidableEq, Repr

/-- The RAP owner (17 R516). -/
structure Owner where
  peer : Endpoint
  last : Nat
  deriving DecidableEq, Repr

/-- A reply sent to the RAP owner (17 R514, R518). -/
structure RapReply where
  seq : Nat
  bytes : List Byte
  deriving DecidableEq, Repr

/-- A requested reset that has not begun (17 R535). -/
inductive ResetReq where
  | warm (cause die : Nat)
  | powerOn
  deriving DecidableEq, Repr

/-- Bring-up, resets and power (chapter 17). -/
structure Boot where
  mode : Mode
  stepDone : Nat
  stepRunning : Nat
  result : Nat
  failCode : Nat
  /-- steady times at which the running or last step started and ended -/
  stepStart : Nat
  stepEnd : Nat
  /-- the action of the running step has been taken, and the RESULT and FAIL_CODE it will end with -/
  stepActed : Bool
  endResult : Nat
  endCode : Nat
  fastResume : Bool
  /-- the automatic run of R523 is in progress -/
  autoRun : Bool
  owner : Option Owner
  lastRap : Option RapReply
  fuseCrcBad : List Bool
  fuseMarks : List Nat
  bistBad : List Nat
  enabled : List Nat
  lastCause : Nat
  supplyDie : Nat
  target : Nat
  pstate : PState
  /-- what ENTERING and LEAVING lead to or come from: 2 or 3 -/
  pdeep : Nat
  resetReq : Option ResetReq
  bootCount : Nat
  format : Nat
  /-- capability block fixed at READY (01 R19) -/
  caps : List Byte
  deriving DecidableEq, Repr

/-! ## Firmware (chapter 18) -/

/-- An FW_STAGE, or the receiving half of a relay, in progress (18 R560, R564). -/
structure Stage where
  /-- the FW_STAGE command, or 0 for a relay received -/
  cmd : Nat
  slot : Nat
  length : Nat
  srcPartition : Nat
  srcHandle : Nat
  srcOffset : Nat
  deriving DecidableEq, Repr

/-- A hop entry of FW_RELAY (18 R562). -/
structure Hop where
  link : Nat
  target : Nat
  expect : Nat
  deriving DecidableEq, Repr

/-- A hop result (18 R565). -/
structure HopResult where
  serial : Nat
  status : Nat
  cause : Nat
  deriving DecidableEq, Repr

/-- A relay that this module originates or forwards (18 R562 to R565). -/
structure Relay where
  cmd : Nat
  id : Nat
  origin : Nat
  hop : Nat
  hops : List Hop
  results : List (Option HopResult)
  /-- the link it was received by, for reports back -/
  inLink : Option Nat
  lastReport : Nat
  /-- bytes of the image received so far, and the length announced -/
  received : Nat
  length : Nat
  slot : Nat
  deriving DecidableEq, Repr

/-- Firmware, trust and Heartwood in operation (chapter 18). -/
structure Fw where
  activeSlot : Nat
  fellBack : Bool
  defaulted : Bool
  /-- armed slot and activation time -/
  armed : Option (Nat × Nat)
  stage : Option Stage
  relay : Option Relay
  attests : List Nat
  progSlot : Option Nat
  progOffset : Nat
  /-- the programmed slot is the first choice of step 9 -/
  progFirst : Bool
  /-- a Heartwood store is waiting -/
  storeDue : Bool
  deriving DecidableEq, Repr

/-! ## Counters and ports (chapter 19) -/

/-- Sampling and snapshots of a partition (19 R581 to R589). -/
structure PartCtr where
  partition : Nat
  shift : Nat
  handle : Nat
  offset : Nat
  records : Nat
  written : Nat
  lost : Nat
  snapId : Nat
  /-- the latest snapshot: per core, OVERFLOW and the 16 values -/
  snap : List (Nat × Nat × List Nat)
  deriving DecidableEq, Repr

/-- A freeze waiting for its instant (19 R586). -/
structure Freeze where
  partition : Nat
  cmd : Nat
  gridId : Nat
  boundary : Nat
  hold : Bool
  ports : Bool
  deriving DecidableEq, Repr

/-- A port's byte counters (19 R590, R591). -/
structure Port where
  window0 : Nat
  window1 : Nat
  last0 : Nat
  last1 : Nat
  peak : Nat
  /-- running totals in bytes -/
  total0 : Nat
  total1 : Nat
  hi0 : Nat
  hi1 : Nat
  deriving DecidableEq, Repr

structure Ctrs where
  parts : List PartCtr
  freezes : List Freeze
  ports : List Port
  /-- the window in force, in microseconds, and the media time of its last boundary -/
  windowInForce : Nat
  lastWindow : Nat
  deriving DecidableEq, Repr

/-! ## Pins and the management target (chapter 20) -/

structure Phys where
  pwrEn : Bool
  pwrGood : Bool
  /-- ADDR_SEL, read once when the Chimney rails rise -/
  addrSel : Nat
  /-- highest PIN_W seen since the last read of PEAK_W -/
  peakW : Nat
  dynAddr : Option Nat
  ibiEnabled : Bool
  readOffset : Nat
  /-- the bytes of the field whose read began at its first byte, not yet taken -/
  sample : List Byte
  deriving DecidableEq, Repr

/-! ## What leaves the module in a step -/

/-- One thing the module sends. The model's own, so that claims can speak of it: State.out holds what the last
command made the module send, in order. -/
inductive Emission where
  | udp (srcPort : Nat) (dst : Endpoint) (payload : List Byte)
  | arpReply (target sender : W32)
  | gratuitousArp (address : W32)
  | neighbourAdvert (target dst : W128)
  | unsolicitedAdvert (address : W128)
  | echoReply (dst src : IpAddr) (body : List Byte)
  | frame (link kind : Nat) (f : Frame)
  | i3cAck
  | i3cNack
  | i3cData (bytes : List Byte)
  | ibi (byte : Byte)
  deriving DecidableEq, Repr

/-! ## The state -/

/-- The module. `pending`, `out` and `fresh` are the model's own. -/
structure State where
  fuses : Fuses
  flash : Flash
  set : Settings
  clock : Clock
  net : Net
  cmds : List Cmd
  nextCmd : Nat
  parts : List Partition
  mem : Mem
  cores : List CoreSt
  kv : Kv
  seqs : Seqs
  watch : WatchSt
  zhevub : Zhevub
  codec : CodecSt
  boot : Boot
  fw : Fw
  ctrs : Ctrs
  phys : Phys
  /-- commands waiting, first in, first out -/
  pending : List Instr
  /-- what the module has sent in the last step -/
  out : List Emission
  /-- how many open choices have been taken: the argument of the free values of Config -/
  fresh : Nat
  deriving DecidableEq, Repr

/-- The reasons a step stops with a fault: none. Every command of the table has an effect, or is turned away with a
status of the module, and both are next states. -/
inductive Fault where
  deriving DecidableEq, Repr

/-- The reasons a command has no meaning. -/
inductive Refusal where
  /-- raised by an arm of Dispatch for a command whose meaning is not written yet; safe: the step has no next state -/
  | notModelled (mnemonic : String)
  deriving DecidableEq, Repr

/-! ## Right after a power-on reset

The Chimney die is powered, the rails are up, and the module waits in kindling mode with STEP_DONE 2 (17 R519, R522,
log entry 5). -/

def KeySlot.reset : KeySlot := { present := false, revoked := false, digest := [] }

/-- A part of the family: log entry 5. -/
def Fuses.reset : Fuses :=
  { variant := .ix8a, serial := 1, mac := 0, secret := List.replicate 64 0,
    certificate := [], keys := List.replicate 4 KeySlot.reset, minSecurity := 0, badCores := [0, 0, 0, 0] }

def Flash.reset : Flash :=
  { slots := List.replicate 2 { bytes := [], digest := [] },
    boot := [{ count := 1, valid := true, record := { slots := [.empty, .empty], trial := none, trialBoots := 0 } },
             { count := 0, valid := true, record := { slots := [.empty, .empty], trial := none, trialBoots := 0 } }],
    heartwood := [{ count := 1, valid := true, settings := Settings.shipped, bootCount := 1, format := 0 },
                  { count := 0, valid := true, settings := Settings.shipped, bootCount := 0, format := 0 }],
    defects := [], hbmTraining := List.replicate 32 none, linkTraining := List.replicate 64 none }

/-- 02 R21, R24, R29: media time starts at zero, in state FREE. -/
def Clock.reset : Clock :=
  { steady := 0, mt := 0, state := .free, goodSyncs := 0, master := none, slewLeft := 0, stepPending := false,
    stepOffset := 0, holdoverSince := 0, arbSeen := false, lastPps := none, lastFsync := none, ppsPresent := false,
    fsyncPresent := false, ppsGood := 0, setSeconds := none, ppsAligned := false, mtNowHi := 0,
    stokeInForce := 25, stokeSwitch := 0, lastBoundary := 0, fsyncOutliers := 0 }

/-- 03 R79, R96, R102: no session is open, and event sequence numbers restart at 1. -/
def Net.reset : Net :=
  { sessions := [], nextSession := 1, eventSeq := 0, discards := 0, duplicates := 0, notifyDiscards := 0,
    windows := [], windowGens := [], useV4 := none, useV6 := none, v4Prefix := 0, v4Gateway := 0, v6Prefix := 0,
    v6Gateway := 0 }

def Stack.reset : Stack :=
  { inService := false, tempC := 0, level := 0, below := none, levelChanges := 0, corrected := 0,
    uncorrectable := 0 }

def Die.reset : Die :=
  { cache := [], stage := [], ticks := 0, railMv := 0, inEpisode := false, sustained := false, minMv := 0,
    episodes := 0, warnSeq := 0, fellFirst := 0, fellLast := 0 }

/-- 07 R220, R221: no allocation, and nothing listed. -/
def Mem.reset : Mem :=
  { allocs := [], freed := [], images := [], nextHandle := 1, nextImage := 1, placedFb := 0, placedWs := 0, cells := [],
    poison := [], provisional := [], hob := [], hobPoison := [], hbmSet := List.replicate 32 Stack.reset,
    dies := List.replicate 4 Die.reset, demoting := false, demotions := 0, reclaims := 0, nextOp := 1 }

def Bank.reset : Bank :=
  { valid := false, partition := 0, va := 0, version := 0, table := [], poisoned := false, loading := false }

def Counter.reset : Counter := { value := 0, event := 0, chain := false, filter := 0, overflow := false }

def CoreSt.reset : CoreSt :=
  { phys := none, run := 0, rel := 0, progBase := 0, progLen := 0, next := 0, unretired := [], hold := .none,
    holdIndex := 0, barriers := 0, skip := 0, halting := false, finished := false, startTick := 0, lastTick := 0,
    events := List.replicate 32 0, residency := [], mailbox := [], requests := [], slotsUsed := 0, nextMessage := 0,
    dropped := 0, hobCorrected := 0, hobPoisoned := 0, poisonSector := 0, poisonValid := false, stalledSince := none,
    issueWait := false, decoded := none,
    banks := List.replicate 2 Bank.reset, tableLoads := 0, monoFails := 0, witnessCount := 0, updates := 0,
    nonfiniteWeights := 0, rootConverged := 0, rootSkipped := 0, rootNotConverged := 0, rootNonfinite := 0,
    counters := List.replicate 16 Counter.reset, held := false, countdown := 0, samples := [], outputs := [] }

def Kv.reset : Kv :=
  { frames := [], boughsUsed := 0, ptc := List.replicate 4 [], ptcHits := [0, 0, 0, 0], ptcMisses := [0, 0, 0, 0],
    pagesKept := 0, pagesCulled := 0 }

def Seqs.reset : Seqs :=
  { table := [], steps := [], batches := [], runs := [], nextSeq := 1, nextId := 1, computed := 0, reused := 0 }

def WatchSt.reset : WatchSt :=
  { parts := [], journals := [], replays := 0, widened := 0, witnessTiles := 0, witnessFails := 0 }

def Link.reset : Link :=
  { state := .down, width := 0, narrow := false, reason := 0, lanes := 0, protoMinor := 0, protoMajor := 0,
    peerSerial := 0, fecErrors := 0, crcFails := 0, checksumFails := 0, replaysCount := 0, unknownFrames := 0,
    forwardDiscards := 0, nextOut := 0, nextIn := 0, replay := [], fecTimes := [], sumTimes := [], lastTrain := 0,
    trainedWidth := 0, trainedLanes := 0, fast := false }

def Zhevub.reset : Zhevub :=
  { links := List.replicate 64 Link.reset, groups := [], ops := [], posts := [], nextOp := 1, credits := [], grants := [],
    waiting := [], mismatches := 0, retracts := 0, resends := 0, tainted := 0 }

def CodecEngine.reset : CodecEngine :=
  { busy := false, syntaxFill := 0, unit := 0, framesEncoded := 0, framesDecoded := 0, requantCount := 0,
    skipFrames := 0, fillerBytes := 0, decodeErrors := 0 }

def CodecSt.reset : CodecSt :=
  { handles := [], pushes := [], engines := List.replicate 4 CodecEngine.reset, nextId := 1 }

/-- 17 R522, R539, R540: STEP_DONE 2, LAST_CAUSE POWER_ON, PSTATE RUN. -/
def Boot.reset : Boot :=
  { mode := .kindling, stepDone := 2, stepRunning := 0, result := 0, failCode := 0, stepStart := 0, stepEnd := 0,
    stepActed := false, endResult := 0, endCode := 0, fastResume := false, autoRun := false, owner := none, lastRap := none,
    fuseCrcBad := List.replicate 4 false, fuseMarks := [0, 0, 0, 0], bistBad := [0, 0, 0, 0],
    enabled := [0, 0, 0, 0], lastCause := 0, supplyDie := 0, target := 0, pstate := .run, pdeep := 0,
    resetReq := none, bootCount := 1, format := 0, caps := [] }

def Fw.reset : Fw :=
  { activeSlot := 0, fellBack := false, defaulted := false, armed := none, stage := none, relay := none,
    attests := [], progSlot := none, progOffset := 0, progFirst := false, storeDue := false }

def Port.reset : Port :=
  { window0 := 0, window1 := 0, last0 := 0, last1 := 0, peak := 0, total0 := 0, total1 := 0, hi0 := 0, hi1 := 0 }

def Ctrs.reset : Ctrs :=
  { parts := [], freezes := [], ports := List.replicate 101 Port.reset, windowInForce := 1000, lastWindow := 0 }

def Phys.reset : Phys :=
  { pwrEn := true, pwrGood := true, addrSel := 3, peakW := 0, dynAddr := none, ibiEnabled := false, readOffset := 0,
    sample := [] }

/-- The module right after a power-on reset, with nothing waiting. -/
def State.reset : State :=
  { fuses := Fuses.reset, flash := Flash.reset, set := Settings.shipped, clock := Clock.reset, net := Net.reset,
    cmds := [], nextCmd := 1, parts := [], mem := Mem.reset, cores := List.replicate 128 CoreSt.reset,
    kv := Kv.reset, seqs := Seqs.reset, watch := WatchSt.reset, zhevub := Zhevub.reset, codec := CodecSt.reset,
    boot := Boot.reset, fw := Fw.reset, ctrs := Ctrs.reset, phys := Phys.reset, pending := [], out := [],
    fresh := 0 }

end Sys2Proof.Machine
end

