-- ==== Sys2Proof/Machine/Bytes.lean ====
section
/-! DEFINITION. Bytes and lists: reading and writing fields of packets and structures, CRC-32C, and the canonical
lists that hold memory. -/

namespace Sys2Proof.Machine

/-- `n` as `w` bytes, least significant first (00 R5). -/
def leBytes : Nat → Nat → List Byte
  | 0, _ => []
  | w + 1, n => BitVec.ofNat 8 (n % 256) :: leBytes w (n / 256)

/-- `n` as `w` bytes, most significant first (00 R5). -/
def beBytes (w n : Nat) : List Byte := (leBytes w n).reverse

/-- The number that bytes spell, least significant first. -/
def leNat : List Byte → Nat
  | [] => 0
  | b :: bs => b.toNat + 256 * leNat bs

/-- The number that bytes spell, most significant first. -/
def beNat (bs : List Byte) : Nat := leNat bs.reverse

/-- `len` bytes from `off` on; bytes past the end read as zero. -/
def slice (bs : List Byte) (off len : Nat) : List Byte :=
  (List.range len).map fun i => bs.getD (off + i) 0

/-- The big-endian field of `len` bytes at `off`. -/
def beAt (bs : List Byte) (off len : Nat) : Nat := beNat ((bs.drop off).take len ++ List.replicate (off + len - bs.length) 0)

/-- The little-endian field of `len` bytes at `off`. -/
def leAt (bs : List Byte) (off len : Nat) : Nat := leNat ((bs.drop off).take len)

def zeros (n : Nat) : List Byte := List.replicate n 0

/-- One bit of CRC-32C, reflected (03 R68). -/
def crcBit (c : Nat) : Nat := if c % 2 = 1 then (c / 2) ^^^ 0x82F63B78 else c / 2

def crcByte (c : Nat) (b : Byte) : Nat :=
  crcBit (crcBit (crcBit (crcBit (crcBit (crcBit (crcBit (crcBit (c ^^^ b.toNat))))))))

/-- CRC-32C (Castagnoli) of 03 R68. -/
def crc32c (bs : List Byte) : Nat := (bs.foldl crcByte 0xFFFFFFFF) ^^^ 0xFFFFFFFF

/-! ## Canonical memory -/

/-- The byte at key `k`: an unlisted key reads as zero (07 R220, log entry 7). -/
def cellGet : List Host.Cell → Nat → Byte
  | [], _ => 0
  | (a, b) :: cs, k => if a = k then b else cellGet cs k

/-- Write one byte, keeping keys rising and no entry zero. -/
def cellSet : List Host.Cell → Nat → Byte → List Host.Cell
  | [], k, v => if v = 0 then [] else [(k, v)]
  | (a, b) :: cs, k, v =>
    if k < a then (if v = 0 then (a, b) :: cs else (k, v) :: (a, b) :: cs)
    else if k = a then (if v = 0 then cs else (k, v) :: cs)
    else (a, b) :: cellSet cs k v

/-- The canonical form: keys strictly rising, no entry equal to what an unlisted key reads as. -/
def cellsWf : List Host.Cell → Bool
  | [] => true
  | [(_, b)] => decide (b ≠ 0)
  | (a, b) :: (a', b') :: cs => decide (b ≠ 0) && decide (a < a') && cellsWf ((a', b') :: cs)

def cellGetN (cs : List Host.Cell) (k n : Nat) : List Byte := (List.range n).map fun i => cellGet cs (k + i)

/-- Write bytes from key `k` on. -/
def cellSetN : List Host.Cell → Nat → List Byte → List Host.Cell
  | cs, _, [] => cs
  | cs, k, b :: bs => cellSetN (cellSet cs k b) (k + 1) bs

/-- Forget every key from `lo` up to but not including `hi`. -/
def cellClear (cs : List Host.Cell) (lo hi : Nat) : List Host.Cell :=
  cs.filter fun c => c.1 < lo || hi ≤ c.1

/-- The bytes that `f` gives at keys `lo` to `lo + n - 1`, as cells. -/
def cellsOf (lo : Nat) (f : Nat → Byte) : Nat → List Host.Cell
  | 0 => []
  | n + 1 => cellsOf lo f n ++ (if f n = 0 then [] else [(lo + n, f n)])

/-- Give keys `lo` to `lo + n - 1` the bytes that `f` gives. -/
def cellFill (cs : List Host.Cell) (lo n : Nat) (f : Nat → Byte) : List Host.Cell :=
  cs.filter (fun c => decide (c.1 < lo)) ++ cellsOf lo f n ++ cs.filter fun c => decide (lo + n ≤ c.1)

/-! ## Ordered sets of numbers, and lists -/

/-- Add a number to a rising list. -/
def setAdd : List Nat → Nat → List Nat
  | [], k => [k]
  | a :: as, k => if k < a then k :: a :: as else if k = a then a :: as else a :: setAdd as k

def setDel (as : List Nat) (k : Nat) : List Nat := as.filter (· ≠ k)

def setUnion (as bs : List Nat) : List Nat := bs.foldl setAdd as

/-- Change the elements that satisfy `p`. -/
def mapIf {α : Type} (p : α → Bool) (f : α → α) (as : List α) : List α :=
  as.map fun a => if p a then f a else a

def sumOf {α : Type} (f : α → Nat) (as : List α) : Nat := (as.map f).foldl (· + ·) 0

/-- Insert into a list that `before` orders, after its equals. -/
def insertBy {α : Type} (before : α → α → Bool) (a : α) : List α → List α
  | [] => [a]
  | b :: bs => if before a b then a :: b :: bs else b :: insertBy before a bs

/-- Stable sort. -/
def sortBy {α : Type} (before : α → α → Bool) (as : List α) : List α :=
  as.foldl (fun acc a => insertBy before a acc) []

/-- Bits `0` to `n - 1` that are set in `m`, rising. -/
def bitsSet (n m : Nat) : List Nat := (List.range n).filter fun k => m.testBit k

/-- A mask with the bits of a list set. -/
def maskOf (ks : List Nat) : Nat := ks.foldl (fun m k => m ||| (1 <<< k)) 0

def popCount (n m : Nat) : Nat := (bitsSet n m).length

end Sys2Proof.Machine
end

