-- ==== Sys2Proof/Machine/Ops.lean ====
section
/-! DEFINITION. The shared operations: what the module is made of, the passing of time, event numbers, notification
records, completions and replies. -/

namespace Sys2Proof.Machine

/-! ## What is present (00 R1, 01 R10 to R16) -/

def Variant.dies : Variant → Nat
  | .ix8a | .ix8s => 4
  | .ix4c => 2

/-- UNIT_MASK of R12 and R13. -/
def Variant.unitMask : Variant → Nat
  | .ix8a => 0x1FEF
  | .ix8s => 0x1FEC
  | .ix4c => 0x1FF0

def Variant.engines : Variant → Nat
  | .ix8a | .ix8s => 4
  | .ix4c => 2

def State.dieCount (s : State) : Nat := s.fuses.variant.dies
def State.unitPresent (s : State) (bit : Nat) : Bool := s.fuses.variant.unitMask.testBit bit

/-- The tier of a stack (R10): stacks 8d and 8d + 1 are Firebox. -/
def stackTier (k : Nat) : Tier := if k % 8 < 2 then .firebox else .woodshed

def State.stackAt (s : State) (k : Nat) : Stack := s.mem.hbmSet.getD k Stack.reset
def State.dieAt (s : State) (d : Nat) : Die := s.mem.dies.getD d Die.reset
def State.coreAt (s : State) (n : Nat) : CoreSt := s.cores.getD n CoreSt.reset
def State.linkAt (s : State) (k : Nat) : Link := s.zhevub.links.getD k Link.reset

def State.setCore (s : State) (n : Nat) (c : CoreSt) : State := { s with cores := s.cores.set n c }
def State.modCore (s : State) (n : Nat) (f : CoreSt → CoreSt) : State := s.setCore n (f (s.coreAt n))
def State.modDie (s : State) (d : Nat) (f : Die → Die) : State :=
  { s with mem.dies := s.mem.dies.set d (f (s.dieAt d)) }
def State.modStack (s : State) (k : Nat) (f : Stack → Stack) : State :=
  { s with mem.hbmSet := s.mem.hbmSet.set k (f (s.stackAt k)) }
def State.modLink (s : State) (k : Nat) (f : Link → Link) : State :=
  { s with zhevub.links := s.zhevub.links.set k (f (s.linkAt k)) }

/-- Stacks of a tier in service, rising (R15). -/
def State.stacksOf (s : State) (t : Tier) : List Nat :=
  (List.range (8 * s.dieCount)).filter fun k => stackTier k = t && (s.stackAt k).inService

/-- Bytes of a stack: 24 GiB in the Firebox tier, 64 GiB in the Woodshed tier (01 R13, headline figures). -/
def stackBytes : Tier → Nat
  | .firebox => 24 * 2 ^ 30
  | .woodshed => 64 * 2 ^ 30

def granuleBytes : Nat := 2 ^ 21

/-- Granules of a tier available to allocation: R13, less the 2 GiB per die of R14. -/
def State.tierGranules (s : State) (t : Tier) : Nat :=
  match t with
  | .firebox => (s.stacksOf .firebox).length * (stackBytes .firebox / granuleBytes)
  | .woodshed =>
    let dies := (List.range s.dieCount).filter fun d => (s.stacksOf .woodshed).any fun k => k / 8 = d
    (s.stacksOf .woodshed).length * (stackBytes .woodshed / granuleBytes) - dies.length * 1024

def coreDie (n : Nat) : Nat := n / 32
def coreCluster (n : Nat) : Nat := n / 8

def State.enabled (s : State) (n : Nat) : Bool := decide (n < 128) && (s.coreAt n).phys.isSome
/-- Enabled logical cores, rising (01 R16). -/
def State.enabledCores (s : State) : List Nat := (List.range 128).filter s.enabled

/-- The partition of a number, if it exists. -/
def State.part? (s : State) (q : Nat) : Option Partition := s.parts.find? (·.num = q)
def State.modPart (s : State) (q : Nat) (f : Partition → Partition) : State :=
  { s with parts := mapIf (·.num = q) f s.parts }
def State.partCores (s : State) (q : Nat) : List Nat :=
  match s.part? q with
  | some p => s.enabledCores.filter fun n => p.clusters.testBit (coreCluster n)
  | none => []

/-- The capability block of R11. -/
def State.capsBlock (s : State) : List Byte :=
  let v := s.fuses.variant
  beBytes 2 1 ++ beBytes 2 64 ++ beBytes 4 v.unitMask ++ beBytes 1 (2 ^ v.dies - 1)
    ++ beBytes 1 (s.stacksOf .firebox).length ++ beBytes 1 (s.stacksOf .woodshed).length ++ beBytes 1 v.engines
    ++ beBytes 2 s.enabledCores.length ++ beBytes 2 (16 * v.dies) ++ beBytes 16 (maskOf s.enabledCores)
    ++ beBytes 4 (s.tierGranules .firebox) ++ beBytes 4 (s.tierGranules .woodshed) ++ beBytes 4 2097152
    ++ beBytes 2 16384 ++ beBytes 2 16384 ++ beBytes 1 16 ++ zeros 15

/-! ## Thermal and supply clocks (07 R253, R254, 17 R544) -/

/-- Clock of a level in MHz; a die at T4 is halted. -/
def levelMhz : Nat → Nat
  | 0 => 700
  | 1 => 600
  | 2 => 450
  | 3 => 350
  | _ => 0

/-- The level of a die: the highest among its stacks. -/
def State.dieLevel (s : State) (d : Nat) : Nat :=
  ((List.range 8).map fun j => (s.stackAt (8 * d + j)).level).foldl max 0

/-- The arithmetic clock of a die in MHz: of its level, halved in a supply episode, nothing while clocks are gated or
the hearth dies are off. -/
def State.dieMhz (s : State) (d : Nat) : Nat :=
  if (s.boot.mode = .ready ∨ s.boot.mode = .kindling) ∧
      (s.boot.pstate = .run ∨ s.boot.pstate = .entering ∨ s.boot.pstate = .leaving) then
    let f := levelMhz (s.dieLevel d)
    if (s.dieAt d).inEpisode then f / 2 else f
  else 0

/-- SUPPLY_SUSTAINED is in force for some die (17 R545). -/
def State.supplySustained (s : State) : Bool := s.mem.dies.any (·.sustained)

/-! ## Time (02 R21, R25) -/

/-- The nanoseconds by which the servo slews in `dt`: no more than 100 ppm, and no more than is left. -/
def slewOf (dt n : Nat) (left : Int) : Int :=
  let a := min left.natAbs (Config.freeNat n % (dt / 10000 + 1))
  if left < 0 then -(a : Int) else a

/-- Let a counter of events that last for cycles gain what time gives it (19 R579). -/
def Counter.gain (code cycles : Nat) (c : Counter) : Counter :=
  if c.event = code then
    { c with value := (c.value + cycles) % 2 ^ 48,
             overflow := c.overflow || (decide (2 ^ 48 ≤ c.value + cycles) && !c.chain) }
  else c

/-- Carry out of even counters into the odd counters they are chained to (19 R578). -/
def chainCarry (old new : List Counter) : List Counter :=
  (List.range new.length).map fun k =>
    let c := new.getD k Counter.reset
    if k % 2 = 1 then
      let lo := new.getD (k - 1) Counter.reset
      let lo' := old.getD (k - 1) Counter.reset
      if lo.chain ∧ lo.value < lo'.value then
        { c with value := (c.value + 1) % 2 ^ 48, overflow := c.overflow || decide (c.value + 1 = 2 ^ 48) }
      else c
    else c

/-- Count an event of a core (19 R578, R586): `cycles` more of event `code`, filtered by OP `op`. -/
def CoreSt.count (c : CoreSt) (code amount op : Nat) : CoreSt :=
  if c.held then c
  else
    let new := c.counters.map fun k => if k.filter = 0 ∨ k.filter = op then k.gain code amount else k
    { c with counters := chainCarry c.counters new }

/-- What `cycles` of the arithmetic clock add to a core's counters: CYCLES, and the waits it is in; `blocked` when a
fragment of the core waits at a full mailbox (R579). -/
def CoreSt.tick (c : CoreSt) (cycles : Nat) (blocked : Bool) : CoreSt :=
  let c := c.count 0x01 cycles 0
  let c := if c.stalledSince.isSome then c.count 0x07 cycles 0 else c
  let c := if c.issueWait then c.count 0x08 cycles 0 else c
  if blocked then c.count 0x10 cycles 0 else c

/-- Cores with a fragment that waits at a full mailbox (04 R135). -/
def State.blockedSenders (s : State) : List Nat := (s.cores.map fun c => c.requests.map (·.sender)).flatten

/-- Time passes: `dt` nanoseconds of the module's clock. The media-time counter runs in every state and through every
reset but a power-on reset (02 R21). Time at T4 does not count toward STALL_LIMIT (07 R255). -/
def advance (dt : Nat) (s : State) : State :=
  let slew := if s.clock.slewLeft = 0 then 0 else slewOf dt s.fresh s.clock.slewLeft
  let mhz := (List.range 4).map s.dieMhz
  let before := s.mem.dies.map (·.ticks)
  let blocked := s.blockedSenders
  let dies := (List.range s.mem.dies.length).map fun d =>
    { s.dieAt d with ticks := before.getD d 0 + dt * mhz.getD d 0 }
  let gained := (List.range 4).map fun d =>
    (before.getD d 0 + dt * mhz.getD d 0) / 1000 - before.getD d 0 / 1000
  { s with
    out := []
    clock := { s.clock with
      steady := s.clock.steady + dt
      mt := if s.boot.mode = .off then s.clock.mt else ((s.clock.mt + dt : Nat) + slew).toNat
      slewLeft := s.clock.slewLeft - slew }
    mem.dies := dies
    cores := (List.range s.cores.length).map fun n =>
      let c := (s.coreAt n).tick (gained.getD (coreDie n) 0) (blocked.contains n)
      if s.dieLevel (coreDie n) = 4 then { c with stalledSince := c.stalledSince.map (· + dt) } else c
    fresh := if s.clock.slewLeft = 0 then s.fresh else s.fresh + 1 }

/-- Take the next open choice. -/
def State.take (s : State) : Nat × State := (s.fresh, { s with fresh := s.fresh + 1 })

/-- Bytes of an Ethernet frame, destination address to FCS, that carries `n` bytes of an IP or ARP packet (19 R590). -/
def frameBytes (n : Nat) : Nat := max 64 (18 + n)

/-- Bytes of an IP packet that carries a UDP payload. -/
def udpPacket (a : IpAddr) (n : Nat) : Nat := n + 8 + (match a with | .v4 _ => 20 | .v6 _ => 40)

/-- Bytes that an emission puts on the Ethernet port. -/
def Emission.ethernet : Emission → Nat
  | .udp _ dst payload => frameBytes (udpPacket dst.ip payload.length)
  | .arpReply _ _ | .gratuitousArp _ => frameBytes 28
  | .neighbourAdvert _ _ | .unsolicitedAdvert _ => frameBytes 72
  | .echoReply dst _ body => frameBytes (udpPacket dst body.length)
  | _ => 0

/-- Bytes through a port: DIR0 and DIR1 (19 R590, R591). -/
def State.portBytes (s : State) (n in_ out_ : Nat) : State :=
  { s with ctrs.ports := s.ctrs.ports.modify n fun p =>
      { p with window0 := p.window0 + in_, window1 := p.window1 + out_,
               total0 := (p.total0 + in_) % 2 ^ 70, total1 := (p.total1 + out_) % 2 ^ 70 } }

/-- Send what is listed, in order. Ethernet is port 96. -/
def State.emitAll (s : State) (es : List Emission) : State :=
  { s with out := s.out ++ es }.portBytes 96 0 (sumOf Emission.ethernet es)

def State.emit (s : State) (e : Emission) : State := s.emitAll [e]

/-- The Ethernet port is up: in boot mode from step 2 on, and after READY (17 R513, R519). -/
def State.portUp (s : State) : Bool := s.boot.mode = .kindling || s.boot.mode = .ready

/-- A UDP packet of `n` payload bytes has arrived. -/
def State.received (s : State) (a : IpAddr) (n : Nat) : State :=
  if s.portUp then s.portBytes 96 (frameBytes (udpPacket a n)) 0 else s

/-! ## Event numbers and notification records (03 R99 to R105) -/

/-- Stamp: the next event sequence number (R102). -/
def State.stamp (s : State) : Nat × State := (s.net.eventSeq + 1, { s with net.eventSeq := s.net.eventSeq + 1 })

/-- A record as it lies in a packet (R100). -/
def NRecord.bytes (r : NRecord) : List Byte :=
  let len := 32 + r.payload.length
  beBytes 1 r.kind ++ beBytes 1 r.partition ++ beBytes 2 (roundUp len 8) ++ beBytes 2 r.code ++ beBytes 2 r.cause
    ++ beBytes 8 r.eventSeq ++ beBytes 8 r.mediaTime ++ beBytes 4 r.cmdSeq ++ beBytes 4 r.jobTag
    ++ r.payload ++ zeros (roundUp len 8 - len)

/-- A notification packet (R99). -/
def NPacket.bytes (version : Byte) (k : NPacket) : List Byte :=
  let body := (k.recs.map NRecord.bytes).flatten
  beBytes 2 0x4958 ++ [version] ++ beBytes 1 0x4E ++ beBytes 2 k.recs.length ++ zeros 2 ++ beBytes 4 k.streamSeq
    ++ beBytes 4 (crc32c body) ++ body

def Session.notifyTo (n : Session) : Endpoint := { ip := n.peer.ip, port := BitVec.ofNat 16 n.notifyPort }

def Session.sendPacket (n : Session) (k : NPacket) : Emission :=
  .udp 46210 n.notifyTo (k.bytes (BitVec.ofNat 8 n.version))

/-- Records held unacknowledged (R105). -/
def Ring.held (r : Ring) : Nat := sumOf (fun k => k.recs.length) r.packets

/-- Put a record into a ring, as a packet of its own (log entry 10). -/
def Ring.add (r : Ring) (rec_ : NRecord) : Ring × NPacket :=
  let k : NPacket := { streamSeq := r.nextSeq, recs := [rec_] }
  ({ r with packets := r.packets ++ [k], nextSeq := (r.nextSeq + 1) % 2 ^ 32 }, k)

/-- Give a record to one session: it joins the ring, and is sent while the session is open (R78, R101). -/
def Session.give (n : Session) (r : NRecord) : Session × List Emission :=
  let (ring, k) := n.ring.add r
  ({ n with ring := ring }, if n.opened then [n.sendPacket k] else [])

/-- Give an EVENT or COUNTER_SNAPSHOT record to a session, or leave it out and count it (R105). -/
def Session.offer (n : Session) (r : NRecord) : Session × List Emission :=
  if 49152 ≤ n.ring.held then ({ n with ring := { n.ring with leftOut := n.ring.leftOut + 1 } }, []) else n.give r

/-- Offer a record to every session that `wants` it. -/
def State.broadcast (s : State) (wants : Session → Bool) (r : NRecord) : State :=
  let got := s.net.sessions.map fun n => if wants n then n.offer r else (n, [])
  { s with net.sessions := got.map Prod.fst }.emitAll (got.map Prod.snd).flatten

/-- The class of an event code, its EVENT_MASK bit (R101). -/
def eventClass (code : Nat) : Nat := code / 256 - 1

def Session.wants (n : Session) (cls part : Nat) : Bool :=
  n.eventMask.testBit cls && (decide (part = 255) || n.partMask.testBit part)

/-- Raise an event (R101, R102). Its number is that of the state's next stamp. -/
def State.raise (s : State) (code part cause : Nat) (payload : List Byte) : State :=
  let (seq, s) := s.stamp
  let r : NRecord :=
    { kind := 2, partition := part, code := code, cause := cause, eventSeq := seq, mediaTime := s.clock.mt,
      cmdSeq := 0, jobTag := 0, payload := payload }
  s.broadcast (fun n => n.wants (eventClass code) part) r

/-- Stamp a COUNTER_SNAPSHOT record (19 R588). -/
def State.snapshotRecord (s : State) (part : Nat) (payload : List Byte) : State :=
  let (seq, s) := s.stamp
  let r : NRecord :=
    { kind := 3, partition := part, code := 0, cause := 0, eventSeq := seq, mediaTime := s.clock.mt,
      cmdSeq := 0, jobTag := 0, payload := payload }
  s.broadcast (fun n => n.wants 9 part) r

/-- Give a COMPLETION record to the session that sent the command; with no ring left it is discarded and counted
(R78, R91, R101). -/
def State.deliver (s : State) (session : Nat) (r : NRecord) : State :=
  if s.net.sessions.any (·.id = session) then
    let got := s.net.sessions.map fun n => if n.id = session then n.give r else (n, [])
    { s with net.sessions := got.map Prod.fst }.emitAll (got.map Prod.snd).flatten
  else { s with net.notifyDiscards := satAdd 32 s.net.notifyDiscards 1 }

/-! ## Completions (02 R49 to R55) -/

/-- Statuses that R53 keeps beside a deadline cause. -/
def keepsStatus (status : Nat) : Bool := [0x0301, 0x0302, 0x0303, 0x0304, 0x0305, 0x0306].contains status

/-- The cause that counts: the strike with the lowest event sequence number (R50). -/
def firstStrike : List Strike → Option Strike
  | [] => none
  | t :: ts =>
    match firstStrike ts with
    | none => some t
    | some u => if u.eventSeq < t.eventSeq then some u else some t

/-- The status and cause of a completion at media time `now`, from the status the work ended with (R49, R53). A
command past its deadline with no cause is read as stamped in time (log entry 11). -/
def finalStatus (c : Cmd) (now status cause : Nat) : Nat × Nat :=
  let late := c.contract && decide (c.deadline < now)
  match late, firstStrike c.strikes with
  | true, some t => if status = 0 then (0x0010, t.code) else if keepsStatus status then (status, t.code) else (status, cause)
  | _, _ => (status, cause)

/-- The media time of a completion's stamp (R43, log entry 11). -/
def stampTime (c : Cmd) (now : Nat) : Nat :=
  if c.contract && c.strikes.isEmpty then min now c.deadline else now

def State.cmd? (s : State) (id : Nat) : Option Cmd := s.cmds.find? (·.id = id)
def State.modCmd (s : State) (id : Nat) (f : Cmd → Cmd) : State := { s with cmds := mapIf (·.id = id) f s.cmds }

/-- Stamp a command's completion, which frees its slot and its reservations (R55, 09 R313). -/
def State.complete (s : State) (id status cause : Nat) (payload : List Byte) : State :=
  match s.cmd? id with
  | none => s
  | some c =>
    let (seq, s) := s.stamp
    let (st, ca) := finalStatus c s.clock.mt status cause
    let r : NRecord :=
      { kind := 1, partition := c.partition, code := st, cause := ca, eventSeq := seq,
        mediaTime := stampTime c s.clock.mt, cmdSeq := c.seq, jobTag := c.jobTag, payload := payload }
    let s := s.deliver c.session r
    { s with cmds := s.cmds.filter (·.id ≠ id) }

/-- The status of a command that a reset ends (17 R537, 02 R53): DEADLINE_MISSED for a contract, unless a status that
R53 keeps applies; TAINTED without one; a journalled command is TAINTED whatever it was (17 R538). -/
def Cmd.resetStatus (c : Cmd) (journalled : Bool) : Nat :=
  if journalled || !c.contract || c.tainted then 0x0302 else if c.poisoned then 0x0301 else 0x0010

/-- Stamp a completion that a reset forces on a command, with cause PARTITION_RESET (17 R537). -/
def State.completeReset (s : State) (id : Nat) (journalled : Bool) (payload : List Byte) : State :=
  match s.cmd? id with
  | none => s
  | some c =>
    let (seq, s) := s.stamp
    let r : NRecord :=
      { kind := 1, partition := c.partition, code := c.resetStatus journalled, cause := 6, eventSeq := seq,
        mediaTime := s.clock.mt, cmdSeq := c.seq, jobTag := c.jobTag, payload := payload }
    let s := s.deliver c.session r
    { s with cmds := s.cmds.filter (·.id ≠ id) }

/-- Note a cause of R49 against every contract command that satisfies `touched` (R50). -/
def State.strike (s : State) (code member : Nat) (touched : Cmd → Bool) : State :=
  let hit : Strike := { code := code, eventSeq := s.net.eventSeq, member := member }
  { s with cmds := mapIf touched (fun c => { c with strikes := c.strikes ++ [hit] }) s.cmds }

/-! ## Replies (03 R85, R86) -/

/-- A reply as it is sent: data, where there is any, is followed by its CRC. -/
def Reply.bytes (r : Reply) : List Byte :=
  beBytes 4 r.seq ++ beBytes 2 r.status ++ beBytes 2 r.cause ++ beBytes 8 r.eventSeq ++ beBytes 8 r.mediaTime
    ++ (if r.data.isEmpty then [] else r.data ++ beBytes 4 (crc32c r.data))

def State.sendReply (s : State) (dst : Endpoint) (r : Reply) : State := s.emit (.udp 46210 dst r.bytes)

/-- The media time of a reply's stamp: within `bound` nanoseconds of receipt (R87), free within it (log entry 4). -/
def State.replyTime (s : State) (bound : Nat) : Nat := s.clock.mt + Config.replyLatency s.fresh % (bound + 1)

end Sys2Proof.Machine
end

