-- ==== Sys2Proof/Machine/Admission.lean ====
section
/-! DEFINITION. The reservation calendar, cost records and admission (02 R37 to R46). -/

namespace Sys2Proof.Machine

/-! ## Cost records (02 R39 to R41) -/

/-- A cost record as it lies inline in a command, big-endian. -/
def costOfBe (b : List Byte) : Cost :=
  { format := beAt b 0 2, cores := beAt b 2 2, replays := beAt b 4 1, critCycles := beAt b 8 8,
    fireboxBytes := beAt b 16 8, woodshedBytes := beAt b 24 8, linkBytes := beAt b 32 8, flameLoads := beAt b 40 4,
    costId := beAt b 48 8 }

/-- A cost record as it lies in an image's cost table, little-endian. -/
def costOfLe (b : List Byte) : Cost :=
  { format := leAt b 0 2, cores := leAt b 2 2, replays := leAt b 4 1, critCycles := leAt b 8 8,
    fireboxBytes := leAt b 16 8, woodshedBytes := leAt b 24 8, linkBytes := leAt b 32 8, flameLoads := leAt b 40 4,
    costId := leAt b 48 8 }

/-- R39 and R40: a known format, CORES from 1 to 128 and REPLAYS at most 4. -/
def Cost.ok (c : Cost) : Bool :=
  decide (c.format = 1) && decide (1 ≤ c.cores) && decide (c.cores ≤ 128) && decide (c.replays ≤ 4)

/-- Slots the record needs (R41, R45). -/
def Cost.need (c : Cost) : Nat :=
  max 1 (ceilDiv ((1 + c.replays) * (c.critCycles + c.flameLoads * 4096)) 6000)

/-! ## Capacity (02 R37, R38) -/

/-- Firebox bytes of all stacks in service in one slot. -/
def State.fbCapacity (s : State) : Nat := 21760000 * (s.stacksOf .firebox).length
/-- Woodshed bytes of all stacks in service in one slot. -/
def State.wsCapacity (s : State) : Nat := 13926400 * (s.stacksOf .woodshed).length

/-- Bytes per direction of a link in one slot: only an UP link counts (14 R433). -/
def Link.capacity (k : Link) : Nat :=
  if k.state = .up then (match k.width with | 3 => 1000000 | 2 => 500000 | 1 => 250000 | _ => 0) else 0

def State.linkCapacity (s : State) : Nat := sumOf Link.capacity s.zhevub.links

/-- What a Damper admits in one slot (15 R478). -/
def Damper.slotBytes (d : Damper) (whole : Nat) : Nat := if d.rate = 0xFFFFFFFF then whole else 10 * d.rate

def Partition.damper (p : Partition) (k : Nat) : Damper :=
  p.dampers.getD k { rate := 0xFFFFFFFF, burst := 0, tokens := 0, waiting := [], waitUs := 0, waited := false }

/-- What is reserved in slot `n`, by the reservations of the commands that `p` holds of. -/
def State.reservedIn (s : State) (p : Cmd → Bool) (f : Reservation → Nat) (n : Nat) : Nat :=
  sumOf (fun c => if p c && c.reserved.slots.contains n then f c.reserved else 0) s.cmds

def roomOf (own all limit whole : Nat) : Nat := min (limit - own) (whole - all)

/-- Slot `n` can take the work of partition `q` (R38, R45). -/
def State.slotFits (s : State) (q n cores fb ws links : Nat) : Bool :=
  match s.part? q with
  | none => false
  | some p =>
    let own := fun f => s.reservedIn (fun c => c.partition = q) f n
    let all := fun f => s.reservedIn (fun _ => true) f n
    decide (cores + own (·.cores) ≤ (s.partCores q).length)
      && decide (fb ≤ roomOf (own (·.fb)) (all (·.fb)) ((p.damper 0).slotBytes s.fbCapacity) s.fbCapacity)
      && decide (ws ≤ roomOf (own (·.ws)) (all (·.ws)) ((p.damper 1).slotBytes s.wsCapacity) s.wsCapacity)
      && decide (links ≤ roomOf (own (·.links)) (all (·.links)) ((p.damper 2).slotBytes s.linkCapacity) s.linkCapacity)

/-! ## Usable slots (02 R32, R44) -/

/-- The stoke interval in force, in nanoseconds. -/
def State.stokeNs (s : State) : Nat :=
  10000 * (if s.clock.stokeSwitch ≤ s.clock.mt then s.set.stokeInterval else s.clock.stokeInForce)

/-- The first stoke boundary strictly after media time `t`. -/
def boundaryAfter (interval t : Nat) : Nat := (t / interval + 1) * interval

/-- The first slot that begins at or after `t`. -/
def slotFrom (t : Nat) : Nat := ceilDiv t 10000

/-- One more than the last slot that ends at or before `deadline` less the delivery margin of 100,000 ns. -/
def slotsEnd (deadline : Nat) : Nat := (deadline - 100000) / 10000

/-- The earliest `need` slots from `first` up to but not including `stop` that `fits` (R45). -/
def chooseSlots (fits : Nat → Bool) : Nat → Nat → Nat → List Nat
  | 0, _, _ => []
  | _, _, 0 => []
  | need + 1, n, left + 1 =>
    if fits n then n :: chooseSlots fits need (n + 1) left else chooseSlots fits (need + 1) (n + 1) left

/-! ## Admission (02 R45, R46) -/

/-- A die of the partition's clusters, or a stack of its allocations, is at T2 or worse (R46). -/
def State.hotT2 (s : State) (q : Nat) : Bool :=
  (match s.part? q with
   | some p => (bitsSet 16 p.clusters).any fun c => decide (2 ≤ s.dieLevel (c / 4))
   | none => false)
  || s.mem.allocs.any fun a => a.partition = q && a.hbmSet.any fun k => decide (2 ≤ (s.stackAt k).level)

def TimeState.untrusted (t : TimeState) : Bool := t = .free || t = .unlocked

/-- The refusals of R45 that no slot decides, in its order: the cause, or none. -/
def State.admitGate (s : State) (q deadline : Nat) (rec_ : Cost) : Option Nat :=
  if s.clock.mt + 2000000000 < deadline then some 3
  else if s.clock.state.untrusted || s.clock.stepPending then some 5
  else if s.supplySustained then some 7
  else if s.hotT2 q then some 6
  else if (s.partCores q).length < rec_.cores then some 4
  else none

/-- Reserve for a deadline command of partition `q` whose reply is stamped at media time `stamp`, from slot `from_`
on: the reservation, or the cause of R46. `fits` decides whether a slot has room. -/
def State.admitWith (s : State) (q deadline stamp from_ need : Nat) (rec_ : Cost) (cores fb ws links : Nat)
    (fits : Nat → Bool) : Except Nat Reservation :=
  match s.admitGate q deadline rec_ with
  | some cause => .error cause
  | none =>
    let first := max from_ (slotFrom (boundaryAfter s.stokeNs stamp))
    let stop := slotsEnd deadline
    if stop ≤ first then .error 2
    else
      let chosen := chooseSlots fits need first (stop - first)
      if chosen.length < need then .error 1
      else .ok { slots := chosen, cores := cores, fb := fb, ws := ws, links := links }

/-- Admission of R45. -/
def State.admitWork (s : State) (q deadline stamp from_ : Nat) (rec_ : Cost) : Except Nat Reservation :=
  let k := 1 + rec_.replays
  let need := rec_.need
  let fb := ceilDiv (k * rec_.fireboxBytes) need
  let ws := ceilDiv (k * rec_.woodshedBytes) need
  let links := ceilDiv (k * rec_.linkBytes) need
  s.admitWith q deadline stamp from_ need rec_ rec_.cores fb ws links
    (fun n => s.slotFits q n rec_.cores fb ws links)

def Reservation.empty : Reservation := { slots := [], cores := 0, fb := 0, ws := 0, links := 0 }

end Sys2Proof.Machine
end

