-- ==== Sys2Proof/Machine/Memory.lean ====
section
/-! DEFINITION. Module memory: placement in the tiers, the Mantel caches and write stages, reads and writes with their
poison, and hob memory (04 R122 to R125, 07 R216 to R252). -/

namespace Sys2Proof.Machine

/-! ## Addresses and stripes (07 R220, R225) -/

/-- The key of a partition's virtual address in module memory. -/
def memKey (q va : Nat) : Nat := q * 2 ^ 48 + va
/-- The key of a hob address of a core. -/
def hobKey (core a : Nat) : Nat := core * 2 ^ 23 + a
/-- The first byte of the 64-byte sector of an address. -/
def sectorOf (a : Nat) : Nat := a / 64 * 64
/-- Sectors that hold a byte of a range. -/
def sectorsOf (a n : Nat) : List Nat :=
  if n = 0 then [] else (List.range ((a + n - 1) / 64 - a / 64 + 1)).map fun i => (a / 64 + i) * 64

def Alloc.bytes (a : Alloc) : Nat := a.granules * granuleBytes
def Alloc.holds (a : Alloc) (q va n : Nat) : Bool :=
  decide (a.partition = q) && decide (a.base ≤ va) && decide (va + n ≤ a.base + a.bytes)

/-- The allocation that holds a range of a partition, whole. -/
def State.allocOf (s : State) (q va n : Nat) : Option Alloc := s.mem.allocs.find? (·.holds q va n)
def State.alloc? (s : State) (q h : Nat) : Option Alloc := s.mem.allocs.find? fun a => a.handle = h && a.partition = q
def State.modAlloc (s : State) (h : Nat) (f : Alloc → Alloc) : State :=
  { s with mem.allocs := mapIf (·.handle = h) f s.mem.allocs }

/-- stack_of of R225. -/
def stackOf (hbmSet : List Nat) (first off : Nat) : Nat :=
  if hbmSet.isEmpty then 0 else hbmSet.getD ((off / 4096 + first) % hbmSet.length) 0

/-- The stack an address lies in: of its allocation, or of an allocation freed with operations still to retire. -/
def State.stackOfVa (s : State) (q va : Nat) : Nat :=
  match s.mem.allocs.find? (·.holds q va 1) with
  | some a => stackOf a.hbmSet a.first (va - a.base)
  | none =>
    match s.mem.freed.find? (·.alloc.holds q va 1) with
    | some f => stackOf f.alloc.hbmSet f.alloc.first (va - f.alloc.base)
    | none => 0

/-! ## Holdings and room (07 R222, R227, R229) -/

def heldBy (q : Nat) (t : Tier) (as : List Alloc) : Nat :=
  sumOf (fun a => if a.partition = q && a.tier = t then a.granules else 0) as

/-- Granules of a journal's reservation (12 R394). -/
def State.shadowHeld (s : State) (q : Nat) (t : Tier) : Nat :=
  sumOf (fun j => if j.partition = q then (match t with | .firebox => j.fbReserved | .woodshed => j.wsReserved) else 0)
    s.watch.journals

/-- A partition's holding in a tier: allocations, those freed and not returned, image stores and shadow granules. -/
def State.held (s : State) (q : Nat) (t : Tier) : Nat :=
  heldBy q t s.mem.allocs + heldBy q t (s.mem.freed.map (·.alloc))
    + (match t with
       | .firebox => 0
       | .woodshed => sumOf (fun i => if i.partition = q then i.granules else 0) s.mem.images)
    + s.shadowHeld q t

/-- The tier's free granules. -/
def State.freeGranules (s : State) (t : Tier) : Nat :=
  s.tierGranules t - sumOf (fun q => s.held q t) (List.range 16)

def Partition.floor (p : Partition) : Tier → Nat
  | .firebox => p.fbFloor
  | .woodshed => p.wsFloor
def Partition.ceiling (p : Partition) : Tier → Nat
  | .firebox => p.fbCeiling
  | .woodshed => p.wsCeiling

/-- What the pool holds back for the shortfall of every other partition (R227). -/
def State.owed (s : State) (q : Nat) (t : Tier) : Nat :=
  sumOf (fun p => if p.num = q then 0 else p.floor t - s.held p.num t) s.parts

/-- Stripes of 4 KiB that a placement of `n` granules puts on the stack at position `i` of a list of `len`. -/
def stripeShare (n len first i : Nat) : Nat :=
  if len = 0 then 0
  else
    let stripes := n * 512
    let turn := (i + len - first % len) % len
    stripes / len + (if turn < stripes % len then 1 else 0)

/-- Stripes placed on stack `k` by one placement. -/
def stripesOn (hbmSet : List Nat) (first granules k : Nat) : Nat :=
  match hbmSet.findIdx? (· = k) with
  | some i => stripeShare granules hbmSet.length first i
  | none => 0

/-- Free bytes of a stack: its capacity, less its share of the die's reserve (01 R14) and of every placement. -/
def State.stackFree (s : State) (k : Nat) : Nat :=
  let d := k / 8
  let n := ((s.stacksOf .woodshed).filter fun j => j / 8 = d).length
  let reserve := if stackTier k = .woodshed then 2 ^ 31 / n else 0
  let used := sumOf (fun a : Alloc => stripesOn a.hbmSet a.first a.granules k) s.mem.allocs
    + sumOf (fun f : Freed => stripesOn f.alloc.hbmSet f.alloc.first f.alloc.granules k) s.mem.freed
    + sumOf (fun i : Image => stripesOn i.hbmSet i.first i.granules k) s.mem.images
  stackBytes (stackTier k) - reserve - used * 4096

def State.placed (s : State) : Tier → Nat
  | .firebox => s.mem.placedFb
  | .woodshed => s.mem.placedWs

/-- The stack list of a new allocation (R225). -/
def State.stackList (s : State) (t : Tier) (affinity : Option Nat) : List Nat :=
  match affinity with
  | none => s.stacksOf t
  | some d => (s.stacksOf t).filter fun k => k / 8 = d

/-- room(tier, n, owed) of R229. -/
def State.room (s : State) (t : Tier) (n owed : Nat) (affinity : Option Nat) : Bool :=
  let hbmSet := s.stackList t affinity
  let first := if hbmSet.isEmpty then 0 else s.placed t % hbmSet.length
  decide (n + owed ≤ s.freeGranules t) && !hbmSet.isEmpty
    && hbmSet.all fun k => decide (stripesOn hbmSet first n k * 4096 ≤ s.stackFree k)

/-! ## Reclamation (07 R228, R230) -/

/-- A sequence has an accepted command in flight: a step, or its SEQ_CLOSE. -/
def State.seqBusy (s : State) (h : Nat) : Bool :=
  (s.seqs.steps.any (·.seq = h)) || (s.seqs.table.any fun q => q.handle = h && q.closing ≠ 0)

/-- Allocations a sequence owns. -/
def State.ownedBy (s : State) (h : Nat) : List Alloc := s.mem.allocs.filter fun a => a.owner = h && decide (h ≠ 0)

/-- Frames named by the page tables of a sequence. -/
def Seq.frames (q : Seq) : List Nat :=
  match q.binding with
  | some b => (b.tables.map (·.pages)).flatten
  | none => []

/-- Frame `n` is named by a page table of a sequence other than `h`. -/
def State.namedElsewhere (s : State) (h n : Nat) : Bool :=
  s.seqs.table.any fun q => q.handle ≠ h && q.frames.contains n

/-- The second and third conditions of R228: not RUNNING, no accepted command, no frame named elsewhere or in the ash
pan. -/
def State.seqIdle (s : State) (q : Seq) : Bool :=
  (q.state = .opened || q.state = .ready) && !s.seqBusy q.handle
    && (s.kv.frames.all fun f =>
      !((s.ownedBy q.handle).any fun a => a.handle = f.alloc)
        || (f.state ≠ .ash && !s.namedElsewhere q.handle f.num))

/-- A sequence's age: the latest LAST_USE among its allocations. -/
def State.seqAge (s : State) (h : Nat) : Nat := ((s.ownedBy h).map (·.lastUse)).foldl max 0

/-- Candidates for reclamation in the Woodshed tier, oldest first, a tie to the lower handle. -/
def State.candidates (s : State) : List Seq :=
  sortBy (fun a b => decide (s.seqAge a.handle < s.seqAge b.handle)
      || (decide (s.seqAge a.handle = s.seqAge b.handle) && decide (a.handle < b.handle)))
    (s.seqs.table.filter fun q => s.seqIdle q
      && (s.ownedBy q.handle).any fun a => a.evictable && a.tier = .woodshed)

/-- Frames that the snapshot of an unretired ATTN names (08 R274, R295). -/
def State.walked (s : State) : List Nat := (s.cores.map fun c => (c.unretired.map (·.frames)).flatten).flatten

/-- A frame that page tables name no more: each name in the list takes one reference, and with the last one it becomes
FREE, or ASH while a walk still names it (08 R261, R295). -/
def unname (walked names : List Nat) (f : PageFrame) : PageFrame :=
  let n := (names.filter (· = f.num)).length
  if n = 0 then f
  else { f with refcount := f.refcount - n,
                state := if f.refcount ≤ n ∧ f.state = .used then (if walked.contains f.num then .ash else .free) else f.state }

/-- To reclaim a sequence: release its EVICTABLE allocations in both tiers, empty its page tables, set it EVICTED and
raise SEQUENCE_EVICTED (R230, 08 R263). -/
def State.reclaim (s : State) (q : Seq) : State :=
  let gone := (s.ownedBy q.handle).filter (·.evictable)
  let handles := gone.map (·.handle)
  let boughs := (q.binding.map fun b => sumOf (fun t : Layer => t.boughs) b.tables).getD 0
  let cells := gone.foldl (fun cs a => cellClear cs (memKey a.partition a.base) (memKey a.partition (a.base + a.bytes))) s.mem.cells
  let s := { s with
    mem.allocs := s.mem.allocs.filter fun a => !handles.contains a.handle
    mem.cells := cells
    mem.poison := s.mem.poison.filter fun k => !gone.any fun a => a.holds (k / 2 ^ 48) (k % 2 ^ 48) 1
    mem.reclaims := satAdd 32 s.mem.reclaims 1
    kv.frames := (s.kv.frames.map (unname s.walked q.frames)).filter fun f => !handles.contains f.alloc
    kv.boughsUsed := s.kv.boughsUsed - boughs
    seqs.table := mapIf (·.handle = q.handle) (fun r => { r with state := .evicted, binding := none }) s.seqs.table }
  s.raise 0x0801 q.partition 0 (beBytes 8 q.handle)

/-- What a reclamation of the sequence gives the Woodshed tier. -/
def State.reclaimGain (s : State) (h : Nat) : Nat :=
  sumOf (fun a => if a.evictable && a.tier = .woodshed then a.granules else 0) (s.ownedBy h)

/-- The fourth condition of R228 for `q`, after the candidates in `taken`. -/
def State.mayReclaim (s : State) (requester : Nat) (taken : List Seq) (q : Seq) : Bool :=
  q.partition = requester ||
    match s.part? q.partition with
    | some p =>
      let lost := sumOf (fun r => if r.partition = q.partition then s.reclaimGain r.handle else 0) (taken ++ [q])
      decide (p.wsFloor + lost ≤ s.held q.partition .woodshed)
    | none => true

/-- The shortest run of candidates, each one that breaks the fourth condition left out, whose reclamation makes room. -/
def State.reclaimRun (s : State) (requester n : Nat) (affinity : Option Nat) : List Seq → List Seq → Option (List Seq)
  | [], _ => none
  | q :: rest, taken =>
    if s.mayReclaim requester taken q then
      let run := taken ++ [q]
      let after := run.foldl State.reclaim s
      if after.room .woodshed n (after.owed requester .woodshed) affinity then some run
      else s.reclaimRun requester n affinity rest run
    else s.reclaimRun requester n affinity rest taken

/-- The outcome of place of R229. -/
inductive Placement where
  | refused (cause : Nat)
  | granted (tier : Tier) (victims : List Seq)
  deriving DecidableEq, Repr

def ceilingCause : Tier → Nat
  | .firebox => 1
  | .woodshed => 2

/-- place of R229 in the Woodshed tier. -/
def State.placeWs (s : State) (q n : Nat) (affinity : Option Nat) : Placement :=
  match s.part? q with
  | none => .refused 3
  | some p =>
    if p.wsCeiling < s.held q .woodshed + n then .refused 2
    else if s.room .woodshed n (s.owed q .woodshed) affinity then .granted .woodshed []
    else match s.reclaimRun q n affinity s.candidates [] with
      | some run => .granted .woodshed run
      | none => .refused 3

/-- place of R229. -/
def State.place (s : State) (q : Nat) (t : Tier) (n : Nat) (strict : Bool) (affinity : Option Nat) : Placement :=
  match t with
  | .woodshed => s.placeWs q n affinity
  | .firebox =>
    match s.part? q with
    | none => .refused 3
    | some p =>
      if p.fbCeiling < s.held q .firebox + n then .refused 1
      else if s.room .firebox n (s.owed q .firebox) affinity then .granted .firebox []
      else if strict then .refused 3
      else s.placeWs q n affinity

/-- The lowest free virtual range of `size` bytes in a partition, never at 0 (R219, R220, log entry 15). -/
def freeVa (size : Nat) : List Alloc → Nat → Nat
  | [], at_ => at_
  | a :: as, at_ => if at_ + size ≤ a.base then at_ else freeVa size as (max at_ (a.base + a.bytes))

def State.newVa (s : State) (q size : Nat) : Nat :=
  freeVa size
    (sortBy (fun a b => decide (a.base < b.base))
      ((s.mem.allocs ++ s.mem.freed.map (·.alloc)).filter (·.partition = q))) granuleBytes

/-- Count a placement in a tier: a.first of the next one (R225). -/
def State.countPlaced (s : State) (t : Tier) : State :=
  match t with
  | .firebox => { s with mem.placedFb := s.mem.placedFb + 1 }
  | .woodshed => { s with mem.placedWs := s.mem.placedWs + 1 }

def State.firstOf (s : State) (t : Tier) (affinity : Option Nat) : Nat :=
  let n := (s.stackList t affinity).length
  if n = 0 then 0 else s.placed t % n

/-! ## The Mantel cache (07 R236 to R239) -/

/-- The home die of an address (R236). -/
def State.homeDie (s : State) (q va : Nat) : Nat := s.stackOfVa q va / 8

def CacheLine.is (l : CacheLine) (q va : Nat) : Bool := decide (l.partition = q) && decide (l.va = va)

/-- The line to evict from a full set: the least recently used among the lowest priority, no line held by a fetch-ahead
(R239). -/
def victim (now : Nat) (ls : List CacheLine) : Option CacheLine :=
  (sortBy (fun a b => decide (a.prio < b.prio) || (decide (a.prio = b.prio) && decide (a.used < b.used)))
    (ls.filter fun l => decide (l.heldUntil ≤ now))).head?

/-- Make room for a line in its set: 16 ways, every way dropping to 2 when all hold 3 (R239). -/
def makeRoom (now : Nat) (slice set : Nat) (ls : List CacheLine) : List CacheLine × Nat :=
  let mine := ls.filter fun l => l.slice = slice && l.set = set
  if mine.length < 16 then (ls, 0)
  else
    let ls := if mine.all (·.prio = 3) then mapIf (fun l => l.slice = slice && l.set = set) (fun l => { l with prio := 2 }) ls else ls
    match victim now (ls.filter fun l => l.slice = slice && l.set = set) with
    | some v => (ls.filter fun l => !v.is l.partition l.va, if v.dirty then 64 else 0)
    | none => (ls, 0)

/-- What an access to one sector did: a hit in the slice, and bytes read from and written to the stack. -/
structure Traffic where
  hit : Bool
  read : Nat
  wrote : Nat
  deriving DecidableEq, Repr

/-- An access to a sector at its home slice, by hint: 0 STREAM, 1 KEEP, 2 LAST_USE (R238). -/
def State.cacheAccess (s : State) (q va hint : Nat) (write : Bool) : State × Traffic :=
  let k := s.stackOfVa q va
  let d := k / 8
  let die := s.dieAt d
  let now := s.clock.steady
  let put := fun (s : State) (ls : List CacheLine) => s.modDie d fun x => { x with cache := ls }
  match die.cache.find? (·.is q va) with
  | some l =>
    if hint = 2 then
      (put s (die.cache.filter fun m => !m.is q va),
       { hit := true, read := 0, wrote := if write || l.dirty then 64 else 0 })
    else
      let prio := if hint = 1 then min 3 (l.prio + 1) else l.prio
      (put { s with mem.nextOp := s.mem.nextOp + 1 }
        (mapIf (·.is q va) (fun m => { m with prio := prio, dirty := m.dirty || write, used := s.mem.nextOp }) die.cache),
       { hit := true, read := 0, wrote := 0 })
  | none =>
    if hint = 1 then
      let slice := Config.mantelSet k va % 8
      let set := Config.mantelSet (k + 32) va % 12288
      let (ls, wrote) := makeRoom now slice set die.cache
      let l : CacheLine :=
        { partition := q, va := va, slice := slice, set := set, prio := 1, dirty := write, used := s.mem.nextOp,
          heldUntil := 0 }
      (put { s with mem.nextOp := s.mem.nextOp + 1 } (ls ++ [l]),
       { hit := false, read := if write then 0 else 64, wrote := wrote })
    else (s, { hit := false, read := if write then 0 else 64, wrote := if write then 64 else 0 })

/-- Touch every sector of a range with a hint: caches, port counters, the accessed bit. The hits and the misses in
bytes read of each tier. -/
structure Touched where
  hits : Nat
  misses : Nat
  fb : Nat
  ws : Nat
  hbmSet : List Nat
  deriving DecidableEq, Repr

def Touched.none : Touched := { hits := 0, misses := 0, fb := 0, ws := 0, hbmSet := [] }

def State.touchSector (s : State) (q hint : Nat) (write : Bool) (acc : State × Touched) (va : Nat) : State × Touched :=
  let _ := s
  let (s, t) := acc
  let k := s.stackOfVa q va
  let (s, r) := s.cacheAccess q va hint write
  let s := s.portBytes k r.read r.wrote
  let bytes := r.read + r.wrote
  (s, { hits := t.hits + (if r.hit then 1 else 0), misses := t.misses + (if r.hit then 0 else 1),
        fb := t.fb + (if stackTier k = .firebox then bytes else 0),
        ws := t.ws + (if stackTier k = .woodshed then bytes else 0), hbmSet := setAdd t.hbmSet k })

def State.touchAll (s : State) (q hint : Nat) (write : Bool) (sectors : List Nat) : State × Touched :=
  let (s, t) := sectors.foldl (s.touchSector q hint write) (s, Touched.none)
  ({ s with mem.allocs := mapIf (fun a => sectors.any fun va => a.holds q va 1) (fun a => { a with accessed := true }) s.mem.allocs }, t)

/-! ## Reads and writes (07 R232, R236, R237, R247, R248, 12 R396) -/

/-- Whose eyes an access sees memory with: a core's die, and the journal its launch belongs to. -/
structure View where
  core : Option Nat
  journal : Nat
  deriving DecidableEq, Repr

def View.home : View := { core := none, journal := 0 }

/-- Granule key of an address. -/
def granuleKey (q va : Nat) : Nat := memKey q va / granuleBytes

/-- The journal whose shadow an access uses for an address, if the granule is shadowed. -/
def State.shadowOf (s : State) (v : View) (q va : Nat) : Option Journal :=
  if v.journal = 0 then none
  else s.watch.journals.find? fun j => j.handle = v.journal && j.shadowed.contains (granuleKey q va)

/-- A byte as the write stage of a die holds it, the latest write first. -/
def stageByte (ws : List StageWrite) (q va : Nat) : Option Byte :=
  (ws.reverse.find? fun w => w.partition = q && decide (w.va ≤ va) && decide (va < w.va + w.bytes.length)).map
    fun w => w.bytes.getD (va - w.va) 0

/-- One byte of module memory. -/
def State.readByte (s : State) (v : View) (q va : Nat) : Byte :=
  match s.shadowOf v q va with
  | some j => cellGet j.shadow (memKey q va)
  | none =>
    match v.core.bind fun n => stageByte (s.dieAt (coreDie n)).stage q va with
    | some b => b
    | none => cellGet s.mem.cells (memKey q va)

def State.readMem (s : State) (v : View) (q va n : Nat) : List Byte :=
  (List.range n).map fun i => s.readByte v q (va + i)

/-- A sector is marked poisoned, as the access sees it. -/
def State.sectorPoison (s : State) (v : View) (q va : Nat) : Bool :=
  match s.shadowOf v q va with
  | some j => j.shadowPoison.contains (memKey q (sectorOf va))
  | none =>
    s.mem.poison.contains (memKey q (sectorOf va))
      || (match v.core with
          | some n => (s.dieAt (coreDie n)).stage.any fun w => w.partition = q && w.poison && sectorOf w.va = sectorOf va
          | none => false)

def State.rangePoison (s : State) (v : View) (q va n : Nat) : Bool := (sectorsOf va n).any (s.sectorPoison v q ·)

/-- Sectors that a write covers whole. -/
def wholeSectors (va n : Nat) : List Nat := (sectorsOf va n).filter fun a => decide (va ≤ a) && decide (a + 64 ≤ va + n)

/-- Write bytes at the home slices: a whole-sector write clears the sector's poison and provisional marks. -/
def State.writeHome (s : State) (q va : Nat) (bs : List Byte) : State :=
  let whole := (wholeSectors va bs.length).map (memKey q)
  { s with
    mem.cells := cellSetN s.mem.cells (memKey q va) bs
    mem.poison := if whole.isEmpty then s.mem.poison else s.mem.poison.filter fun k => !whole.contains k
    mem.provisional := if whole.isEmpty then s.mem.provisional else s.mem.provisional.filter fun k => !whole.contains k.1 }

/-- Mark sectors poisoned at the home slices. -/
def State.poisonHome (s : State) (q : Nat) (sectors : List Nat) : State :=
  { s with mem.poison := sectors.foldl (fun ks a => setAdd ks (memKey q a)) s.mem.poison }

/-- The write reaches its home slices. -/
def State.landStage (s : State) (w : StageWrite) : State :=
  let s := s.writeHome w.partition w.va w.bytes
  if w.poison then s.poisonHome w.partition (sectorsOf w.va w.bytes.length) else s

/-- Drain from a die's write stage, in arrival order, up to and including the last write that satisfies `p` (R237). -/
def State.drainStage (s : State) (d : Nat) (p : StageWrite → Bool) : State :=
  let stage := (s.dieAt d).stage
  let keep := stage.reverse.takeWhile (fun w => !p w) |>.reverse
  let go := stage.take (stage.length - keep.length)
  (go.foldl State.landStage s).modDie d fun x => { x with stage := keep }

/-- Write bytes into a journal's shadow, copying each granule at its first write (12 R396). -/
def State.writeShadow (s : State) (j : Journal) (q va : Nat) (bs : List Byte) : State :=
  let grans := ((sectorsOf va bs.length).map (granuleKey q)).eraseDups
  let new := grans.filter fun g => !j.shadowed.contains g
  let copied := new.foldl (fun cs g =>
    (s.mem.cells.filter fun c => c.1 / granuleBytes = g).foldl (fun cs c => cellSet cs c.1 c.2) cs) j.shadow
  let marks := new.foldl (fun ks g => setUnion ks (s.mem.poison.filter fun k => k / granuleBytes = g)) j.shadowPoison
  let whole := (wholeSectors va bs.length).map (memKey q)
  let j' := { j with shadowed := setUnion j.shadowed new, shadow := cellSetN copied (memKey q va) bs,
                     shadowPoison := marks.filter fun k => !whole.contains k }
  { s with watch.journals := mapIf (·.handle = j.handle) (fun _ => j') s.watch.journals
           mem.provisional := if whole.isEmpty then s.mem.provisional else s.mem.provisional.filter fun k => !whole.contains k.1 }

/-- The journal that a write to an address goes to the shadow of: the access belongs to one, and the address lies in a
journalled allocation. -/
def State.journalFor (s : State) (v : View) (q va : Nat) : Option Journal :=
  if v.journal = 0 then none
  else s.watch.journals.find? fun j => j.handle = v.journal
    && s.mem.allocs.any fun a => a.holds q va 1 && j.allocs.contains a.handle

/-- Bytes that wait in a write stage. -/
def stageSize (ws : List StageWrite) : Nat := sumOf (fun w => w.bytes.length) ws

/-- What a core has written is an output of its run (04 R155). -/
def State.noteOutput (s : State) (core : Nat) (handle : Option Nat) (lo n : Nat) : State :=
  s.modCore core fun c => { c with outputs := { op := 0, handle := handle, lo := lo, length := n } :: c.outputs }

/-- What a core writes to module memory outside a journal is an output of its run. -/
def State.noteWrite (s : State) (core q va n : Nat) : State :=
  match s.allocOf q va n with
  | some a => s.noteOutput core (some a.handle) (memKey q va) n
  | none => s

/-- Write bytes as a core or an engine does: into the shadow of a journal, into the write stage of the core's die when
the address is homed elsewhere (R237), or straight to the home slices. -/
def State.writeMem (s : State) (v : View) (q va : Nat) (bs : List Byte) (poison : Bool) : State :=
  if bs.isEmpty then s
  else match s.journalFor v q va with
    | some j =>
      let s := s.writeShadow j q va bs
      if poison then
        let mark := fun j : Journal =>
          { j with shadowPoison := (sectorsOf va bs.length).foldl (fun ks a => setAdd ks (memKey q a)) j.shadowPoison }
        { s with watch.journals := mapIf (·.handle = j.handle) mark s.watch.journals }
      else s
    | none =>
      match v.core with
      | some n =>
        let s := s.noteWrite n q va bs.length
        let d := coreDie n
        if s.homeDie q va = d then
          let s := s.writeHome q va bs
          if poison then s.poisonHome q (sectorsOf va bs.length) else s
        else
          let w : StageWrite := { partition := q, core := n, va := va, bytes := bs, poison := poison }
          let s := s.modDie d fun x => { x with stage := x.stage ++ [w] }
          if 262144 < stageSize (s.dieAt d).stage then s.drainStage d (fun _ => true) else s
      | none =>
        let s := s.writeHome q va bs
        if poison then s.poisonHome q (sectorsOf va bs.length) else s

/-- Pieces of a range that lie in one 4 KiB stripe each, so that each has one home die (R225). -/
def stripes (va : Nat) (bs : List Byte) : List (Nat × List Byte) :=
  if bs.isEmpty then []
  else
    (List.range ((va + bs.length - 1) / 4096 - va / 4096 + 1)).map fun i =>
      let lo := max va ((va / 4096 + i) * 4096)
      let hi := min (va + bs.length) ((va / 4096 + i + 1) * 4096)
      (lo, (bs.drop (lo - va)).take (hi - lo))

def State.writeRange (s : State) (v : View) (q va : Nat) (bs : List Byte) (poison : Bool) : State :=
  (stripes va bs).foldl (fun s p => s.writeMem v q p.1 p.2 poison) s

/-- The collective operations whose provisional results lie in a range (14 R459). -/
def State.provisionalIn (s : State) (q va n : Nat) : List Nat :=
  let ks := (sectorsOf va n).map (memKey q)
  ((s.mem.provisional.filter fun p => ks.contains p.1).map Prod.snd).eraseDups

/-! ## Hob memory (04 R122 to R125) -/

def hobTop : Nat := 0x800000

def State.hobRead (s : State) (core a n : Nat) : List Byte := cellGetN s.mem.hob (hobKey core a) n

def State.hobPoisoned (s : State) (core a n : Nat) : Bool :=
  (sectorsOf a n).any fun x => s.mem.hobPoison.contains (hobKey core x)

/-- A hob write deletes the residency entries it overlaps and clears the poison of whole sectors (R123, R152). -/
def State.hobWrite (s : State) (core a : Nat) (bs : List Byte) : State :=
  if bs.isEmpty then s
  else
    let whole := (wholeSectors a bs.length).map (hobKey core)
    let s := { s with
      mem.hob := cellSetN s.mem.hob (hobKey core a) bs
      mem.hobPoison := s.mem.hobPoison.filter fun k => !whole.contains k }
    (s.modCore core fun c => { c with
      residency := c.residency.filter fun r => decide (r.lo + r.length ≤ a) || decide (a + bs.length ≤ r.lo) }).noteOutput
        core none a bs.length

/-- Leave an output undefined (04 R155, log entry 76): its bytes are free, as long as its allocation exists. -/
def State.openOutput (s : State) (core : Nat) (o : Output) : State :=
  match o.handle with
  | none =>
    { s with mem.hob := cellFill s.mem.hob (hobKey core o.lo) o.length (Config.freeByte s.fresh), fresh := s.fresh + 1 }
  | some h =>
    if s.mem.allocs.any (·.handle = h) then
      { s with mem.cells := cellFill s.mem.cells o.lo o.length (Config.freeByte s.fresh), fresh := s.fresh + 1 }
    else s

/-- Leave those outputs of a core's run undefined that `p` names. -/
def State.openOutputs (s : State) (core : Nat) (p : Output → Bool) : State :=
  ((s.coreAt core).outputs.filter p).foldl (fun s o => s.openOutput core o) s

/-- Mark hob sectors poisoned: counted, and the last one kept in HOB_POISON_ADDR (R160, R161). -/
def State.hobMark (s : State) (core : Nat) (sectors : List Nat) : State :=
  sectors.foldl (fun s a =>
    { s with mem.hobPoison := setAdd s.mem.hobPoison (hobKey core a) }.modCore core fun c =>
      { c with hobPoisoned := satAdd 16 c.hobPoisoned 1, poisonSector := a / 64, poisonValid := true }) s

/-! ## Errors found (04 R123, 07 R247, R251, R252) -/

/-- The MEMORY_UNCORRECTABLE payload of R251. -/
def errorPayload (source place core address handle : Nat) : List Byte :=
  beBytes 1 source ++ beBytes 1 place ++ beBytes 2 core ++ zeros 4 ++ beBytes 8 address ++ beBytes 8 handle ++ zeros 8

/-- The running work of a core, as commands that a memory error there touches. -/
def State.cmdsOn (s : State) (dies hbmSet : List Nat) (c : Cmd) : Bool :=
  let _ := s
  c.contract && ((c.dies.any dies.contains) || (c.hbmSet.any hbmSet.contains))

/-- An error has been found, by a read (`cause` 0) or by scrub (1): corrected and counted, or the sector is marked
poisoned and MEMORY_UNCORRECTABLE is raised. -/
def State.foundError (s : State) (cause : Nat) (m : MemError) : State :=
  match m.place with
  | .hob core a =>
    if 128 ≤ core || hobTop ≤ a then s
    else if m.correctable then s.modCore core fun c => { c with hobCorrected := satAdd 16 c.hobCorrected 1 }
    else
      let q := ((s.parts.find? fun p => p.clusters.testBit (coreCluster core)).map (·.num)).getD 255
      let s := (s.hobMark core [sectorOf a]).raise 0x0501 q cause (errorPayload 2 0xFF core (sectorOf a) 0)
      let run := (s.coreAt core).run
      s.strike 3 0 fun c => c.contract && run ≠ 0 && c.dies.contains (coreDie core)
  | .stack k q va =>
    if 32 ≤ k then s
    else if m.correctable then s.modStack k fun x => { x with corrected := satAdd 16 x.corrected 1 }
    else
      let h := ((s.allocOf q va 1).map (·.handle)).getD 0
      let s := s.modStack k fun x => { x with uncorrectable := satAdd 16 x.uncorrectable 1 }
      let s := (s.poisonHome q [sectorOf va]).raise 0x0501 (if h = 0 then 255 else q) cause
        (errorPayload 0 k 0xFFFF (sectorOf va) h)
      s.strike 3 0 fun c => c.contract && c.partition = q && c.hbmSet.contains k
  | .mantel d q va =>
    if m.correctable || 4 ≤ d then s
    else
      let h := ((s.allocOf q va 1).map (·.handle)).getD 0
      let s := (s.poisonHome q [sectorOf va]).raise 0x0501 (if h = 0 then 255 else q) cause
        (errorPayload 1 d 0xFFFF (sectorOf va) h)
      s.strike 3 0 fun c => c.contract && c.partition = q && c.hbmSet.any (· / 8 = d)
  | .stage d q va =>
    if m.correctable || 4 ≤ d then s
    else
      let h := ((s.allocOf q va 1).map (·.handle)).getD 0
      let struck := fun w : StageWrite => w.partition = q && sectorOf w.va = sectorOf va
      let s := s.modDie d fun x => { x with stage := mapIf struck (fun w => { w with poison := true }) x.stage }
      let s := s.raise 0x0501 (if h = 0 then 255 else q) cause (errorPayload 3 d 0xFFFF (sectorOf va) h)
      s.strike 3 0 fun c => c.contract && c.partition = q && c.dies.contains d

/-- What the reads of this step find. -/
def State.findErrors (s : State) (e : Env) : State :=
  if s.portUp then e.errs.foldl (fun s m => s.foundError 0 m) s else s

/-- Time passes, and the step's reads find what the surroundings have struck. -/
def enter (e : Env) (s : State) : State := (advance e.dt s).findErrors e

end Sys2Proof.Machine
end

