-- ==== Sys2Proof/Machine/Dampers.lean ====
section
/-! DEFINITION. Dampers: charging, waiting and refilling (15 R474 to R477). -/

namespace Sys2Proof.Machine

/-- Tokens left after admitting as many units of a request as the bucket allows, and the bytes still to pass (R476).
An unregulated class admits everything. -/
def Damper.admitUnits (d : Damper) (bytes unit : Nat) (urgent : Bool) : Int × Nat :=
  if d.rate = 0xFFFFFFFF then (d.tokens, 0)
  else if bytes = 0 then (d.tokens, 0)
  else
    let u := max 1 (min unit bytes)
    let reach : Int := if urgent then d.tokens + d.burst else d.tokens
    let units := if reach < 0 then 0 else min (bytes / u + (if bytes % u = 0 then 0 else 1)) (reach.toNat / u)
    let taken := min bytes (units * u)
    (d.tokens - taken, bytes - taken)

/-- A request reaches a Damper: what it does not let pass waits, after those that wait already unless it is urgent. -/
def Damper.request (d : Damper) (r : DamperReq) : Damper :=
  if r.bytes = 0 then d
  else if d.waiting.isEmpty || r.urgent then
    let (t, left) := d.admitUnits r.bytes r.unit r.urgent
    { d with tokens := t, waiting := if left = 0 then d.waiting else d.waiting ++ [{ r with bytes := left }],
             waited := d.waited || decide (left ≠ 0) }
  else { d with waiting := d.waiting ++ [r], waited := true }

/-- Charge bytes that cannot wait: write-backs, and what has arrived at the port. The tokens stay at or above -BURST. -/
def Damper.charge (d : Damper) (bytes : Nat) : Damper :=
  if d.rate = 0xFFFFFFFF then d else { d with tokens := max (d.tokens - bytes) (-(d.burst : Int)) }

/-- Retry the waiting requests, oldest first, while each is admitted in full. -/
def retryWaiting : Damper → List DamperReq → Damper
  | d, [] => { d with waiting := [] }
  | d, r :: rs =>
    let (t, left) := d.admitUnits r.bytes r.unit r.urgent
    if left = 0 then retryWaiting { d with tokens := t } rs
    else { d with tokens := t, waiting := { r with bytes := left } :: rs }

/-- One refill: a microsecond in which a request waited is counted (R486), tokens become min(tokens + RATE, BURST), and
the waiting requests are retried. -/
def Damper.refill (d : Damper) : Damper :=
  let d := { d with waitUs := if d.waited || !d.waiting.isEmpty then satAdd 32 d.waitUs 1 else d.waitUs, waited := false }
  if d.rate = 0xFFFFFFFF then d
  else retryWaiting { d with tokens := min (d.tokens + d.rate) d.burst } d.waiting

/-- `n` refills. -/
def Damper.refills : Nat → Damper → Damper
  | 0, d => d
  | n + 1, d => Damper.refills n d.refill

def State.modDamper (s : State) (q k : Nat) (f : Damper → Damper) : State :=
  s.modPart q fun p => { p with dampers := p.dampers.modify k f }

def State.damperOf (s : State) (q k : Nat) : Option Damper := (s.part? q).map (·.damper k)

/-- The Damper of a class admits `b` bytes of one unit now: nothing waits ahead of them, and the tokens reach. -/
def State.damperAdmits (s : State) (q k b : Nat) : Bool :=
  (s.damperOf q k).any fun d => decide (d.rate = 0xFFFFFFFF) || (d.waiting.isEmpty && decide ((b : Int) ≤ d.tokens))

/-- A waiter holds a request in some Damper of a partition. -/
def State.damperHolds (s : State) (q : Nat) (w : Waiter) : Bool :=
  (s.part? q).any fun p => p.dampers.any fun d => d.waiting.any fun r => r.waiter = w

/-- Charge memory traffic of a partition to its FIREBOX and WOODSHED Dampers, sector by sector. -/
def State.damperMemory (s : State) (q : Nat) (t : Touched) (w : Waiter) (urgent : Bool) : State :=
  let s := s.modDamper q 0 fun d => d.request { bytes := t.fb, unit := 64, urgent := urgent, waiter := w }
  s.modDamper q 1 fun d => d.request { bytes := t.ws, unit := 64, urgent := urgent, waiter := w }

/-- The same for traffic that cannot wait. -/
def State.damperCharge (s : State) (q : Nat) (t : Touched) : State :=
  (s.modDamper q 0 fun d => d.charge t.fb).modDamper q 1 fun d => d.charge t.ws

/-- Whole microseconds of media time passed since the last refill: refills fall at multiples of 1,000 ns. The media time
before this step is `before`. -/
def refillsDue (before now : Nat) : Nat := now / 1000 - before / 1000

/-- DAMPER_REFILL: one refill for each multiple of 1,000 ns that media time has passed in this step (R476, log entry
17). -/
def execDamperRefill (e : Env) (s : State) : Host.Outcome State Fault Refusal :=
  let before := s.clock.mt
  let s := advance e.dt s
  let n := refillsDue before s.clock.mt
  .next { s with parts := s.parts.map fun p => { p with dampers := p.dampers.map (Damper.refills n) } }

end Sys2Proof.Machine
end

