-- ==== Sys2Proof/Machine/Links.lean ====
section
/-! DEFINITION. Zhevub links: frames, sequence numbers and replay, forwarding, and link states (14 R430 to R443). -/

namespace Sys2Proof.Machine

/-! ## Frames (R435) -/

/-- FRAME_KIND: CHUNK, CREDIT, LINK_ACK, LINK_NAK, CONTROL, RELAY. -/
def kindChunk : Nat := 1
def kindCredit : Nat := 2
def kindAck : Nat := 3
def kindNak : Nat := 4
def kindControl : Nat := 5
def kindRelay : Nat := 6

/-- Bytes of a frame on the wire: header, payload and LINK_CRC. -/
def wireLength (payload : Nat) : Nat := 36 + payload

def LinkState.code : LinkState → Nat
  | .down => 0
  | .up => 1
  | .degraded => 2

/-- Links present: those of the dies present (01 R15). -/
def State.linkPresent (s : State) (k : Nat) : Bool := decide (k < 16 * s.dieCount)
def State.linkUp (s : State) (k : Nat) : Bool := s.linkPresent k && (s.linkAt k).state = .up

/-- Send a frame on a link: FRAME_SEQ and ACK_SEQ are the link's, and the frame stays in the replay buffer until it is
acknowledged (R435, R437). -/
def State.sendFrame (s : State) (k kind hops dest src tag : Nat) (payload : List Byte) : State :=
  let l := s.linkAt k
  let f : Frame :=
    { link := k, hops := BitVec.ofNat 8 hops, frameSeq := BitVec.ofNat 32 l.nextOut, dest := BitVec.ofNat 64 dest,
      src := BitVec.ofNat 64 src, groupTag := BitVec.ofNat 16 tag,
      ackSeq := BitVec.ofNat 32 (l.nextIn + 2 ^ 32 - 1), payload := payload }
  let s := s.modLink k fun l =>
    { l with nextOut := (l.nextOut + 1) % 2 ^ 32, replay := l.replay ++ [{ kind := kind, frame := f, replays := 0 }] }
  (s.emit (.frame k kind f)).portBytes (32 + k) 0 (wireLength payload.length)

/-- Send a frame of this module's own to the peer of a link. -/
def State.sendPeer (s : State) (k kind : Nat) (payload : List Byte) : State :=
  s.sendFrame k kind 15 (s.linkAt k).peerSerial s.fuses.serial 0 payload

/-- The link of a list that has the fewest frames queued, a tie to the lower number, among those UP (R438). -/
def State.quietest (s : State) (links : List Nat) : Option Nat :=
  (sortBy (fun a b => decide ((s.linkAt a).replay.length < (s.linkAt b).replay.length)
      || (decide ((s.linkAt a).replay.length = (s.linkAt b).replay.length) && decide (a < b)))
    (links.filter s.linkUp)).head?

def State.group? (s : State) (tag : Nat) : Option Group := s.zhevub.groups.find? (·.tag = tag)

/-- The member of a group that has a serial. -/
def Group.memberOf (g : Group) (serial : Nat) : Option Member := g.members.find? (·.serial = serial)

/-- Links of the LINK_MASK toward a member. -/
def Member.links (m : Member) : List Nat := bitsSet 64 m.linkMask

/-- Forward a frame that is not for this module (R438). -/
def State.forward (s : State) (f : Frame) (kind : Nat) : State :=
  let drop := s.modLink f.link fun l => { l with forwardDiscards := satAdd 32 l.forwardDiscards 1 }
  let hops := f.hops.toNat - 1
  if kind = kindRelay || f.hops.toNat ≤ 1 then drop
  else match (s.group? f.groupTag.toNat).bind fun g => g.memberOf f.dest.toNat with
    | none => drop
    | some m =>
      match s.quietest m.links with
      | none => drop
      | some k => s.sendFrame k kind hops f.dest.toNat f.src.toNat f.groupTag.toNat f.payload

/-- Frames that ACK_SEQ covers leave the replay buffer (R437). -/
def Link.acked (l : Link) (ack : Nat) : Link :=
  { l with replay := l.replay.filter fun f => decide (2 ^ 31 ≤ (ack + 2 ^ 32 - f.frame.frameSeq.toNat) % 2 ^ 32) }

/-- A frame arrives intact on a link that is UP: in FRAME_SEQ order it is taken, forwarded or handed to `k`, and is
acknowledged (log entry 22); out of order it is discarded and answered with LINK_NAK (R437). -/
def State.frameIn (s : State) (f : Frame) (kind : Nat) (k : State → State) : State :=
  if !s.linkUp f.link || decide (4096 < f.payload.length) then s
  else
    let s := s.portBytes (32 + f.link) (wireLength f.payload.length) 0
    if f.frameSeq.toNat ≠ (s.linkAt f.link).nextIn then s.sendPeer f.link kindNak []
    else
      let s := s.modLink f.link fun l => { l with nextIn := (l.nextIn + 1) % 2 ^ 32 }.acked f.ackSeq.toNat
      let s := if kind = kindAck ∨ kind = kindNak then s else s.sendPeer f.link kindAck []
      if f.dest.toNat ≠ s.fuses.serial then s.forward f kind else k s

/-! ## Link states (R433, R434, R443) -/

/-- A relay whose data was arriving on a link that is lost leaves its slot EMPTY (18 R564). -/
def State.dropRelayOn (s : State) (k : Nat) : State :=
  match s.fw.relay with
  | some r =>
    if r.inLink = some k && decide (r.received < r.length) then
      { s with fw.relay := none, fw.stage := none }
    else s
  | none => s

/-- A change of a link's state raises LINK_STATE (R434, R443); one that takes it out of UP strikes the contracts that
used it (02 R49). -/
def State.changeLink (s : State) (k : Nat) (st : LinkState) (reason : Nat) : State :=
  let old := (s.linkAt k).state
  if old = st then s
  else
    let s := s.modLink k fun l => { l with state := st, reason := if st = .up then l.reason else reason }
    let l := s.linkAt k
    let s := s.raise 0x0401 255 st.code
      (beBytes 1 k ++ beBytes 1 old.code ++ beBytes 1 l.width ++ beBytes 1 l.reason ++ zeros 4 ++ beBytes 8 l.peerSerial)
    if old = .up then (s.strike 4 0 fun c => c.contract && c.links.contains k).dropRelayOn k else s

/-- LINK_STATUS.WIDTH of a number of lanes (R439). -/
def widthCode : Nat → Nat
  | 4 => 3
  | 2 => 2
  | 1 => 1
  | _ => 0

/-- The Zhevub version two ends run at (R432, 03 R73); this module offers 1.0 to 1.0. -/
def zhevubVersion (peerMin peerMax : Nat) : Option Nat :=
  let v := min peerMax 0x10
  if max peerMin 0x10 ≤ v then some v else none

/-- Where training leaves a link: its state and the reason (R431, R432, R433). -/
def linkVerdict (o : LinkOutcome) : LinkState × Nat :=
  if !o.peerSeen then (.down, 1)
  else if o.width = 0 then (.down, 2)
  else match zhevubVersion o.peerMin.toNat o.peerMax.toNat with
    | none => (.down, 3)
    | some _ => if o.passed = 0 then (.degraded, 5) else (.up, 0)

/-- What training fixes in a link besides its state: width, lanes, version and peer. Frame numbers start at 0. -/
def Link.trained (l : Link) (o : LinkOutcome) (now : Nat) : Link :=
  let (st, _) := linkVerdict o
  let up := decide (st ≠ .down)
  let lanes := if o.passed = 0 then o.width else o.passed
  let mask := if o.passed = 0 then o.lanes else o.passedLanes
  let v := (zhevubVersion o.peerMin.toNat o.peerMax.toNat).getD 0
  { l with
    width := if up then widthCode lanes else 0, narrow := up && decide (lanes < 4), lanes := if up then mask % 16 else 0,
    protoMinor := if up then v % 16 else 0, protoMajor := if up then v / 16 else 0,
    peerSerial := if o.peerSeen && decide (o.width ≠ 0) then o.peerSerial.toNat else l.peerSerial,
    nextOut := 0, nextIn := 0, replay := [], fecTimes := [], sumTimes := [], lastTrain := now, trainedWidth := o.width,
    trainedLanes := o.lanes }

/-- The last second of a list of times. -/
def recent (now : Nat) (ts : List Nat) : List Nat := ts.filter fun t => decide (now < t + 1000000000)

end Sys2Proof.Machine
end

