-- ==== Sys2Proof/Machine/Nervia.lean ====
section
/-! DEFINITION. The way of a Nervia command packet: what is discarded, sessions and sequence numbers, the order of
refusals, and the reply (03 R65 to R90). -/

namespace Sys2Proof.Machine

/-- Scope of an opcode (R89). -/
inductive Scope where
  | module
  | partition
  | either
  deriving DecidableEq, Repr

/-- A row of the opcode table (R89), with the bytes of parameters the opcode requires. -/
structure Op where
  code : Nat
  scope : Scope
  notify : Bool
  deadline : Bool
  minLen : Nat
  deriving DecidableEq, Repr

/-- A refusal: status, cause and reply data. -/
structure Bad where
  status : Nat
  cause : Nat
  data : List Byte := []
  deriving DecidableEq, Repr

/-- BAD_DESCRIPTOR with a cause of R98. -/
def bad (cause : Nat) : Bad := { status := 0x0201, cause := cause }
def badIf (c : Bool) (cause : Nat) : Option Bad := if c then some (bad cause) else none
def refuseIf (c : Bool) (status cause : Nat) : Option Bad :=
  if c then some { status := status, cause := cause } else none

/-- The first refusal of a list, in its order. -/
def firstBad (bs : List (Option Bad)) : Option Bad := bs.findSome? id

/-- UNIT_ABSENT when the unit of a UNIT_MASK bit is not on the module (00 R3). -/
def State.unitBad (s : State) (bit : Nat) : Option Bad := refuseIf (!s.unitPresent bit) 0x0105 bit

/-- What an opcode sees of its command. -/
structure Ctx where
  p : Packet
  session : Nat
  part : Nat
  /-- the parameters after any cost prefix (R69) -/
  params : List Byte
  cost : Option Cost
  costImage : Nat
  /-- media times of receipt and of the reply's stamp, and the number the stamp will carry -/
  receipt : Nat
  stamp : Nat
  seq : Nat
  deriving DecidableEq, Repr

def Ctx.be (c : Ctx) (off len : Nat) : Nat := beAt c.params off len

/-! ## Discards (R20, R63, R67) -/

def isV4 : IpAddr → Bool
  | .v4 _ => true
  | .v6 _ => false

/-- The link-local address of modified EUI-64 from the fused MAC (17 R513). -/
def linkLocal (mac : Nat) : W128 :=
  let hi := mac / 2 ^ 24
  let lo := mac % 2 ^ 24
  BitVec.ofNat 128 (0xFE80 * 2 ^ 112 + ((hi ^^^ 0x020000) * 2 ^ 40 + 0xFFFE * 2 ^ 24 + lo))

/-- The addresses the port answers at after READY (R64). -/
def State.servesAddress (s : State) (a : IpAddr) : Bool :=
  match a with
  | .v4 w => decide (s.net.useV4 = some w.toNat)
  | .v6 w => decide (s.net.useV6 = some w.toNat) || decide (w = linkLocal s.fuses.mac)

/-- Bytes of the IP packet that carries a UDP payload. -/
def ipLength (a : IpAddr) (udp : Nat) : Nat := udp + 8 + (if isV4 a then 20 else 40)

/-- The most parameters a command may carry (R63). -/
def State.paramLimit (s : State) (a : IpAddr) : Nat := min 8192 (s.set.mtu - (if isV4 a then 60 else 80))

/-- The conditions under which a command packet is discarded without a reply (R67). -/
def State.discards (s : State) (p : Packet) : Bool :=
  decide (s.boot.mode ≠ .ready) || decide (p.udpLength < 32) || decide (p.magic.toNat ≠ 0x4958)
    || decide (p.paramLength.toNat ≠ p.udpLength - 32) || decide (s.paramLimit p.src.ip < p.paramLength.toNat)
    || decide (s.set.mtu < ipLength p.src.ip p.udpLength)

/-! ## Sessions and sequence numbers (R71, R80, R81, R605) -/

def State.session? (s : State) (e : Endpoint) : Option Session := s.net.sessions.find? fun n => n.opened && n.peer = e
def State.modSession (s : State) (id : Nat) (f : Session → Session) : State :=
  { s with net.sessions := mapIf (·.id = id) f s.net.sessions }

/-- How an arriving SEQ is handled (R80). -/
inductive SeqKind where
  | fresh (advance : Bool)
  | duplicate (r : Reply)
  | stale
  deriving DecidableEq, Repr

def Session.judge (n : Session) (seq : Nat) : SeqKind :=
  let d := (n.high + 2 ^ 32 - seq) % 2 ^ 32
  if n.first && seq ≠ n.helloSeq then .fresh true
  else if 2 ^ 31 ≤ d then .fresh true
  else if d < 65536 then
    match n.stored.find? (·.seq = seq) with
    | some r => .duplicate r
    | none => .fresh false
  else .stale

/-- Record a SEQ with its reply (R81), and forget what has left the window. -/
def Session.record (n : Session) (r : Reply) : Session :=
  let high := match n.judge r.seq with | .fresh true => r.seq | _ => n.high
  { n with
    high := high
    first := false
    stored := (n.stored.filter fun q =>
      decide ((high + 2 ^ 32 - q.seq) % 2 ^ 32 < 65536) || decide (q.seq = n.helloSeq)) ++ [r] }

/-! ## Replies -/

/-- Stamp a refusal and send it; `recorded` when the session keeps it for duplicates (R81, log entry 12). -/
def State.refuse (s : State) (p : Packet) (session : Option Nat) (bound : Nat) (b : Bad) : State :=
  let time := s.replyTime bound
  let (seq, s) := s.stamp
  let r : Reply :=
    { seq := p.seq.toNat, status := b.status, cause := b.cause, eventSeq := seq, mediaTime := time, data := b.data }
  let s := { s with fresh := s.fresh + 1 }
  let s := match session with
    | some id => s.modSession id (·.record r)
    | none => s
  s.sendReply p.src r

/-- The reply bound in nanoseconds (R87): 60 µs for a deadline command, 200 µs for any other. -/
def replyBound (o : Op) (p : Packet) : Nat := if o.deadline && p.deadline ≠ 0 then 60000 else 200000

/-! ## The refusals of R88 up to BAD_DESCRIPTOR that no opcode's chapter decides -/

def costInline (p : Packet) : Bool := p.flags.toNat.testBit 0
def costByRef (p : Packet) : Bool := p.flags.toNat.testBit 1

/-- Bytes of the cost prefix (R69). -/
def prefixLen (p : Packet) : Nat := if costInline p then 64 else if costByRef p then 16 else 0

/-- A loaded image of a partition. -/
def State.image? (s : State) (q h : Nat) : Option Image :=
  s.mem.images.find? fun i => i.handle = h && i.partition = q && i.loaded

/-- Record `index` of an image's cost table (04 R145). -/
def Image.costRecord (i : Image) (index : Nat) : Option Cost :=
  if index < leAt i.bytes 36 4 then some (costOfLe (slice i.bytes (leAt i.bytes 32 4 + 64 * index) 64)) else none

/-- The cost record a command carries or names (R69, R70). -/
def State.costOf (s : State) (p : Packet) : Option Cost :=
  if costInline p then some (costOfBe (p.params.take 64))
  else if costByRef p then
    match s.image? p.partition.toNat (beAt p.params 0 8) with
    | some i => i.costRecord (beAt p.params 8 4)
    | none => none
  else none

/-- Partition `q` takes commands: it exists, and no PART_DESTROY of it has been accepted (15 R473). -/
def State.partOpen (s : State) (q : Nat) : Bool :=
  match s.part? q with
  | some p => decide (p.destroying = 0)
  | none => false

/-- Notification opcodes are refused from a write of TARGET 2 or 3 until PSTATE reads RUN (17 R541). -/
def State.asleep (s : State) : Bool :=
  decide (2 ≤ s.boot.target) || (s.boot.pstate ≠ .run && s.boot.pstate ≠ .s1)

/-- Scope, partition, cost prefix and lengths (R69, R89, R98), then what the states of chapter 17 and a partition reset
refuse (17 R541, 15 R484, log entry 13). -/
def State.commonBad (s : State) (o : Op) (p : Packet) : Option Bad :=
  let q := p.partition.toNat
  firstBad [
    badIf (o.scope = .module && q ≠ 255) 4,
    badIf (o.scope = .partition && q = 255) 4,
    badIf ((o.scope = .partition || (o.scope = .either && q ≠ 255)) && !s.partOpen q) 3,
    badIf (costInline p && costByRef p) 9,
    badIf (decide (p.params.length < (prefixLen p) + o.minLen)) 2,
    badIf (o.deadline && p.deadline ≠ 0 && (prefixLen p) = 0) 8,
    badIf (o.deadline && p.deadline ≠ 0 && !((s.costOf p).any Cost.ok)) 10,
    badIf (o.notify && s.asleep) 15,
    badIf (q ≠ 255 && (s.part? q).any (·.resetting) && o.code ≠ 0x0A01) 15 ]

/-- ACTIVATION_PENDING (02 R59). -/
def State.activationBad (s : State) (o : Op) (p : Packet) : Option Bad :=
  match s.fw.armed with
  | some (_, at_) => refuseIf (o.deadline && p.deadline ≠ 0 && decide (at_ ≤ p.deadline.toNat)) 0x0104 0
  | none => none

/-- From ACTIVATION_MT on, every command is refused with ACTIVATION_PENDING (18 R568). -/
def State.activatingBad (s : State) : Option Bad :=
  refuseIf (match s.boot.resetReq with | some (.warm 2 _) => true | _ => false) 0x0104 0

/-- Commands in flight of a partition (02 R55). -/
def State.slotsUsed (s : State) (q : Nat) : Nat := (s.cmds.filter (·.partition = q)).length

/-- SLOTS_FULL (02 R56, 03 R105). -/
def State.slotsBad (s : State) (o : Op) (p : Packet) (session : Session) : Option Bad :=
  let q := p.partition.toNat
  if o.notify then
    firstBad [
      refuseIf ((s.part? q).any fun r => decide (r.slotQuota ≤ s.slotsUsed q)) 0x0101 1,
      refuseIf (decide (16384 ≤ s.cmds.length)) 0x0101 2,
      refuseIf (decide (49152 ≤ session.ring.held)) 0x0101 3 ]
  else none

/-- What becomes of an arriving command packet. -/
inductive Verdict where
  | discard
  | ignore
  | noSession
  | version (n : Session)
  | stale (n : Session)
  | duplicate (n : Session) (r : Reply)
  | crc (n : Session)
  | command (n : Session)
  deriving DecidableEq, Repr

/-- Orders 1 to 4 of R88, for every opcode but HELLO. -/
def State.verdict (s : State) (p : Packet) : Verdict :=
  if !s.portUp || (!s.servesAddress p.dst && s.boot.mode = .ready) then .ignore
  else if s.discards p then .discard
  else match s.session? p.src with
    | none => .noSession
    | some n =>
      if p.version.toNat ≠ n.version then .version n
      else match n.judge p.seq.toNat with
        | .stale => .stale n
        | .duplicate r => .duplicate n r
        | .fresh _ => if crc32c p.params ≠ p.paramCrc.toNat then .crc n else .command n

/-- MODULE_MIN and MODULE_MAX: protocol version 1.0 (R73). -/
def moduleMin : Nat := 0x10
def moduleMax : Nat := 0x10

def versionBad : Bad := { status := 0x0106, cause := 0, data := [0x10, 0x10, 0, 0] }

/-- The fields kept across no state, when the module leaves one (00 R9): MT_SET_SECONDS, FAST_RESUME, ELAPSED_MS and the
last windows of the ports. A field that shows a live condition goes on showing it (log entry 38). -/
def State.leaveFields (s : State) : State :=
  { s with
    clock.setSeconds := none
    boot := { s.boot with fastResume := false, stepEnd := s.boot.stepStart }
    ctrs.ports := s.ctrs.ports.map fun p => { p with last0 := 0, last1 := 0 } }

/-- Leaving S1 on the arrival of a command (17 R541). -/
def State.wake (s : State) : State := if s.boot.pstate = .s1 then { s with boot.pstate := .run }.leaveFields else s

/-- A command from the session has arrived (R78). -/
def State.touchSession (s : State) (id : Nat) : State :=
  s.modSession id fun n => { n with lastActive := s.clock.steady }

/-- The state in which a command packet is judged: its time has passed, and it has arrived at the port. -/
def landed (p : Packet) (s : State) : State := (advance p.dt s).received p.src.ip p.udpLength

/-- The state in which the opcode of a new command of session `n` acts: the module is awake and has heard from the
session. -/
def heard (p : Packet) (n : Session) (s : State) : State := (landed p s).wake.touchSession n.id

/-- Settle orders 1 to 4 of R88, and hand a new command with intact parameters to `k`. -/
def withCommand (p : Packet) (k : Session → State → State) (s : State) : State :=
  match s.verdict p with
  | .ignore => s
  | .discard => { s with net.discards := satAdd 32 s.net.discards 1 }
  | .noSession => s.wake.refuse p none 200000 { status := 0x0107, cause := 0 }
  | .version n => (s.wake.touchSession n.id).refuse p none 200000 versionBad
  | .stale n => (s.wake.touchSession n.id).refuse p none 200000 { status := 0x0108, cause := 0 }
  | .duplicate n r =>
    { (s.touchSession n.id).sendReply p.src r with net.duplicates := satAdd 32 s.net.duplicates 1 }
  | .crc n => (s.wake.touchSession n.id).refuse p none 200000 { status := 0x0204, cause := 0 }
  | .command n => k n (s.wake.touchSession n.id)

/-- The context of a command that has passed `commonBad`. -/
def State.ctx (s : State) (o : Op) (p : Packet) (n : Session) : Ctx :=
  { p := p, session := n.id, part := p.partition.toNat, params := p.params.drop (prefixLen p),
    cost := if o.deadline && p.deadline ≠ 0 then s.costOf p else none,
    costImage := if o.deadline && p.deadline ≠ 0 && costByRef p then beAt p.params 0 8 else 0,
    receipt := s.clock.mt, stamp := s.replyTime (replyBound o p), seq := s.net.eventSeq + 1 }

/-! ## Opcodes that complete in their reply (02 R47) -/

/-- The refusal of a reply opcode, in the order of R88. -/
def State.replyBad (s : State) (o : Op) (check quota : Ctx → State → Option Bad) (p : Packet) (n : Session) :
    Option Bad :=
  match s.commonBad o p with
  | some b => some b
  | none => firstBad [check (s.ctx o p n) s, s.activatingBad, quota (s.ctx o p n) s]

/-- The context and the state in which a command acts: its stamp is taken (R89), after `before`, for what a chapter
stamps ahead of the reply. -/
def State.atStamp (s : State) (o : Op) (before : Ctx → State → State) (p : Packet) (n : Session) : Ctx × State :=
  let c := s.ctx o p n
  let s := before c { s with fresh := s.fresh + 1 }
  ({ c with seq := s.net.eventSeq + 1 }, s.stamp.2)

/-- Stamp and send DONE with the data that the effect gives. -/
def State.answer (s : State) (o : Op) (before : Ctx → State → State) (effect : Ctx → State → State × List Byte)
    (p : Packet) (n : Session) : State :=
  let a := s.atStamp o before p n
  let r := effect a.1 a.2
  let reply : Reply :=
    { seq := p.seq.toNat, status := 0, cause := 0, eventSeq := a.1.seq, mediaTime := a.1.stamp, data := r.2 }
  (r.1.modSession n.id (·.record reply)).sendReply p.src reply

/-- A reply opcode, from the arrival of its packet. -/
def replyOp (o : Op) (check quota : Ctx → State → Option Bad) (before : Ctx → State → State)
    (effect : Ctx → State → State × List Byte) (p : Packet) (s : State) : State :=
  withCommand p (fun n s =>
    match s.replyBad o check quota p n with
    | some b => s.refuse p (some n.id) (replyBound o p) b
    | none => s.answer o before effect p n) (landed p s)

/-- No refusal, and nothing ahead of the stamp. -/
def never (_ : Ctx) (_ : State) : Option Bad := none
def nothing (_ : Ctx) (s : State) : State := s

/-! ## Opcodes that complete in a notification -/

/-- The refusals of a notification opcode up to QUOTA_EXCEEDED. -/
def State.notifyBad (s : State) (o : Op) (check quota : Ctx → State → Option Bad) (p : Packet) (n : Session) :
    Option Bad :=
  match s.commonBad o p with
  | some b => some b
  | none =>
    firstBad [check (s.ctx o p n) s, s.activatingBad, s.activationBad o p, s.slotsBad o p n, quota (s.ctx o p n) s]

/-- The admission of a command: none when best effort, a reservation or the cause of R46 otherwise. -/
abbrev Admission := Option (Except Nat Reservation)

/-- The command as it enters a slot. -/
def Ctx.cmd (c : Ctx) (o : Op) (id : Nat) (r : Option Reservation) : Cmd :=
  { id := id, opcode := o.code, session := c.session, seq := c.p.seq.toNat, jobTag := c.p.jobTag.toNat,
    partition := c.part, deadline := if r.isSome then c.p.deadline.toNat else 0, contract := r.isSome,
    replays := (c.cost.map (·.replays)).getD 0, reserved := r.getD Reservation.empty, costImage := c.costImage,
    costId := (c.cost.map (·.costId)).getD 0, replySeq := c.seq, replyTime := c.stamp, dies := [], hbmSet := [],
    links := [], strikes := [], poisoned := false, tainted := false, journal := 0, replayed := 0,
    work := .reset 0 0 }

/-- Accept: stamp the reply, put the command into its slot, and start its work. -/
def State.accept (s : State) (o : Op) (r : Option Reservation) (before : Ctx → State → State)
    (start : Ctx → Cmd → State → State) (p : Packet) (n : Session) : State :=
  let a := s.atStamp o before p n
  let reply : Reply :=
    { seq := p.seq.toNat, status := if r.isSome then 1 else 2, cause := 0, eventSeq := a.1.seq, mediaTime := a.1.stamp,
      data := [] }
  let t := (a.2.modSession n.id (·.record reply)).sendReply p.src reply
  start a.1 (a.1.cmd o t.nextCmd r) { t with nextCmd := t.nextCmd + 1 }

/-- A notification opcode, from the arrival of its packet. -/
def notifyOp (o : Op) (check quota : Ctx → State → Option Bad) (admission : Ctx → State → Admission)
    (before : Ctx → State → State) (start : Ctx → Cmd → State → State) (p : Packet) (s : State) : State :=
  withCommand p (fun n s =>
    match s.notifyBad o check quota p n with
    | some b => s.refuse p (some n.id) (replyBound o p) b
    | none =>
      match admission (s.ctx o p n) s with
      | none => s.accept o none before start p n
      | some (.ok r) => s.accept o (some r) before start p n
      | some (.error cause) => s.refuse p (some n.id) (replyBound o p) { status := 0x0102, cause := cause })
    (landed p s)

/-- Best effort: a notification opcode without Deadline (R90). -/
def bestEffort (_ : Ctx) (_ : State) : Admission := none

/-- Admission of a deadline opcode by R45. -/
def byCost (c : Ctx) (s : State) : Admission :=
  match c.cost with
  | none => none
  | some k => some (s.admitWork c.part c.p.deadline.toNat c.stamp 0 k)

/-- The answer to an opcode that is not in the table (R90). -/
def unknownOp (p : Packet) (s : State) : State :=
  withCommand p (fun n s => s.refuse p (some n.id) 200000 (bad 1)) (landed p s)

end Sys2Proof.Machine
end

