-- ==== Sys2Proof/Machine/Images.lean ====
section
/-! DEFINITION. Program images: LOAD_IMAGE, the check after the copy, and UNLOAD_IMAGE (04 R142 to R149). -/

namespace Sys2Proof.Machine

def opLoadImage : Op := { code := 0x0200, scope := .partition, notify := true, deadline := false, minLen := 32 }
def opUnloadImage : Op := { code := 0x0201, scope := .partition, notify := false, deadline := false, minLen := 16 }

/-! ## The tables of an image (R145 to R147), little-endian -/

def imgUnits (b : List Byte) : Nat := leAt b 8 4
def imgCores (b : List Byte) : Nat := leAt b 12 2
def imgSections (b : List Byte) : Nat := leAt b 14 2
def imgLength (b : List Byte) : Nat := leAt b 16 8
def imgCoreTable (b : List Byte) : Nat := leAt b 24 4
def imgSectionTable (b : List Byte) : Nat := leAt b 28 4
def imgCostTable (b : List Byte) : Nat := leAt b 32 4
def imgCosts (b : List Byte) : Nat := leAt b 36 4
def imgBuild (b : List Byte) : Nat := leAt b 40 8

/-- An entry of the section table. -/
structure Section where
  offset : Nat
  length : Nat
  hob : Nat
  kind : Nat
  reserved : Bool
  crc : Nat
  deriving DecidableEq, Repr

/-- An entry of the core table with its list. -/
structure CoreEntry where
  rel : Nat
  listCount : Nat
  listOffset : Nat
  program : Nat
  reserved : Bool
  args : Nat
  sections : List Nat
  deriving DecidableEq, Repr

def sectionAt (b : List Byte) (k : Nat) : Section :=
  let o := imgSectionTable b + 32 * k
  { offset := leAt b o 8, length := leAt b (o + 8) 4, hob := leAt b (o + 12) 4, kind := leAt b (o + 16) 1,
    reserved := leAt b (o + 17) 3 ≠ 0 || leAt b (o + 24) 8 ≠ 0, crc := leAt b (o + 20) 4 }

def coreEntryAt (b : List Byte) (r : Nat) : CoreEntry :=
  let o := imgCoreTable b + 16 * r
  let n := leAt b (o + 2) 2
  let l := leAt b (o + 4) 4
  { rel := leAt b o 2, listCount := n, listOffset := l, program := leAt b (o + 8) 2, reserved := leAt b (o + 10) 2 ≠ 0,
    args := leAt b (o + 12) 4, sections := (List.range (min n 16)).map fun i => leAt b (l + 2 * i) 2 }

def sectionsOfImage (b : List Byte) : List Section := (List.range (imgSections b)).map (sectionAt b)
def coresOfImage (b : List Byte) : List CoreEntry := (List.range (imgCores b)).map (coreEntryAt b)

/-- The bytes that a section loads. -/
def Section.bytes (b : List Byte) (x : Section) : List Byte :=
  if x.kind = 2 then zeros x.length else slice b x.offset x.length

def noArgs : Nat := 0xFFFFFFFF

/-! ## LOAD_IMAGE (R142 to R144) -/

def imageRange (c : Ctx) : Nat × Nat × Nat := (c.be 0 8, c.be 8 8, c.be 16 8)

/-- The header of the image named, as it lies in memory. -/
def imageHeader (c : Ctx) (s : State) : List Byte :=
  let (h, off, _) := imageRange c
  match s.alloc? c.part h with
  | some a => s.readMem View.home c.part (a.base + off) 64
  | none => []

/-- Check 4 of R143. -/
def headerBad (b : List Byte) (length : Nat) : Bool :=
  leAt b 4 2 ≠ 1 || leAt b 6 2 ≠ 64 || imgCores b = 0 || decide (128 < imgCores b) || imgSections b = 0
    || decide (4096 < imgSections b) || decide (2 ^ 28 < imgLength b) || imgLength b ≠ length
    || (imgCostTable b ≠ 0 && imgCosts b = 0) || leAt b 48 16 ≠ 0

/-- The lowest bit of `need` that `have_` lacks. -/
def lowestMissing (need have_ : Nat) : Option Nat :=
  (bitsSet 32 need).find? fun k => !have_.testBit k

def loadCheck (c : Ctx) (s : State) : Option Bad :=
  let (h, off, len) := imageRange c
  let a := s.alloc? c.part h
  let b := imageHeader c s
  firstBad [
    badIf (off % 64 ≠ 0 || decide (len < 68)) 7,
    badIf a.isNone 5,
    badIf (a.any fun a => decide (a.bytes < off + len)) 6,
    badIf (leAt b 0 4 ≠ 0x50385849) 12,
    badIf (headerBad b len) 7,
    (lowestMissing (imgUnits b) s.fuses.variant.unitMask).map fun k => { status := 0x0105, cause := k } ]

def imageGranules (c : Ctx) : Nat := ceilDiv (c.be 16 8) granuleBytes

def loadQuota (c : Ctx) (s : State) : Option Bad :=
  if 64 ≤ (s.mem.images.filter (·.partition = c.part)).length then some { status := 0x0103, cause := 7 }
  else match s.placeWs c.part (imageGranules c) none with
    | .refused cause => some { status := 0x0103, cause := cause }
    | .granted _ _ => none

/-- The reclamations that make room are stamped before the reply (07 R229). -/
def loadBefore (c : Ctx) (s : State) : State :=
  match s.placeWs c.part (imageGranules c) none with
  | .granted _ victims => victims.foldl State.reclaim s
  | .refused _ => s

/-- The image store is taken, and the copy runs. -/
def loadStart (c : Ctx) (k : Cmd) (s : State) : State :=
  let (h, off, len) := imageRange c
  let va := ((s.alloc? c.part h).map (·.base)).getD 0 + off
  let i : Image :=
    { handle := s.mem.nextImage, partition := c.part, bytes := s.readMem View.home c.part va len,
      poisoned := s.rangePoison View.home c.part va len, loaded := false, granules := imageGranules c,
      hbmSet := s.stackList .woodshed none, first := s.firstOf .woodshed none }
  let (s, _) := s.touchAll c.part 0 false (sectorsOf va len)
  { s.countPlaced .woodshed with
    mem.images := s.mem.images ++ [i]
    mem.nextImage := s.mem.nextImage + 1
    cmds := s.cmds ++ [{ k with work := .loadImage i.handle }] }

def execLoadImage (p : Packet) (s : State) : Host.Outcome State Fault Refusal :=
  .next (notifyOp opLoadImage loadCheck loadQuota bestEffort loadBefore loadStart p s)

/-! ## The check after the copy (R148) -/

def crcOk (b : List Byte) : Bool := decide (crc32c (b.take (b.length - 4)) = leAt b (b.length - 4) 4)

/-- Check 2: tables, sections and lists lie inside the image. -/
def insideBad (b : List Byte) : Bool :=
  let n := imgLength b
  decide (n < imgCoreTable b + 16 * imgCores b) || decide (n < imgSectionTable b + 32 * imgSections b)
    || decide (imgCosts b ≠ 0 ∧ n < imgCostTable b + 64 * imgCosts b)
    || ((sectionsOfImage b).any fun x => x.kind ≠ 2 && decide (n < x.offset + x.length))
    || ((coresOfImage b).any fun e => decide (n < e.listOffset + 2 * e.listCount))

/-- The sections of a core's list, as far as their indices name any. -/
def listed (b : List Byte) (e : CoreEntry) : List Section :=
  (e.sections.filter fun k => decide (k < imgSections b)).map (sectionAt b)

/-- Check 3: sections and argument blocks end inside hob memory. -/
def hobBad (b : List Byte) : Bool :=
  (coresOfImage b).any fun e =>
    ((listed b e).any fun x => decide (hobTop < x.hob + x.length)) || (e.args ≠ noArgs && decide (hobTop < e.args + 4096))

/-- Two of a list of ranges overlap. -/
def overlapping : List (Nat × Nat) → Bool
  | [] => false
  | (lo, hi) :: rest => (rest.any fun r => decide (r.1 < hi) && decide (lo < r.2)) || overlapping rest

def sectionBad (b : List Byte) (x : Section) : Bool :=
  decide (2 < x.kind) || x.length = 0 || decide (8388608 < x.length) || x.hob % 64 ≠ 0 || x.reserved
    || (if x.kind = 2 then x.offset ≠ 0 || x.crc ≠ 0 else crc32c (x.bytes b) ≠ x.crc)

def coreEntryBad (b : List Byte) (r : Nat) (e : CoreEntry) : Bool :=
  e.rel ≠ r || e.listCount = 0 || decide (16 < e.listCount) || e.reserved
    || (e.args ≠ noArgs && e.args % 64 ≠ 0)
    || e.sections.any (fun k => decide (imgSections b ≤ k))
    || !e.sections.contains e.program || (sectionAt b e.program).kind ≠ 0
    || overlapping ((listed b e).map (fun x => (x.hob, x.hob + x.length))
        ++ (if e.args = noArgs then [] else [(e.args, e.args + 4096)]))

/-- Check 4: fields and checksums of the tables. -/
def tablesBad (b : List Byte) : Bool :=
  (sectionsOfImage b).any (sectionBad b)
    || (List.range (imgCores b)).any fun r => coreEntryBad b r (coreEntryAt b r)

/-- The OPs of R128. -/
def knownOps : List Nat := [0x01, 0x02, 0x03, 0x04, 0x05, 0x06, 0x07, 0x08, 0x10, 0x11, 0x12, 0x20, 0x21, 0x30]

/-- The OPs of a PROGRAM section. -/
def opsOf (b : List Byte) (x : Section) : List Nat := (List.range (x.length / 32)).map fun i => leAt b (x.offset + 32 * i) 1

def programs (b : List Byte) : List Section := (sectionsOfImage b).filter (·.kind = 0)

/-- Check 5: whole entries with known OPs. -/
def programsBad (b : List Byte) : Bool :=
  (programs b).any fun x => x.length % 32 ≠ 0 || (opsOf b x).any fun o => !knownOps.contains o

/-- Check 6: the unit an OP needs and the module lacks. -/
def State.unitMissing (s : State) (b : List Byte) : Option Nat :=
  let ops := ((programs b).map (opsOf b)).flatten
  if ops.contains 0x07 && !s.unitPresent 0 then some 0
  else if ops.contains 0x08 && !s.unitPresent 1 then some 1
  else none

/-- Check 7: every cost record meets 02 R40. -/
def costsBad (b : List Byte) : Bool :=
  (List.range (imgCosts b)).any fun k => !(costOfLe (slice b (imgCostTable b + 64 * k) 64)).ok

/-- The first failure of R148, as status and cause, or none. -/
def State.imageBad (s : State) (i : Image) (struck : Bool) : Option Bad :=
  let b := i.bytes
  if i.poisoned || struck then some { status := 0x0301, cause := 0 }
  else if !crcOk b then some (bad 7)
  else if insideBad b || hobBad b then some (bad 6)
  else if tablesBad b || programsBad b then some (bad 7)
  else match s.unitMissing b with
    | some k => some { status := 0x0105, cause := k }
    | none => badIf (costsBad b) 10

/-- An uncorrectable error that this step's reads found in the source partition strikes the copy. -/
def strikesCopy (q : Nat) (m : MemError) : Bool :=
  !m.correctable && (match m.place with
    | .stack _ p _ | .mantel _ p _ | .stage _ p _ => decide (p = q)
    | .hob _ _ => false)

/-- The load ends: DONE keeps the image, any failure releases it. -/
def State.imageCheck (s : State) (e : Env) (id : Nat) : State :=
  match s.cmd? id with
  | none => s
  | some c =>
    match c.work with
    | .loadImage h =>
      match s.mem.images.find? (·.handle = h) with
      | none => s
      | some i =>
        match s.imageBad i (e.errs.any (strikesCopy i.partition)) with
        | some b => { s with mem.images := s.mem.images.filter (·.handle ≠ h) }.complete id b.status b.cause []
        | none =>
          { s with mem.images := mapIf (·.handle = h) (fun i => { i with loaded := true }) s.mem.images }.complete id 0 0
            (beBytes 8 h ++ beBytes 4 i.granules ++ zeros 4)
    | _ => s

/-- IMAGE_CHECK of command `cmd`. -/
def execImageCheck (e : Env) (cmd : Nat) (s : State) : Host.Outcome State Fault Refusal :=
  .next ((enter e s).imageCheck e cmd)

/-! ## UNLOAD_IMAGE (R149, 09 R305) -/

/-- A LAUNCH of the image, an accepted command's COST_REF or a sequence still uses it. -/
def State.imageInUse (s : State) (h : Nat) : Bool :=
  (s.seqs.runs.any fun r => r.image = h) || (s.cmds.any fun c => c.costImage = h && h ≠ 0)
    || s.seqs.table.any fun q => q.model = h && q.state ≠ .closed

def unloadCheck (c : Ctx) (s : State) : Option Bad :=
  firstBad [badIf (s.image? c.part (c.be 0 8)).isNone 5, badIf (s.imageInUse (c.be 0 8)) 15]

/-- Release an image store; no core keeps a section of it (R152). -/
def State.dropImage (s : State) (h : Nat) : State :=
  { s with
    mem.images := s.mem.images.filter (·.handle ≠ h)
    cores := s.cores.map fun k => { k with residency := k.residency.filter (·.image ≠ h) } }

def execUnloadImage (p : Packet) (s : State) : Host.Outcome State Fault Refusal :=
  .next (replyOp opUnloadImage unloadCheck never nothing (fun c s => (s.dropImage (c.be 0 8), [])) p s)

end Sys2Proof.Machine
end

