-- ==== Sys2Proof/Machine/MediaTime.lean ====
section
/-! DEFINITION. Media time: PTP, PPS_IN, holdover, steps, frame grids and FRAME_SYNC_IN, and the registers MT_CTRL and
MT_SET_SECONDS (02 R21 to R36, R604). -/

namespace Sys2Proof.Machine

/-! ## TIME_STATE (02 R24, 03 R101) -/

def TimeState.code : TimeState → Nat
  | .free => 0
  | .locked => 1
  | .holdover => 2
  | .unlocked => 3

/-- Enter a state, and report a change. -/
def State.setTime (s : State) (t : TimeState) : State :=
  if s.clock.state = t then s else { s with clock.state := t }.raise 0x0103 255 t.code []

/-- The source is lost: HOLDOVER when LOCKED, and a pending step is cancelled (02 R24, R25). -/
def State.loseSource (s : State) : State :=
  let s := { s with clock := { s.clock with master := none, goodSyncs := 0, stepPending := false } }
  if s.clock.state = .locked then { s with clock.holdoverSince := s.clock.steady }.setTime .holdover else s

/-- A source change returns TIME_STATE to FREE (02 R604). -/
def State.sourceChange (s : State) : State :=
  { s with clock := { s.clock with goodSyncs := 0, slewLeft := 0, stepPending := false, ppsAligned := false,
                                   ppsGood := 0, setSeconds := none } }.setTime .free

/-- A contract is in flight (02 R25). -/
def State.contractInFlight (s : State) : Bool := s.cmds.any (·.contract)

/-- The counter is compared with the source, `off` nanoseconds ahead: slew, or wait to step (02 R25). The comparison
comes before the lock, since a lock needs an offset below 100 ns (log entry 14). -/
def State.compareWith (s : State) (off : Int) : State :=
  if off.natAbs ≤ 1000000 then { s with clock.slewLeft := off }
  else { s with clock := { s.clock with stepPending := true, stepOffset := off } }

/-! ## PTP (02 R22 to R25, R604) -/

/-- The interval of Sync messages, in nanoseconds. -/
def syncNs (log : Int) : Nat := if log < 0 then 1000000000 / 2 ^ log.natAbs else 1000000000 * 2 ^ log.natAbs

/-- A usable Sync from the current master. Four in a row with an offset below 100 ns are a lock (02 R24); until then the
counter is slewed, or waits for its step (log entry 14). A LOCKED counter is only slewed. -/
def State.sync (s : State) (off : Int) (log : Int) : State :=
  match s.clock.master with
  | none => s
  | some m =>
    let m := { m with lastSync := s.clock.steady, syncInterval := syncNs log }
    let n := if off.natAbs < 100 then s.clock.goodSyncs + 1 else 0
    let s := { s with clock := { s.clock with master := some m, goodSyncs := n } }
    let s :=
      if s.clock.stepPending then { s with clock.stepOffset := off }
      else if s.clock.state = .locked then { s with clock.slewLeft := off }
      else s.compareWith off
    if decide (4 ≤ n) && !s.clock.stepPending then s.setTime .locked else s

/-- PTP_SYNC: a Sync of the current master, in a mode that PTP supplies. -/
def execPtpSync (e : Env) (m : SyncMsg) (s : State) : Host.Outcome State Fault Refusal :=
  let s := advance e.dt s
  .next (if s.portUp && m.usable && s.set.source ≠ 2 && s.clock.master.any fun k => k.grandmaster = m.grandmaster.toNat then
    s.sync m.offset m.logInterval else s)

/-- What the best master clock algorithm compares, most significant first (02 R22). -/
def announceRank (m : AnnounceMsg) : List Nat :=
  [m.priority1.toNat, m.clockClass.toNat, m.accuracy.toNat, m.variance.toNat, m.priority2.toNat, m.grandmaster.toNat]

/-- Lexicographic order of ranks. -/
def rankBelow : List Nat → List Nat → Bool
  | a :: as, b :: bs => decide (a < b) || (decide (a = b) && rankBelow as bs)
  | _, _ => false

def masterOf (m : AnnounceMsg) (now : Nat) : Master :=
  { grandmaster := m.grandmaster.toNat, rank := announceRank m, ptpTimescale := m.ptpTimescale,
    utcOffset := m.utcOffset, syncInterval := 1000000000, lastSync := now }

/-- An Announce of the configured domain: ARB_SEEN for a master off the PTP timescale, otherwise master selection
(02 R22, R23, R604). -/
def State.announce (s : State) (m : AnnounceMsg) : State :=
  if !s.portUp || m.domain.toNat ≠ s.set.domain then s
  else if !m.ptpTimescale then { s with clock.arbSeen := true }
  else match s.clock.master with
    | none => { s with clock.master := some (masterOf m s.clock.steady) }
    | some k =>
      if k.grandmaster = m.grandmaster.toNat then
        { s with clock.master := some { k with rank := announceRank m, utcOffset := m.utcOffset } }
      else if rankBelow (announceRank m) k.rank then
        { s with clock.master := some (masterOf m s.clock.steady) }.sourceChange
      else s

def execPtpAnnounce (e : Env) (m : AnnounceMsg) (s : State) : Host.Outcome State Fault Refusal :=
  .next ((advance e.dt s).announce m)

/-- SOURCE_LOST: three Sync intervals have passed with no usable Sync (02 R604). -/
def execSourceLost (e : Env) (s : State) : Host.Outcome State Fault Refusal :=
  let s := advance e.dt s
  .next (if s.set.source ≠ 2 && s.clock.master.any fun k => decide (k.lastSync + 3 * k.syncInterval ≤ s.clock.steady) then
    s.loseSource else s)

/-- HOLDOVER_EXPIRY: HOLDOVER has lasted 60 s (02 R24). -/
def execHoldoverExpiry (e : Env) (s : State) : Host.Outcome State Fault Refusal :=
  let s := advance e.dt s
  .next (if s.clock.state = .holdover && decide (s.clock.holdoverSince + 60000000000 ≤ s.clock.steady) then
    s.setTime .unlocked else s)

/-- Make the pending step (02 R25): OLD_MT and NEW_MT are the event's payload. -/
def State.stepTime (s : State) : State :=
  let old := s.clock.mt
  let new := ((old : Int) + s.clock.stepOffset).toNat
  { s with clock := { s.clock with mt := new, stepPending := false, slewLeft := 0 } }.raise 0x0101 255 0
    (beBytes 8 old ++ beBytes 8 new)

/-- MT_STEPPED: no accepted deadline command remains (02 R25). -/
def execMtStepped (e : Env) (s : State) : Host.Outcome State Fault Refusal :=
  let s := advance e.dt s
  .next (if s.clock.stepPending && !s.contractInFlight then s.stepTime else s)

/-! ## PPS_IN (02 R26, R29, R31) -/

/-- The distance of media time from the nearest second. -/
def phaseError (mt : Nat) : Int :=
  let r := mt % 1000000000
  if 2 * r < 1000000000 then (r : Int) else (r : Int) - 1000000000

/-- An edge in PPS_HOST mode: the first after a write of MT_SET_SECONDS sets the counter, and an edge that follows three
good periods locks. -/
def State.ppsHostEdge (s : State) (goodBefore : Nat) : State :=
  let s := match s.clock.setSeconds with
    | none => s
    | some v =>
      let target := (s.set.mtEpoch + v) * 1000000000
      let s := { s with clock := { s.clock with setSeconds := none, ppsAligned := true } }
      if s.contractInFlight then s.compareWith ((target : Int) - s.clock.mt)
      else { s with clock := { s.clock with mt := target, slewLeft := 0, stepPending := false } }
  if s.clock.ppsAligned && decide (3 ≤ goodBefore) then s.setTime .locked else s

/-- A PPS_IN edge of the chosen polarity. -/
def State.ppsEdge (s : State) : State :=
  let good := s.clock.lastPps.any fun t => decide ((((s.clock.steady - t : Nat) : Int) - 1000000000).natAbs < 100)
  let before := s.clock.ppsGood
  let s := { s with clock := { s.clock with
    lastPps := some s.clock.steady, ppsPresent := true, ppsGood := if good then before + 1 else 0 } }
  if s.set.source = 2 then s.ppsHostEdge before
  else if s.set.source = 1 && s.clock.state = .locked then { s with clock.slewLeft := - phaseError s.clock.mt }
  else s

def execPpsInEdge (e : Env) (falling : Bool) (s : State) : Host.Outcome State Fault Refusal :=
  let s := advance e.dt s
  .next (if s.portUp ∧ falling = decide (s.set.ppsEdge = 1) then s.ppsEdge else s)

/-- PPS_ABSENT: no edge for 3 s; in a mode that uses PPS_IN the source is lost (02 R29, R604). -/
def execPpsAbsent (e : Env) (s : State) : Host.Outcome State Fault Refusal :=
  let s := advance e.dt s
  .next (if s.clock.ppsPresent && s.clock.lastPps.any fun t => decide (t + 3000000000 ≤ s.clock.steady) then
    let s := { s with clock := { s.clock with ppsPresent := false, ppsGood := 0 } }
    if s.set.source = 0 then s else s.loseSource
  else s)

/-! ## Frame grids (02 R33 to R36) -/

/-- A FRAME_GRID from its 24 bytes on the wire (R33). -/
def gridOf (b : List Byte) : Grid :=
  { num := beAt b 0 4, den := beAt b 4 4, phase := beAt b 8 8, fsyncBound := (beAt b 16 2).testBit 0,
    gridId := beAt b 18 2, base := beAt b 8 8, baseK := 0, sinceK := 0, lost := false }

/-- R34: neither part zero, and a period of 1 ms to 10 s. -/
def Grid.ok (g : Grid) : Bool :=
  decide (g.num ≠ 0) && decide (g.den ≠ 0) && decide (g.den * 1000000 ≤ g.num * 1000000000)
    && decide (g.num * 1000000000 ≤ g.den * 10000000000)

/-- Nanoseconds from a boundary to the k-th after it. -/
def Grid.span (g : Grid) (k : Nat) : Nat := k * g.num * 1000000000 / g.den

/-- The media time of boundary `k` (R34, R35). -/
def Grid.boundary (g : Grid) (k : Nat) : Nat :=
  if g.baseK ≤ k then g.base + g.span (k - g.baseK) else g.phase + g.span k

/-- The last boundary at or before `t`, or boundary `baseK` before any. -/
def Grid.lastBefore (g : Grid) (t : Nat) : Nat :=
  if t < g.base then g.baseK
  else
    let k := (t - g.base) * g.den / (g.num * 1000000000)
    g.baseK + (if g.base + g.span (k + 1) ≤ t then k + 1 else k)

/-- The boundary within 2,000 ns of `t`, if there is one (R35). -/
def Grid.near (g : Grid) (t : Nat) : Option Nat :=
  let k := g.lastBefore (t + 2000)
  let b := g.boundary k
  if b ≤ t + 2000 ∧ t ≤ b + 2000 then some k else none

/-- A grid opened at media time `now` awaits pulses from its next boundary on. -/
def Grid.open_ (g : Grid) (now : Nat) : Grid := { g with sinceK := if now < g.base then 0 else g.lastBefore now }

/-- A pulse at `t`: re-phase, or count an outlier (R35). -/
def Grid.pulse (g : Grid) (t : Nat) : Grid × Nat :=
  if g.fsyncBound then
    match g.near t with
    | some k => ({ g with base := t, baseK := k, sinceK := k, lost := false }, 0)
    | none => (g, 1)
  else (g, 0)

/-- Every grid of the module with its partition. -/
def State.grids (s : State) : List (Nat × Grid) :=
  (s.seqs.table.filterMap fun q => if q.state = .closed then none else q.grid.map fun g => (q.partition, g))
    ++ s.codec.handles.map fun h => (h.partition, h.grid)

/-- Change every grid. -/
def State.mapGrids (s : State) (f : Nat → Grid → Grid) : State :=
  { s with
    seqs.table := s.seqs.table.map fun q => { q with grid := q.grid.map (f q.partition) }
    codec.handles := s.codec.handles.map fun h => { h with grid := f h.partition h.grid } }

/-- The grid of a partition with an identifier (R33). -/
def State.grid? (s : State) (q id : Nat) : Option Grid :=
  (s.grids.find? fun g => g.1 = q && g.2.gridId = id).map Prod.snd

/-- A FRAME_SYNC_IN pulse of the chosen polarity (R35). -/
def State.fsyncPulse (s : State) : State :=
  let t := s.clock.mt
  let outliers := sumOf (fun g => (g.2.pulse t).2) s.grids
  let s := { s with clock := { s.clock with
    lastFsync := some s.clock.steady, fsyncPresent := true, fsyncOutliers := s.clock.fsyncOutliers + outliers } }
  s.mapGrids fun _ g => (g.pulse t).1

def execFrameSyncInPulse (e : Env) (falling : Bool) (s : State) : Host.Outcome State Fault Refusal :=
  let s := advance e.dt s
  .next (if s.portUp ∧ falling = decide (s.set.fsyncEdge = 1) then s.fsyncPulse else s)

/-- Three consecutive boundaries have passed with no accepted pulse (R35). -/
def Grid.starved (g : Grid) (now : Nat) : Bool :=
  g.fsyncBound && !g.lost && decide (g.boundary (g.sinceK + 3) + 2000 < now)

/-- FRAME_SYNC_LOST (R35). -/
def execFrameSyncLost (e : Env) (partition gridId : Nat) (s : State) : Host.Outcome State Fault Refusal :=
  let s := advance e.dt s
  .next (if (s.grid? partition gridId).any fun g => g.starved s.clock.mt then
    (s.mapGrids fun q g => if q = partition ∧ g.gridId = gridId then { g with lost := true } else g).raise 0x0102 partition 0 []
  else s)

/-- FSYNC_ABSENT: no pulse for 3 s (R29). -/
def execFsyncAbsent (e : Env) (s : State) : Host.Outcome State Fault Refusal :=
  let s := advance e.dt s
  .next (if s.clock.fsyncPresent && s.clock.lastFsync.any fun t => decide (t + 3000000000 ≤ s.clock.steady) then
    { s with clock.fsyncPresent := false } else s)

/-! ## MT_CTRL and MT_SET_SECONDS (02 R28 to R32) -/

/-- A Heartwood field has been written: it is to be stored (18 R571). -/
def State.storeSoon (s : State) : State := { s with fw.storeDue := true }

/-- The value of MT_CTRL (R28). -/
def State.mtCtrl (s : State) : Nat :=
  s.set.source + 4 * s.set.transport + 16 * s.set.delayMech + 32 * s.set.ppsEdge + 64 * s.set.fsyncEdge
    + 256 * s.set.domain + 65536 * s.set.stokeInterval

/-- A field keeps its value when the one written is out of its range. -/
def pick (ok : Bool) (new old : Nat) : Nat := if ok then new else old

/-- A write to MT_CTRL (R28). A change of STOKE_INTERVAL waits for the next boundary of the old interval (R32). -/
def State.writeMtCtrl (s : State) (v : Nat) : State :=
  let src := pick (decide (bitsOf v 1 0 ≠ 3)) (bitsOf v 1 0) s.set.source
  let trn := pick (decide (bitsOf v 3 2 ≠ 3)) (bitsOf v 3 2) s.set.transport
  let dly := bitsOf v 4 4
  let dom := pick (decide (bitsOf v 15 8 ≤ 127)) (bitsOf v 15 8) s.set.domain
  let stk := pick (decide (5 ≤ bitsOf v 27 16) && decide (bitsOf v 27 16 ≤ 200)) (bitsOf v 27 16) s.set.stokeInterval
  let changed := src ≠ s.set.source || trn ≠ s.set.transport || dly ≠ s.set.delayMech || dom ≠ s.set.domain
  let clock := if stk = s.set.stokeInterval then s.clock
    else { s.clock with stokeInForce := s.stokeNs / 10000, stokeSwitch := boundaryAfter s.stokeNs s.clock.mt }
  let s := { s with clock := clock
                    set := { s.set with source := src, transport := trn, delayMech := dly, ppsEdge := bitsOf v 5 5,
                                        fsyncEdge := bitsOf v 6 6, domain := dom, stokeInterval := stk } }
  let s := s.storeSoon
  if changed then { s with clock.master := none }.sourceChange else s

/-- A write to MT_SET_SECONDS, used only in PPS_HOST mode (R30). -/
def State.writeMtSetSeconds (s : State) (v : Nat) : State :=
  if s.set.source = 2 then { s with clock := { s.clock with setSeconds := some v } } else s

def execMtCtrlWrite (e : Env) (value : W32) (s : State) : Host.Outcome State Fault Refusal :=
  let s := advance e.dt s
  .next (if s.portUp then s.writeMtCtrl value.toNat else s)

def execMtSetSecondsWrite (e : Env) (value : W32) (s : State) : Host.Outcome State Fault Refusal :=
  let s := advance e.dt s
  .next (if s.portUp then s.writeMtSetSeconds value.toNat else s)

end Sys2Proof.Machine
end

