-- ==== Sys2Proof/Machine/Pool.lean ====
section
/-! DEFINITION. The shared pool: ALLOC, FREE, HINT, moves between the tiers, scrub, and the thermal levels of the
stacks (07 R216 to R257, 04 R125). -/

namespace Sys2Proof.Machine

/-! ## ALLOC (07 R216 to R220, R229, 08 R262) -/

def opAlloc : Op := { code := 0x0100, scope := .partition, notify := false, deadline := false, minLen := 32 }

def tierOf (n : Nat) : Tier := if n = 0 then .firebox else .woodshed
def Tier.code : Tier → Nat
  | .firebox => 0
  | .woodshed => 1

/-- A sequence of a partition, whatever its state. -/
def State.seq? (s : State) (q h : Nat) : Option Seq := s.seqs.table.find? fun r => r.handle = h && r.partition = q

/-- An open sequence: any state but EVICTED and CLOSED (07 R218). -/
def State.openSeq (s : State) (q h : Nat) : Bool :=
  (s.seq? q h).any fun r => r.state ≠ .evicted && r.state ≠ .closed

/-- The pairing of mobility and owner (07 R218). -/
def State.pairingBad (s : State) (q : Nat) (evictable : Bool) (owner : Nat) : Option Bad :=
  firstBad [badIf (evictable && owner = 0) 7, badIf (!evictable && owner ≠ 0) 7,
            badIf (owner ≠ 0 && !s.openSeq q owner) 5]

def allocGranules (c : Ctx) : Nat := ceilDiv (c.be 0 8) granuleBytes
def allocAffinity (c : Ctx) : Option Nat := if (c.be 8 4).testBit 3 then some (c.be 12 1) else none

def allocCheck (c : Ctx) (s : State) : Option Bad :=
  let f := c.be 8 4
  firstBad [
    badIf (c.be 0 8 = 0 || decide (2 ≤ bitsOf f 1 0) || decide (2 ≤ bitsOf f 5 4)
      || (f.testBit 3 && decide (s.dieCount ≤ c.be 12 1))) 7,
    s.pairingBad c.part (bitsOf f 5 4 = 1) (c.be 16 8),
    badIf (f.testBit 6 && c.be 16 8 ≠ 0 && (s.seq? c.part (c.be 16 8)).any fun r => r.binding.isNone) 15 ]

def allocPlace (c : Ctx) (s : State) : Placement :=
  s.place c.part (tierOf (bitsOf (c.be 8 4) 1 0)) (allocGranules c) ((c.be 8 4).testBit 2) (allocAffinity c)

def allocQuota (c : Ctx) (s : State) : Option Bad :=
  match allocPlace c s with
  | .refused cause => some { status := 0x0103, cause := cause }
  | .granted _ _ => none

/-- The new allocation in tier `t` (R219, R225). -/
def State.addAlloc (s : State) (c : Ctx) (t : Tier) : State :=
  let f := c.be 8 4
  let n := allocGranules c
  let a : Alloc :=
    { handle := s.mem.nextHandle, partition := c.part, base := s.newVa c.part (n * granuleBytes), granules := n,
      tier := t, hbmSet := s.stackList t (allocAffinity c), first := s.firstOf t (allocAffinity c),
      affinity := allocAffinity c, evictable := decide (bitsOf f 5 4 = 1), owner := c.be 16 8, kv := f.testBit 6,
      carved := false, accessed := false, lastUse := 0, promote := false }
  { s.countPlaced t with mem.allocs := s.mem.allocs ++ [a], mem.nextHandle := s.mem.nextHandle + 1 }

/-- The reclamations of place are stamped before the reply (R229). -/
def allocBefore (c : Ctx) (s : State) : State :=
  match allocPlace c s with
  | .refused _ => s
  | .granted t victims => (victims.foldl State.reclaim s).addAlloc c t

/-- At the stamp: LAST_USE (R233) and the reply data (R219). -/
def allocEffect (c : Ctx) (s : State) : State × List Byte :=
  match s.mem.allocs.find? (·.handle = s.mem.nextHandle - 1) with
  | none => (s, [])
  | some a =>
    (s.modAlloc a.handle fun a => { a with lastUse := c.stamp },
     beBytes 8 a.handle ++ beBytes 8 a.base ++ beBytes 4 a.granules ++ beBytes 1 a.tier.code ++ zeros 3)

def execAlloc (p : Packet) (s : State) : Host.Outcome State Fault Refusal :=
  .next (replyOp opAlloc allocCheck allocQuota allocBefore allocEffect p s)

/-! ## FREE (07 R222) -/

def opFree : Op := { code := 0x0101, scope := .partition, notify := false, deadline := false, minLen := 16 }

/-- What keeps an allocation from being freed with cause STATE: frames named or in the ash pan (R222), a journal that
holds it (12 R397), the source of a stage (18 R560), a sample ring (19 R592). -/
def State.allocPinned (s : State) (q h : Nat) : Bool :=
  (s.kv.frames.any fun f => f.alloc = h && (f.state = .used || f.state = .ash))
    || (s.watch.journals.any fun j => j.allocs.contains h)
    || (match s.fw.stage with | some g => g.cmd ≠ 0 && g.srcHandle = h | none => false)
    || (s.ctrs.parts.any fun k => k.partition = q && k.handle = h && k.shift ≠ 0)

def freeCheck (c : Ctx) (s : State) : Option Bad :=
  let h := c.be 0 8
  firstBad [badIf (s.alloc? c.part h).isNone 5, badIf (s.net.windows.any fun w => w.partition = c.part && w.handle = h) 14,
            badIf (s.allocPinned c.part h) 15]

/-- The range leaves the address space; its granules wait for the operations issued before. -/
def State.freeAllocation (s : State) (q h : Nat) : State :=
  match s.alloc? q h with
  | none => s
  | some a =>
    { s with mem.allocs := s.mem.allocs.filter (·.handle ≠ h)
             mem.freed := s.mem.freed ++ [{ alloc := a, before := s.mem.nextOp }]
             kv.frames := s.kv.frames.filter (·.alloc ≠ h) }

def execFreeAlloc (p : Packet) (s : State) : Host.Outcome State Fault Refusal :=
  .next (replyOp opFree freeCheck never nothing (fun c s => (s.freeAllocation c.part (c.be 0 8), [])) p s)

/-- Every operation issued before number `n` on memory of partition `q` has retired: no macro-instruction of a core that
runs the partition's work is older, and no engine is at work for the partition (log entry 16). -/
def State.retiredBefore (s : State) (q n : Nat) : Bool :=
  (s.cores.all fun c => !(s.seqs.runs.any fun r => r.id = c.run && r.partition = q) || c.unretired.all fun m => decide (n ≤ m.opId))
    && !(s.zhevub.ops.any fun o => o.partition = q && o.phase = .running)
    && !(s.codec.engines.any fun e => e.busy && s.codec.pushes.any fun u => u.id = e.unit
        && s.codec.handles.any fun h => h.handle = u.handle && h.partition = q)

/-- FREE_GRANULES_RETURN: holding and free count change together (R222). -/
def State.returnGranules (s : State) (h : Nat) : State :=
  match s.mem.freed.find? (·.alloc.handle = h) with
  | none => s
  | some f =>
    if s.retiredBefore f.alloc.partition f.before then
      let lo := memKey f.alloc.partition f.alloc.base
      { s with mem.freed := s.mem.freed.filter (·.alloc.handle ≠ h)
               mem.cells := cellClear s.mem.cells lo (lo + f.alloc.bytes)
               mem.poison := s.mem.poison.filter fun k => decide (k < lo) || decide (lo + f.alloc.bytes ≤ k)
               mem.provisional := s.mem.provisional.filter fun k => decide (k.1 < lo) || decide (lo + f.alloc.bytes ≤ k.1) }
    else s

def execFreeGranulesReturn (e : Env) (handle : Nat) (s : State) : Host.Outcome State Fault Refusal :=
  .next ((advance e.dt s).returnGranules handle)

/-! ## HINT (07 R223) -/

def opHint : Op := { code := 0x0102, scope := .partition, notify := false, deadline := false, minLen := 24 }

/-- What every HINT checks: a HINT_OP of the table and an allocation of the partition. -/
def hintCheck (more : Ctx → State → Alloc → Option Bad) (c : Ctx) (s : State) : Option Bad :=
  if 4 ≤ c.be 8 1 then some (bad 7)
  else match s.alloc? c.part (c.be 0 8) with
    | none => some (bad 5)
    | some a => more c s a

/-- The free list of an allocation's frames follows its mobility and owner (08 R261). -/
def State.listFrames (s : State) (h : Nat) : State :=
  let owner := match s.mem.allocs.find? (·.handle = h) with
    | some a => if a.evictable then a.owner else 0
    | none => 0
  { s with kv.frames := mapIf (·.alloc = h) (fun f => { f with listOwner := owner }) s.kv.frames }

/-- A HINT changes its allocation, and cancels a promotion that waits (R231). -/
def hintEffect (f : Ctx → Alloc → Alloc) (c : Ctx) (s : State) : State × List Byte :=
  ((s.modAlloc (c.be 0 8) fun a => f c { a with promote := false }).listFrames (c.be 0 8), [])

def execSetMobility (p : Packet) (s : State) : Host.Outcome State Fault Refusal :=
  .next (replyOp opHint
    (hintCheck fun c s _ => firstBad [badIf (decide (2 ≤ c.be 9 1)) 7, s.pairingBad c.part (c.be 9 1 = 1) (c.be 16 8)])
    never nothing (hintEffect fun c a => { a with evictable := decide (c.be 9 1 = 1), owner := c.be 16 8 }) p s)

def execSetOwner (p : Packet) (s : State) : Host.Outcome State Fault Refusal :=
  .next (replyOp opHint (hintCheck fun c s a => s.pairingBad c.part a.evictable (c.be 16 8))
    never nothing (hintEffect fun c a => { a with owner := c.be 16 8 }) p s)

def execTouch (p : Packet) (s : State) : Host.Outcome State Fault Refusal :=
  .next (replyOp opHint (hintCheck fun _ _ _ => none) never nothing
    (hintEffect fun c a => { a with lastUse := c.stamp }) p s)

def execPromote (p : Packet) (s : State) : Host.Outcome State Fault Refusal :=
  .next (replyOp opHint (hintCheck fun _ _ a => badIf (!a.evictable || a.tier = .firebox) 15) never nothing
    (hintEffect fun _ a => { a with promote := true }) p s)

/-! ## Moves between the tiers (07 R231, R232) -/

/-- Demotion is due: below FB_LOW_WATER, or begun and not yet at FB_HIGH_WATER. -/
def State.demotionDue (s : State) : Bool :=
  decide (s.freeGranules .firebox < s.set.fbLowWater)
    || (s.mem.demoting && decide (s.freeGranules .firebox < s.set.fbHighWater))

/-- An allocation that may be demoted (R231). -/
def State.mayDemote (s : State) (a : Alloc) : Bool :=
  a.tier = .firebox && a.evictable
    && (s.seq? a.partition a.owner).any s.seqIdle
    && (s.part? a.partition).any fun p =>
      decide (p.fbFloor + a.granules ≤ s.held p.num .firebox)
        && decide (s.held p.num .woodshed + a.granules ≤ p.wsCeiling)
        && s.room .woodshed a.granules (s.owed p.num .woodshed) a.affinity

/-- The oldest allocation that may be demoted. -/
def State.demotee (s : State) : Option Alloc :=
  (sortBy (fun a b => decide (a.lastUse < b.lastUse)) (s.mem.allocs.filter s.mayDemote)).head?

/-- A promotion that can be carried out. -/
def State.mayPromote (s : State) (a : Alloc) : Bool :=
  a.tier = .woodshed && a.promote
    && decide (s.set.fbHighWater + a.granules ≤ s.freeGranules .firebox)
    && (s.part? a.partition).any fun p =>
      decide (s.held p.num .firebox + a.granules ≤ p.fbCeiling)
        && s.room .firebox a.granules (s.owed p.num .firebox) a.affinity

/-- Move an allocation: its stack list is rebuilt in the new tier, and its sectors leave the caches of the old home. -/
def State.moveTo (s : State) (a : Alloc) (t : Tier) : State :=
  let s' := s.modAlloc a.handle fun b =>
    { b with tier := t, hbmSet := s.stackList t a.affinity, first := s.firstOf t a.affinity, promote := false }
  { s'.countPlaced t with
    mem.dies := s'.mem.dies.map fun d => { d with cache := d.cache.filter fun l => !a.holds l.partition l.va 1 } }

/-- TIER_MOVE: the move of one allocation ends. -/
def State.tierMove (s : State) (h : Nat) : State :=
  match s.mem.allocs.find? (·.handle = h) with
  | none => s
  | some a =>
    if s.demotionDue && s.demotee.any fun b => b.handle = h then
      let s := s.moveTo a .woodshed
      { s with mem.demotions := satAdd 32 s.mem.demotions 1
               mem.demoting := decide (s.freeGranules .firebox < s.set.fbHighWater) }
    else if s.mayPromote a then s.moveTo a .firebox
    else s

def execTierMove (e : Env) (handle : Nat) (s : State) : Host.Outcome State Fault Refusal :=
  .next ((enter e s).tierMove handle)

/-! ## Scrub (04 R125, 07 R250) -/

/-- What a scrub finds is corrected and counted, or marked poisoned and reported with CAUSE 1. -/
def State.scrub (s : State) (e : Env) : State :=
  if s.portUp then e.errs.foldl (fun s m => s.foundError 1 m) s else s

def execHobScrub (e : Env) (_core _address : Nat) (s : State) : Host.Outcome State Fault Refusal :=
  .next ((advance e.dt s).scrub e)

def execHbmScrub (e : Env) (_partition _va : Nat) (s : State) : Host.Outcome State Fault Refusal :=
  .next ((advance e.dt s).scrub e)

/-! ## Thermal levels (07 R253 to R257, 20 R601) -/

/-- The highest level whose entry threshold a temperature reaches. -/
def levelReached (t : Nat) : Nat := if 105 ≤ t then 4 else if 98 ≤ t then 3 else if 92 ≤ t then 2 else if 85 ≤ t then 1 else 0

/-- The value below which a level is left. -/
def levelLeft : Nat → Nat
  | 0 => 0
  | 1 => 82
  | 2 => 89
  | 3 => 95
  | _ => 102

/-- Every level change raises THERMAL_LEVEL (R256), with an in-band interrupt when enabled (20 R601), and a rise to T2
or worse strikes the contracts that used the stack or its die (02 R49). -/
def State.setLevel (s : State) (k level : Nat) : State :=
  let old := (s.stackAt k).level
  if level = old then s
  else
    let s := s.modStack k fun x => { x with level := level, levelChanges := satAdd 16 x.levelChanges 1 }
    let s := s.raise 0x0201 255 level
      (beBytes 1 k ++ beBytes 1 (k / 8) ++ beBytes 1 (s.stackAt k).tempC ++ beBytes 1 old ++ beBytes 2 (s.dieMhz (k / 8)) ++ zeros 2)
    let s := if s.phys.ibiEnabled then s.emit (.ibi 0x01) else s
    if 2 ≤ level ∧ old < level then s.strike 2 0 fun c => c.contract && (c.hbmSet.contains k || c.dies.contains (k / 8))
    else s

/-- One stack's sample: it keeps the temperature, may rise at once, and marks since when it has been below the value
that leaves its level. -/
def State.sampleStack (s : State) (k t : Nat) : State :=
  let s := s.modStack k fun x => { x with tempC := t }
  let up := levelReached t
  let s := if (s.stackAt k).level < up then s.setLevel k up else s
  s.modStack k fun x => { x with
    below := if x.level ≠ 0 ∧ t < levelLeft x.level then (if x.below.isSome then x.below else some s.clock.steady) else none }

def State.thermalSample (s : State) (temps : List Nat) : State :=
  (List.range (min temps.length (8 * s.dieCount))).foldl (fun s k => s.sampleStack k (temps.getD k 0)) s

/-- The sensors are read while the stacks are powered. -/
def State.stacksPowered (s : State) : Bool := (s.boot.mode = .kindling || s.boot.mode = .ready) && s.boot.pstate ≠ .s3

def execThermalSample (e : Env) (temps : List Nat) (s : State) : Host.Outcome State Fault Refusal :=
  let s := advance e.dt s
  .next (if s.stacksPowered then s.thermalSample temps else s)

/-- THERMAL_LEVEL_FALL: after 10 ms below the value that leaves it, the level falls by one. -/
def State.levelFall (s : State) (k : Nat) : State :=
  let x := s.stackAt k
  if k < 32 ∧ x.level ≠ 0 ∧ (x.below.any fun t => decide (t + 10000000 ≤ s.clock.steady)) then
    let s := s.setLevel k (x.level - 1)
    s.modStack k fun x => { x with
      below := if x.level ≠ 0 ∧ x.tempC < levelLeft x.level then some s.clock.steady else none }
  else s

def execThermalLevelFall (e : Env) (stack : Nat) (s : State) : Host.Outcome State Fault Refusal :=
  .next ((advance e.dt s).levelFall stack)

end Sys2Proof.Machine
end

