-- ==== Sys2Proof/Machine/Numeric.lean ====
section
/-! DEFINITION. Numbers: the eight formats, block scales, rounding, and the arithmetic of tensor data, computed exactly
over the rationals and rounded once (06 R188 to R201, R205). -/

namespace Sys2Proof.Machine

/-! ## Values -/

def FVal.zero : FVal := .fin false 0
def FVal.ofRat (r : Rat) : FVal := if r < 0 then .fin true (-r) else .fin false r
def FVal.ofNat (n : Nat) : FVal := .fin false (n : Rat)

/-- The real number of a finite value; zero for the others. -/
def FVal.rat : FVal → Rat
  | .fin true m => -m
  | .fin false m => m
  | _ => 0

def FVal.isNan : FVal → Bool
  | .nan => true
  | _ => false
def FVal.isInf : FVal → Bool
  | .inf _ => true
  | _ => false
def FVal.isFin : FVal → Bool
  | .fin _ _ => true
  | _ => false
def FVal.isZero : FVal → Bool
  | .fin _ m => decide (m = 0)
  | _ => false
def FVal.mag : FVal → Rat
  | .fin _ m => m
  | _ => 0
def FVal.neg : FVal → FVal
  | .nan => .nan
  | .inf s => .inf !s
  | .fin s m => .fin (!s) m
def FVal.abs : FVal → FVal
  | .nan => .nan
  | .inf _ => .inf false
  | .fin _ m => .fin false m
def FVal.negative : FVal → Bool
  | .nan => false
  | .inf s => s
  | .fin s _ => s

/-! ## Rounding (R205) -/

def pow2 (e : Int) : Rat := if 0 ≤ e then (2 ^ e.toNat : Nat) else 1 / ((2 ^ (-e).toNat : Nat) : Rat)

/-- floor(log2 x) of a positive rational. -/
def log2Floor (x : Rat) : Int :=
  let e : Int := (x.num.toNat.log2 : Int) - (x.den.log2 : Int)
  if pow2 (e + 1) ≤ x then e + 1 else if pow2 e ≤ x then e else e - 1

/-- ceil(log2 x) of a positive rational. -/
def log2Ceil (x : Rat) : Int :=
  let e := log2Floor x
  if x = pow2 e then e else e + 1

/-- The nearest integer of a rational that is not negative, ties to even. -/
def rneNat (x : Rat) : Nat :=
  let n := x.num.toNat / x.den
  let r := x.num.toNat % x.den
  if 2 * r < x.den then n
  else if x.den < 2 * r then n + 1
  else if n % 2 = 0 then n else n + 1

/-- Round a magnitude to `m` mantissa bits with least exponent `emin`, ties to even. -/
def rneMag (m : Nat) (emin : Int) (x : Rat) : Rat :=
  if x = 0 then 0
  else
    let q := pow2 (max (log2Floor x) emin - m)
    (rneNat (x / q) : Rat) * q

/-- Round to a format of `m` mantissa bits whose values lie below 2^128, overflow giving Inf. -/
def rneWide (m : Nat) : FVal → FVal
  | .fin s x =>
    let r := rneMag m (-126) x
    if pow2 128 ≤ r then .inf s else .fin s r
  | v => v

/-- rne_fp32. -/
def rne32 : FVal → FVal := rneWide 23
/-- Round to BF16. -/
def rne16 : FVal → FVal := rneWide 7

/-! ## Exact operations, and their rounded forms -/

/-- Exact sum; an exact zero is negative only when both terms are. -/
def FVal.add : FVal → FVal → FVal
  | .nan, _ | _, .nan => .nan
  | .inf a, .inf b => if a = b then .inf a else .nan
  | .inf a, _ => .inf a
  | _, .inf b => .inf b
  | .fin a x, .fin b y =>
    let r := (if a then -x else x) + (if b then -y else y)
    if r = 0 then .fin (a && b) 0 else .ofRat r

def FVal.sub (x y : FVal) : FVal := x.add y.neg

def FVal.mul : FVal → FVal → FVal
  | .nan, _ | _, .nan => .nan
  | .inf a, .inf b => .inf (a != b)
  | .inf a, .fin b y => if y = 0 then .nan else .inf (a != b)
  | .fin a x, .inf b => if x = 0 then .nan else .inf (a != b)
  | .fin a x, .fin b y => .fin (a != b) (x * y)

def FVal.div : FVal → FVal → FVal
  | .nan, _ | _, .nan => .nan
  | .inf _, .inf _ => .nan
  | .inf a, .fin b _ => .inf (a != b)
  | .fin a _, .inf b => .fin (a != b) 0
  | .fin a x, .fin b y => if y = 0 then (if x = 0 then .nan else .inf (a != b)) else .fin (a != b) (x / y)

def add32 (x y : FVal) : FVal := rne32 (x.add y)
def sub32 (x y : FVal) : FVal := rne32 (x.sub y)
def mul32 (x y : FVal) : FVal := rne32 (x.mul y)
def div32 (x y : FVal) : FVal := rne32 (x.div y)

/-- x < y; false when either is NaN. -/
def FVal.lt : FVal → FVal → Bool
  | .nan, _ | _, .nan => false
  | .inf a, .inf b => a && !b
  | .inf a, _ => a
  | _, .inf b => !b
  | x, y => decide (x.rat < y.rat)

/-- x = y as numbers, the zeros equal; false when either is NaN. -/
def FVal.eq : FVal → FVal → Bool
  | .nan, _ | _, .nan => false
  | .inf a, .inf b => a == b
  | .fin a x, .fin b y => decide (x = y) && (decide (x = 0) || a == b)
  | _, _ => false

/-- The larger, NaN when either is NaN. -/
def FVal.max (x y : FVal) : FVal := if x.isNan || y.isNan then .nan else if x.lt y then y else x
def FVal.min (x y : FVal) : FVal := if x.isNan || y.isNan then .nan else if y.lt x then y else x

/-- Largest integer whose square does not pass `n`, one bit at a time from bit `b` down. -/
def isqrtFrom (n : Nat) : Nat → Nat → Nat
  | 0, r => if (r + 1) * (r + 1) ≤ n then r + 1 else r
  | b + 1, r =>
    let t := r + 2 ^ (b + 1)
    isqrtFrom n b (if t * t ≤ n then t else r)
def isqrt (n : Nat) : Nat := if n = 0 then 0 else isqrtFrom n (n.log2 / 2 + 1) 0

/-- The square root of a positive rational, exact to far more bits than FP32 holds, with a sticky bit below. -/
def sqrtSticky (x : Rat) : Rat :=
  if x = 0 then 0
  else
    let k := (40 - log2Floor x / 2).toNat
    let y := x * pow2 (2 * k)
    let n := isqrt (y.num.toNat / y.den)
    if ((n * n : Nat) : Rat) = y then (n : Rat) / pow2 k else ((2 * n + 1 : Nat) : Rat) / pow2 (k + 1)

/-- The FP32 square root; NaN below zero, a zero keeps its sign. -/
def sqrt32 : FVal → FVal
  | .nan => .nan
  | .inf false => .inf false
  | .inf true => .nan
  | .fin s x => if x = 0 then .fin s 0 else if s then .nan else rne32 (.fin false (sqrtSticky x))

/-! ## Formats (R188 to R190) -/

inductive Fmt where
  | fp32
  | bf16
  | e4m3
  | e5m2
  | fp6
  | fp4
  | int8
  | int4
  deriving DecidableEq, Repr

/-- FORMAT codes; the reserved ones name none. -/
def fmtOf : Nat → Option Fmt
  | 0 => some .fp32
  | 1 => some .bf16
  | 2 => some .e4m3
  | 3 => some .e5m2
  | 4 => some .fp6
  | 5 => some .fp4
  | 6 => some .int8
  | 7 => some .int4
  | _ => none

def Fmt.bits : Fmt → Nat
  | .fp32 => 32
  | .bf16 => 16
  | .e4m3 | .e5m2 | .int8 => 8
  | .fp6 => 6
  | .fp4 | .int4 => 4

def Fmt.isInt : Fmt → Bool
  | .int8 | .int4 => true
  | _ => false

/-- FP32 and BF16, which take no block scales (R164). -/
def Fmt.wide : Fmt → Bool
  | .fp32 | .bf16 => true
  | _ => false

/-- Elements of a scale block, and its bytes (R164). -/
def Fmt.block : Fmt → Nat
  | .fp4 | .int4 | .fp6 => 16
  | _ => 32
def Fmt.blockBytes : Fmt → Nat
  | .fp4 | .int4 => 8
  | .fp6 => 12
  | _ => 32

/-- Exponent bits, mantissa bits and bias of a floating-point format. -/
def Fmt.shape : Fmt → Nat × Nat × Nat
  | .fp32 => (8, 23, 127)
  | .bf16 => (8, 7, 127)
  | .e4m3 => (4, 3, 7)
  | .e5m2 => (5, 2, 15)
  | .fp6 => (3, 2, 3)
  | .fp4 => (2, 1, 1)
  | _ => (0, 0, 0)

/-- Largest finite value of the narrow formats, symmetric for the integers (R189, R190). -/
def Fmt.fmax : Fmt → Rat
  | .e4m3 => 448
  | .e5m2 => 57344
  | .fp6 => 28
  | .fp4 => 6
  | .int8 => 127
  | .int4 => 7
  | .fp32 => pow2 128 - pow2 104
  | .bf16 => pow2 128 - pow2 120

/-- Two's complement of `w` bits. -/
def toSigned (w n : Nat) : Int := if n < 2 ^ (w - 1) then n else (n : Int) - 2 ^ w

/-- The value that a code stands for (R189, R190): a negative zero reads as zero. -/
def Fmt.decode (f : Fmt) (n : Nat) : FVal :=
  match f with
  | .int8 => .ofRat (toSigned 8 (n % 256))
  | .int4 => .ofRat (toSigned 4 (n % 16))
  | _ =>
    let (eb, mb, bias) := f.shape
    let neg := n.testBit (eb + mb)
    let e := n / 2 ^ mb % 2 ^ eb
    let m := n % 2 ^ mb
    let top := decide (e = 2 ^ eb - 1)
    if (f = .fp32 ∨ f = .bf16 ∨ f = .e5m2) ∧ top then (if m = 0 then .inf neg else .nan)
    else if f = .e4m3 ∧ top ∧ m = 7 then .nan
    else if e = 0 then .fin (neg && decide (m ≠ 0)) ((m : Rat) / ((2 ^ mb : Nat) : Rat) * pow2 (1 - bias))
    else .fin neg ((1 + (m : Rat) / ((2 ^ mb : Nat) : Rat)) * pow2 ((e : Int) - bias))

/-- The code of a sign and a magnitude that the format holds exactly. -/
def Fmt.pack (f : Fmt) (neg : Bool) (mag : Rat) : Nat :=
  match f with
  | .int8 => let n := (rneNat mag); if neg && n ≠ 0 then 256 - n else n
  | .int4 => let n := (rneNat mag); if neg && n ≠ 0 then 16 - n else n
  | _ =>
    let (eb, mb, bias) := f.shape
    let sign := if neg then 2 ^ (eb + mb) else 0
    if mag = 0 then sign
    else
      let e := log2Floor mag
      if e < 1 - (bias : Int) then sign + rneNat (mag / pow2 (1 - (bias : Int) - mb))
      else sign + (e + bias).toNat * 2 ^ mb + rneNat ((mag / pow2 e - 1) * pow2 mb)

/-- The canonical NaN written, where the format has one (R189). -/
def Fmt.nan : Fmt → Nat
  | .fp32 => 0x7FC00000
  | .bf16 => 0x7FC0
  | .e4m3 | .e5m2 => 0x7F
  | _ => 0

def Fmt.infCode : Fmt → Bool → Nat
  | .fp32, s => if s then 0xFF800000 else 0x7F800000
  | .bf16, s => if s then 0xFF80 else 0x7F80
  | .e5m2, s => if s then 0xFC else 0x7C
  | f, s => f.pack s f.fmax

/-- A code written, with what it counts: a saturated element, an element written as Inf, a NaN dropped. -/
structure Written where
  code : Nat
  sat : Bool
  inf : Bool
  dropped : Bool
  deriving DecidableEq, Repr

/-- to_fmt of R198 and R201. -/
def Fmt.write (f : Fmt) (v : FVal) : Written :=
  match v with
  | .nan => { code := f.nan, sat := false, inf := false, dropped := f = .fp6 || f = .fp4 || f.isInt }
  | .inf s =>
    if f.wide || f = .e5m2 then { code := f.infCode s, sat := false, inf := true, dropped := false }
    else { code := f.pack s f.fmax, sat := true, inf := false, dropped := false }
  | .fin s m =>
    if f.wide then
      let r := rneMag (f.shape.2.1) (-126) m
      if pow2 128 ≤ r then { code := f.infCode s, sat := false, inf := true, dropped := false }
      else { code := f.pack s r, sat := false, inf := false, dropped := false }
    else if f.fmax < m then { code := f.pack s f.fmax, sat := true, inf := false, dropped := false }
    else if f.isInt then { code := f.pack s (rneNat m : Rat), sat := false, inf := false, dropped := false }
    else { code := f.pack s (rneMag f.shape.2.1 (1 - (f.shape.2.2 : Int)) m), sat := false, inf := false, dropped := false }

def dec32 (n : Nat) : FVal := Fmt.fp32.decode n
def dec16 (n : Nat) : FVal := Fmt.bf16.decode n
/-- The FP32 word of a value. -/
def enc32 (v : FVal) : Nat := (Fmt.fp32.write v).code
def enc16 (v : FVal) : Nat := (Fmt.bf16.write v).code

/-- R193: positive, normal, finite FP32. -/
def scaleWordOk (n : Nat) : Bool := decide (0x00800000 ≤ n) && decide (n < 0x7F800000)

/-! ## Block scales (R194 to R196) -/

/-- SCALE_MODE. -/
inductive ScaleMode where
  | none
  | ue4m3
  | e8m0
  deriving DecidableEq, Repr

/-- A block scale as read. -/
inductive ScaleVal where
  | zero
  | nan
  | val (r : Rat)
  deriving DecidableEq, Repr

def ScaleMode.decode : ScaleMode → Nat → ScaleVal
  | .none, _ => .val 1
  | .ue4m3, n =>
    if n = 0 then .zero
    else if 0x7F ≤ n then .nan
    else if n < 8 then .val ((n : Rat) * pow2 (-9))
    else .val ((1 + ((n % 8 : Nat) : Rat) / 8) * pow2 (((n / 8 : Nat) : Int) - 7))
  | .e8m0, n => if n = 0 then .zero else if n = 255 then .nan else .val (pow2 ((n : Int) - 127))

def ScaleVal.rat : ScaleVal → Rat
  | .val r => r
  | _ => 0

def ScaleMode.top : ScaleMode → Nat
  | .none => 0
  | .ue4m3 => 0x7E
  | .e8m0 => 0xFE

def ScaleMode.nanCode : ScaleMode → Nat
  | .none => 0
  | .ue4m3 => 0x7F
  | .e8m0 => 0xFF

/-- The least scale code at or above `need`, or the largest code (R197). -/
def ScaleMode.choose (m : ScaleMode) (need : Rat) : Nat :=
  (((List.range m.top).map (· + 1)).find? fun c => decide (need ≤ (m.decode c).rat)).getD m.top

/-! ## Writing a block (R197 to R200) -/

/-- What a tensor status word counts (R202). -/
structure Tally where
  saturated : Nat
  nanBlocks : Nat
  zeroBlocks : Nat
  infWritten : Nat
  nanDropped : Nat
  deriving DecidableEq, Repr

def Tally.none : Tally := { saturated := 0, nanBlocks := 0, zeroBlocks := 0, infWritten := 0, nanDropped := 0 }
def Tally.add (a b : Tally) : Tally :=
  { saturated := a.saturated + b.saturated, nanBlocks := a.nanBlocks + b.nanBlocks,
    zeroBlocks := a.zeroBlocks + b.zeroBlocks, infWritten := a.infWritten + b.infWritten,
    nanDropped := a.nanDropped + b.nanDropped }

/-- A block as written: its scale byte, its codes (none when the data bytes stay unstored), and what it counts. -/
structure BlockOut where
  scale : Nat
  codes : Option (List Nat)
  tally : Tally
  deriving DecidableEq, Repr

/-- zero_block of R199. -/
def zeroBlock (mode : ScaleMode) (n : Nat) : BlockOut :=
  { scale := 0, codes := if mode = .e8m0 then some (List.replicate n 0) else none,
    tally := { Tally.none with zeroBlocks := 1 } }

/-- v ÷ d, exact, for a positive divisor. -/
def FVal.over (v : FVal) (d : Rat) : FVal :=
  match v with
  | .fin s m => .fin s (m / d)
  | v => v

/-- write_block of R197 over the valid elements of a block or pair. -/
def writeBlock (vs : List FVal) (t : Rat) (f : Fmt) (mode : ScaleMode) : BlockOut :=
  if vs.any FVal.isNan then
    { scale := mode.nanCode, codes := some (List.replicate vs.length 0), tally := { Tally.none with nanBlocks := 1 } }
  else
    let inf := vs.any FVal.isInf
    let big := (vs.map FVal.mag).foldl max 0
    let need := big / (t * f.fmax)
    if need = 0 ∧ !inf then zeroBlock mode vs.length
    else
      let code := if inf && f ≠ .e5m2 then mode.top else mode.choose need
      let s := (mode.decode code).rat
      let out := vs.map fun v => f.write (v.over (s * t))
      if out.all fun w => (f.decode w.code).isZero then zeroBlock mode vs.length
      else
        { scale := code, codes := some (out.map (·.code)),
          tally := { Tally.none with
            saturated := if decide (s * t * f.fmax < big) || (inf && f ≠ .e5m2) then 1 else 0
            infWritten := (out.filter (·.inf)).length } }

/-- One element written without a block scale (R201). -/
def writePlain (v : FVal) (t : Rat) (f : Fmt) : Nat × Tally :=
  let w := f.write (v.over t)
  (w.code, { Tally.none with saturated := b2n w.sat, infWritten := b2n w.inf, nanDropped := b2n w.dropped })

/-! ## Reading (R196, R208) -/

/-- An element as the Flame unit reads it: its code, the block scale and TENSOR_SCALE (R208). -/
def readElem (f : Fmt) (mode : ScaleMode) (scaleByte code : Nat) (t : FVal) : FVal :=
  match mode.decode scaleByte with
  | .zero => .zero
  | .nan => .nan
  | .val s =>
    if mode = .none ∧ f.wide then (if t = .fin false 1 then f.decode code else mul32 (f.decode code) t)
    else mul32 (f.decode code) (mul32 (.fin false s) t)

/-- An element as the tensor array reads it, before block scales: zero in a zero block, NaN under a NaN scale (R196,
R206). -/
def readCode (f : Fmt) (mode : ScaleMode) (scaleByte code : Nat) : FVal :=
  match mode.decode scaleByte with
  | .zero => .zero
  | .nan => .nan
  | .val _ => f.decode code

end Sys2Proof.Machine
end

