-- ==== Sys2Proof/Machine/Watch.lean ====
section
/-! DEFINITION. The numeric watch: WATCH_SET, what the Draught gauge keeps, the test at the end of a launch and the
response to it (12 R382 to R392, R401 to R409). -/

namespace Sys2Proof.Machine

/-! ## WATCH_SET (R382 to R385) -/

def opWatchSet : Op := { code := 0x0700, scope := .partition, notify := false, deadline := false, minLen := 8 }

def Watch.initial (q : Nat) : Watch := { partition := q, policy := Policy.initial, entries := [], committed := 0 }
def State.watchOf (s : State) (q : Nat) : Watch := (s.watch.parts.find? (·.partition = q)).getD (Watch.initial q)
def State.setWatch (s : State) (w : Watch) : State :=
  { s with watch.parts := s.watch.parts.filter (·.partition ≠ w.partition) ++ [w] }
def State.modEntries (s : State) (q : Nat) (f : WatchEntry → WatchEntry) : State :=
  let w := s.watchOf q
  s.setWatch { w with entries := w.entries.map f }

/-- The partition's journal, from its STEP_BEGIN to its last stamp. -/
def State.journal? (s : State) (q : Nat) : Option Journal := s.watch.journals.find? (·.partition = q)
def State.journalOf (s : State) (h : Nat) : Option Journal := s.watch.journals.find? (·.handle = h)
def State.modJournal (s : State) (h : Nat) (f : Journal → Journal) : State :=
  { s with watch.journals := mapIf (·.handle = h) f s.watch.journals }

/-- What refuses every WATCH_SET: an open journal, an unknown WATCH_OP. -/
def watchCommon (c : Ctx) (s : State) : Option Bad :=
  firstBad [badIf (s.journal? c.part).isSome 15, badIf (decide (3 ≤ c.be 0 1)) 7]

def policyAt (b : List Byte) : Policy :=
  { replayLimit := beAt b 0 1, alphaShift := beAt b 1 1, warmup := beAt b 2 2, jumpThreshold := beAt b 4 4,
    witnessPeriod := beAt b 8 2, witnessCount := beAt b 10 2, witnessBound := beAt b 12 4,
    silenceThreshold := beAt b 16 2, holdSteps := beAt b 18 1, budgetBytes := beAt b 24 8, budgetCycles := beAt b 32 8 }

/-- The ranges of R383. -/
def Policy.ok (p : Policy) : Bool :=
  decide (1 ≤ p.replayLimit ∧ p.replayLimit ≤ 4) && decide (1 ≤ p.alphaShift ∧ p.alphaShift ≤ 8)
    && decide (0x3F800000 < p.jumpThreshold ∧ p.jumpThreshold < 0x7F800000)
    && [0, 16, 32, 64, 128, 256, 512, 1024, 2048, 4096].contains p.witnessPeriod
    && decide (0 < p.witnessBound ∧ p.witnessBound < 0x7F800000) && decide (1 ≤ p.holdSteps)

def policyCheck (c : Ctx) (s : State) : Option Bad :=
  firstBad [badIf (decide (c.params.length < 56)) 2, watchCommon c s,
            badIf (c.be 2 2 ≠ 0 || c.be 4 2 ≠ 0 || !(policyAt (c.params.drop 8)).ok) 7, s.unitBad 6]

def execSetPolicy (p : Packet) (s : State) : Host.Outcome State Fault Refusal :=
  .next (replyOp opWatchSet policyCheck never nothing
    (fun c s => (s.setWatch { s.watchOf c.part with policy := policyAt (c.params.drop 8) }, [])) p s)

/-- An entry as WATCH_SET gives it (R384), seen by launches that start after `op`. -/
def entryAt (b : List Byte) (index op : Nat) : WatchEntry :=
  let f := beAt b 3 1
  { index := index, layerId := beAt b 0 2, gradient := decide (beAt b 2 1 = 1), valid := f.testBit 0, jump := f.testBit 1,
    witness := f.testBit 2, fallbackOk := f.testBit 3, handle := beAt b 8 8, offset := beAt b 16 8,
    length := beAt b 24 8, templateHandle := beAt b 32 8, templateOffset := beAt b 40 8, wideBytes := beAt b 48 8,
    wideCycles := beAt b 56 8, norm := 0, silence := 0, holdLeft := 0, wide := false, flagged := false,
    stepKey := (0, 0), stepRescaled := false, stepWitnessed := false, stepFlagged := false, stepWidened := false,
    tapKey := (0, 0, 0), taps := Taps.none, lastRun := 0, disagreements := 0, worstRel := .fin false 0, worstCore := 0,
    since := op, retired := none }

/-- The entries of a SET_ENTRIES with their parameter bytes. -/
def newEntries (c : Ctx) (op : Nat) : List (WatchEntry × List Byte) :=
  (List.range (c.be 4 2)).map fun i =>
    let b := slice c.params (8 + 64 * i) 64
    (entryAt b (c.be 2 2 + i) op, b)

/-- Entries in force: not superseded. -/
def Watch.current (w : Watch) : List WatchEntry := w.entries.filter (·.retired.isNone)

def WatchEntry.overlaps (a b : WatchEntry) : Bool :=
  a.handle = b.handle && decide (a.offset < b.offset + b.length) && decide (b.offset < a.offset + a.length)

/-- Two of a list of entries overlap. -/
def entriesClash : List WatchEntry → Bool
  | [] => false
  | a :: as => as.any a.overlaps || entriesClash as

def entriesCheck (c : Ctx) (s : State) : Option Bad :=
  let n := c.be 4 2
  let new := (newEntries c 0).map Prod.fst
  let valid := new.filter (·.valid)
  let kept := (s.watchOf c.part).current.filter fun e => e.valid && !(new.any (·.index = e.index))
  let room := fun h off len => (s.alloc? c.part h).any fun a => decide (off + len ≤ a.bytes)
  firstBad [
    badIf (decide (c.params.length < 8 + 64 * n)) 2,
    watchCommon c s,
    badIf (valid.any fun e => (s.alloc? c.part e.handle).isNone
      || (e.templateHandle ≠ 0 && (s.alloc? c.part e.templateHandle).isNone)) 5,
    badIf (valid.any fun e => !room e.handle e.offset e.length
      || (e.templateHandle ≠ 0 && !room e.templateHandle e.templateOffset 192)) 6,
    badIf (n = 0 || decide (127 < n) || decide (256 < c.be 2 2 + n)
      || ((newEntries c 0).any fun e => decide (2 ≤ beAt e.2 2 1))
      || (valid.any fun e => e.length = 0 || e.templateOffset % 64 ≠ 0 || (e.fallbackOk && e.templateHandle = 0))
      || entriesClash (valid ++ kept)) 7,
    s.unitBad 6,
    if valid.any (·.witness) then s.unitBad 7 else none ]

/-- Entries that `gone` names stay for the launches that have started, and new ones join (R385). -/
def Watch.replaceEntries (w : Watch) (op : Nat) (gone : WatchEntry → Bool) (new : List WatchEntry) : Watch :=
  { w with entries := (mapIf (fun e => e.retired.isNone && gone e) (fun e => { e with retired := some op }) w.entries) ++ new }

def entriesEffect (c : Ctx) (s : State) : State × List Byte :=
  let op := s.mem.nextOp
  let new := (newEntries c op).map Prod.fst
  let s := s.setWatch ((s.watchOf c.part).replaceEntries op (fun e => new.any (·.index = e.index)) (new.filter (·.valid)))
  ({ s with mem.nextOp := op + 1 }, [])

def execSetEntries (p : Packet) (s : State) : Host.Outcome State Fault Refusal :=
  .next (replyOp opWatchSet entriesCheck never nothing entriesEffect p s)

def clearEffect (c : Ctx) (s : State) : State × List Byte :=
  let op := s.mem.nextOp
  let w := (s.watchOf c.part).replaceEntries op (fun _ => true) []
  ({ s.setWatch { w with policy := Policy.initial } with mem.nextOp := op + 1 }, [])

def execClearAll (p : Packet) (s : State) : Host.Outcome State Fault Refusal :=
  .next (replyOp opWatchSet (fun c s => firstBad [watchCommon c s, s.unitBad 6]) never nothing clearEffect p s)

/-! ## Whose attempt it is -/

def State.run? (s : State) (id : Nat) : Option Run := s.seqs.runs.find? (·.id = id)
def State.modRun (s : State) (id : Nat) (f : Run → Run) : State :=
  { s with seqs.runs := mapIf (·.id = id) f s.seqs.runs }
def State.step? (s : State) (id : Nat) : Option SeqStep := s.seqs.steps.find? (·.id = id)
def State.batch? (s : State) (id : Nat) : Option Batch := s.seqs.batches.find? (·.id = id)

/-- The commands a run works for. -/
def State.runCmds (s : State) (r : Run) : List Nat :=
  match r.kind with
  | .launch c => [c]
  | .pass st => ((s.step? st).map (·.cmd)).toList
  | .batch b => match s.batch? b with
    | some k => k.members.filterMap fun m => (s.step? m).map (·.cmd)
    | none => []

/-- The journal a run belongs to, or 0. -/
def State.runJournal (s : State) (r : Run) : Nat :=
  (((s.runCmds r).head?.bind s.cmd?).map (·.journal)).getD 0

/-- The step a run belongs to (R393), and its attempt. -/
def State.stepKey (s : State) (r : Run) : Nat × Nat :=
  let j := s.runJournal r
  if j = 0 then (0, r.id) else (1, j)
def State.attemptOf (s : State) (r : Run) : Nat :=
  let j := s.runJournal r
  if j = 0 then r.attempt else ((s.journalOf j).map (·.attempt)).getD 0
def State.tapKey (s : State) (r : Run) : Nat × Nat × Nat := ((s.stepKey r).1, (s.stepKey r).2, s.attemptOf r)

/-- The entry is one that a launch sees which started at operation number `op` (R385). -/
def WatchEntry.seenAt (e : WatchEntry) (op : Nat) : Bool :=
  e.valid && decide (e.since ≤ op) && (e.retired.all fun r => decide (op < r))

/-- The base address of the allocation an entry watches. -/
def State.entryVa (s : State) (q : Nat) (e : WatchEntry) : Option Nat :=
  (s.alloc? q e.handle).map fun a => a.base + e.offset

/-! ## The Draught gauge (R387) -/

/-- A result as the gauge sees it: the address of its written bytes, the FP32 value, and whether it is written in a
zero block. -/
structure Tap where
  va : Nat
  v : FVal
  zeroBlock : Bool
  deriving DecidableEq, Repr

def Taps.see (t : Taps) (k : Tap) : Taps :=
  { count := t.count + 1, sumSq := t.sumSq + k.v.mag * k.v.mag,
    amax := if k.v.isFin then max t.amax (enc32 k.v.abs) else t.amax, finite := t.finite || k.v.isFin,
    nonfinite := t.nonfinite || !k.v.isFin, allZero := t.allZero && k.v.isZero, zeroBlocks := t.zeroBlocks && k.zeroBlock }

/-- Start an entry's taps afresh when the attempt is another. -/
def WatchEntry.forAttempt (e : WatchEntry) (key : Nat × Nat × Nat) : WatchEntry :=
  if e.tapKey = key then e
  else { e with tapKey := key, taps := Taps.none, disagreements := 0, worstRel := .fin false 0, worstCore := 0 }

/-- The gauge taps results of a run that go to module memory. -/
def State.tap (s : State) (r : Run) (ks : List Tap) : State :=
  if ks.isEmpty then s
  else
    let key := s.tapKey r
    s.modEntries r.partition fun e =>
      if e.seenAt r.startOp then
        match s.entryVa r.partition e with
        | some va =>
          let mine := ks.filter fun k => decide (va ≤ k.va) && decide (k.va < va + e.length)
          if mine.isEmpty then e
          else
            let e := e.forAttempt key
            { e with taps := mine.foldl Taps.see e.taps, lastRun := r.id }
        | none => e
      else e

/-- The entry with WITNESS set whose range holds an output's BASE (R389). -/
def State.witnessEntry (s : State) (r : Run) (base : Nat) : Option WatchEntry :=
  (s.watchOf r.partition).entries.find? fun e => e.seenAt r.startOp && e.witness
    && (s.entryVa r.partition e).any fun va => decide (va ≤ base) && decide (base < va + e.length)

/-- A witness tile of an entry has been recomputed on a core (R390, R391, R409). -/
def State.witness (s : State) (r : Run) (entry core : Nat) (rel : FVal) : State :=
  let w := s.watchOf r.partition
  let key := s.tapKey r
  let fails := rel.isNan || (dec32 w.policy.witnessBound).lt rel
  let s := { s with watch := { s.watch with
    witnessTiles := satAdd 32 s.watch.witnessTiles 1
    witnessFails := satAdd 32 s.watch.witnessFails (b2n fails) } }
  s.modEntries r.partition fun e =>
    if e.index = entry ∧ e.seenAt r.startOp then
      let e := e.forAttempt key
      let worse := e.worstRel.lt rel || rel.isNan
      { e with disagreements := e.disagreements + b2n fails, worstRel := if worse then rel else e.worstRel,
               worstCore := if worse then core else e.worstCore, lastRun := r.id }
    else e

/-! ## The test (R388, R391) -/

/-- n = sqrt(sum of v² ÷ count), in FP32. -/
def Taps.norm (t : Taps) : FVal := if t.count = 0 then .zero else sqrt32 (.fin false (t.sumSq / (t.count : Rat)))

inductive NumKind where
  | jump
  | nonfinite
  | witness
  deriving DecidableEq, Repr

structure NumEvent where
  entry : Nat
  kind : NumKind
  severity : FVal
  deriving DecidableEq, Repr

/-- What the test finds in one entry. -/
def entryEvents (w : Watch) (e : WatchEntry) : List NumEvent :=
  let n := e.taps.norm
  let r := dec32 e.norm
  let draught :=
    if e.taps.nonfinite then [{ entry := e.index, kind := .nonfinite, severity := .inf false : NumEvent }]
    else if e.jump && decide (w.policy.warmup < w.committed) && !r.isZero && decide (0 < e.taps.count)
        && decide ((dec32 w.policy.jumpThreshold).rat * r.rat < n.rat) then
      [{ entry := e.index, kind := .jump, severity := .fin false (n.rat / r.rat) }]
    else []
  draught ++ (if w.policy.witnessCount < e.disagreements then
    [{ entry := e.index, kind := .witness, severity := if e.worstRel.isNan then .inf false else e.worstRel }] else [])

/-- The events of a launch's end, by severity descending, then by entry. -/
def State.launchEvents (s : State) (r : Run) : List NumEvent :=
  let w := s.watchOf r.partition
  let key := s.tapKey r
  let mine := w.entries.filter fun e => e.seenAt r.startOp && e.lastRun = r.id && e.tapKey = key
  sortBy (fun a b => b.severity.lt a.severity || (a.severity = b.severity && decide (a.entry < b.entry)))
    ((mine.map (entryEvents w)).flatten)

/-! ## The response (R401 to R403) -/

/-- The address of an entry's template `k`: 0 ACTIVE, 1 NARROW, 2 WIDE (R386). -/
def State.templateVa (s : State) (q : Nat) (e : WatchEntry) (k : Nat) : Option Nat :=
  if e.templateHandle = 0 then none
  else (s.alloc? q e.templateHandle).map fun a => a.base + e.templateOffset + 64 * k

/-- Write ACTIVE from NARROW, or from WIDE while the entry is widened, at the home slices (R386). -/
def State.prepareEntry (s : State) (q : Nat) (e : WatchEntry) : State :=
  match s.templateVa q e 0, s.templateVa q e (if e.wide then 2 else 1) with
  | some active, some source => s.writeHome q active (s.readMem View.home q source 64)
  | _, _ => s

def State.prepareTemplates (s : State) (q : Nat) : State :=
  ((s.watchOf q).current.filter (·.valid)).foldl (fun s e => s.prepareEntry q e) s

/-- The TENSOR_SCALE that rescale gives (R402), when the template lets it act. -/
def rescaled (template : List Byte) (t : Taps) : Option Nat :=
  match fmtOf (leAt template 1 1 % 16), leAt template 1 1 / 16 % 4 with
  | some f, mode =>
    if f.wide || 2 ≤ mode || !t.finite then none
    else
      let x := (dec32 t.amax).mag / (f.fmax * (if mode = 1 then 448 else 1))
      let e : Int := if x = 0 then -126 else max (-126) (min 127 (log2Ceil x))
      some (enc32 (.fin false (pow2 e)))
  | none, _ => none

/-- rescale(L): the new scale goes to ACTIVE and to the template it was copied from. -/
def State.rescale (s : State) (q : Nat) (e : WatchEntry) : State :=
  match s.templateVa q e 0, s.templateVa q e (if e.wide then 2 else 1) with
  | some active, some source =>
    match rescaled (s.readMem View.home q active 64) e.taps with
    | some w => (s.writeHome q (active + 52) (leBytes 4 w)).writeHome q (source + 52) (leBytes 4 w)
    | none => s
  | _, _ => s

/-- TENSOR_SCALE as ACTIVE now holds it, for the event's NEW_SCALE. -/
def State.activeScale (s : State) (q : Nat) (e : WatchEntry) : Nat :=
  match s.templateVa q e 0 with
  | some va => leNat (s.readMem View.home q (va + 52) 4)
  | none => 0

/-- fits(L) of R403. -/
def Watch.fits (w : Watch) (e : WatchEntry) : Bool :=
  let wide := w.current.filter (·.wide)
  decide (e.wideBytes + sumOf (·.wideBytes) wide ≤ w.policy.budgetBytes)
    && decide (e.wideCycles + sumOf (·.wideCycles) wide ≤ w.policy.budgetCycles)

/-- What the response has come to: the state, the status the step fails with (0 for none), whether widening is closed,
and how many entries were widened and flagged. -/
structure Response where
  s : State
  fails : Nat
  closed : Bool
  widened : Nat
  flagged : Nat
  deriving DecidableEq, Repr

def orElse (a b : Nat) : Nat := if a = 0 then b else a

/-- An entry's step state, cleared when another step begins (R401). -/
def WatchEntry.forStep (e : WatchEntry) (key : Nat × Nat) : WatchEntry :=
  if e.stepKey = key then e
  else { e with stepKey := key, stepRescaled := false, stepWitnessed := false, stepFlagged := false, stepWidened := false }

/-- The action taken on one event, and its notification (R401, R407). -/
def Response.act (run : Run) (cmdSeq : Nat) (a : Response) (ev : NumEvent) : Response :=
  let q := run.partition
  let s := a.s
  match (s.watchOf q).entries.find? fun e => e.index = ev.entry && e.seenAt run.startOp with
  | none => a
  | some e =>
    let e := e.forStep (s.stepKey run)
    let put := fun (s : State) (x : WatchEntry) =>
      s.modEntries q fun y => if y.index = x.index ∧ y.since = x.since then x else y
    let attempt := s.attemptOf run
    if ev.kind = .witness then
      let fails := if e.stepWitnessed then orElse a.fails 0x0304 else a.fails
      let s := put s { e with stepWitnessed := true }
      let s := s.raise 0x0602 q 0 (beBytes 2 e.layerId ++ beBytes 1 e.index ++ beBytes 1 attempt ++ beBytes 1 4 ++ zeros 1
        ++ beBytes 2 e.worstCore ++ beBytes 4 (enc32 (rne32 e.worstRel)) ++ beBytes 4 cmdSeq)
      { a with s := s, fails := fails }
    else
      let w := s.watchOf q
      let (s, e, fails, closed, action) :=
        if !e.stepRescaled then (s.rescale q e, { e with stepRescaled := true }, a.fails, a.closed, 0)
        else if e.stepFlagged then (s, e, orElse a.fails 0x0305, a.closed, 3)
        else if e.wide || !e.fallbackOk then (s, e, orElse a.fails 0x0304, a.closed, 3)
        else if a.closed || !w.fits e then (s, { e with stepFlagged := true }, a.fails, true, 2)
        else (s, { e with wide := true, holdLeft := w.policy.holdSteps, stepWidened := true }, a.fails, a.closed, 1)
      let norm := if ev.kind = .nonfinite then Config.freeNat s.fresh % 2 ^ 32 else enc32 e.taps.norm
      let s := put { s with fresh := s.fresh + 1 } e
      let s := s.raise 0x0601 q (if ev.kind = .nonfinite then 1 else 0)
        (beBytes 2 e.layerId ++ beBytes 1 e.index ++ beBytes 1 attempt ++ beBytes 1 action ++ beBytes 1 (b2n e.gradient)
          ++ zeros 2 ++ beBytes 4 norm ++ beBytes 4 e.norm ++ beBytes 4 e.taps.amax ++ beBytes 4 (s.activeScale q e)
          ++ beBytes 4 cmdSeq ++ zeros 4)
      { s := s, fails := fails, closed := closed, widened := a.widened + b2n (decide (action = 1)),
        flagged := a.flagged + b2n (decide (action = 2)) }

/-- respond of R401, up to the decision between failing and replaying. -/
def State.respond (s : State) (run : Run) (cmdSeq : Nat) (closed : Bool) (evs : List NumEvent) : Response :=
  let a := evs.foldl (Response.act run cmdSeq) { s := s, fails := 0, closed := closed, widened := 0, flagged := 0 }
  { a with s := { a.s with watch := { a.s.watch with widened := satAdd 32 a.s.watch.widened a.widened } } }

/-! ## The end of a step (R388, R401, R403, R406) -/

/-- The running norm after a step without an event. -/
def nextNorm (p : Policy) (r : Nat) (n : FVal) : Nat :=
  if (dec32 r).isZero then enc32 n
  else enc32 (rne32 (.ofRat ((dec32 r).rat + (n.rat - (dec32 r).rat) * pow2 (-(p.alphaShift : Int)))))

/-- What a step that ends DONE leaves in one entry. -/
def WatchEntry.afterDone (p : Policy) (key : Nat × Nat) (tapKey : Nat × Nat × Nat) (e : WatchEntry) : WatchEntry :=
  let wrote := decide (e.tapKey = tapKey) && decide (0 < e.taps.count)
  let mine := decide (e.stepKey = key)
  let e := if wrote then { e with norm := nextNorm p e.norm e.taps.norm } else e
  let e := if wrote && e.gradient then
    { e with silence := if e.taps.allZero || e.taps.zeroBlocks then min 65535 (e.silence + 1) else 0 } else e
  let e := if e.wide && !(mine && e.stepWidened) then
    { e with holdLeft := e.holdLeft - 1, wide := decide (e.holdLeft - 1 ≠ 0) } else e
  { e with flagged := mine && e.stepFlagged }

/-- GRAD_SILENT for every entry whose counter has just risen to the threshold (R406). -/
def State.silenceEvents (s old : State) (q : Nat) : State :=
  let t := (s.watchOf q).policy.silenceThreshold
  (s.watchOf q).current.foldl (fun s e =>
    let before := (((old.watchOf q).current.find? (·.index = e.index)).map (·.silence)).getD 0
    if t ≠ 0 && e.silence = t && decide (before < t) then
      s.raise 0x0603 q 0 (beBytes 2 e.layerId ++ beBytes 1 e.index ++ zeros 1 ++ beBytes 2 e.silence ++ zeros 2)
    else s) s

/-- A step of partition `q` has ended: DONE, or with a failure. -/
def State.stepEnded (s : State) (q : Nat) (key : Nat × Nat) (tapKey : Nat × Nat × Nat) (done : Bool) : State :=
  if done then
    let w := s.watchOf q
    let t := s.setWatch { w with entries := w.entries.map (WatchEntry.afterDone w.policy key tapKey),
                                 committed := w.committed + 1 }
    t.silenceEvents s q
  else s.modEntries q fun e => { e with flagged := decide (e.stepKey = key) && e.stepFlagged }

end Sys2Proof.Machine
end

