-- ==== Sys2Proof/Machine/Seqs.lean ====
section
/-! DEFINITION. The sequence table: SEQ_OPEN, REVIVE, SEQ_QUERY, SEQ_CLOSE and SEQ_STEP with its admission, and the end
of commands that journals hold back (09 R299 to R314, R318, 12 R398). -/

namespace Sys2Proof.Machine

def State.modSeq (s : State) (h : Nat) (f : Seq → Seq) : State :=
  { s with seqs.table := mapIf (·.handle = h) f s.seqs.table }
def State.modStep (s : State) (id : Nat) (f : SeqStep → SeqStep) : State :=
  { s with seqs.steps := mapIf (·.id = id) f s.seqs.steps }
def State.modBatch (s : State) (id : Nat) (f : Batch → Batch) : State :=
  { s with seqs.batches := mapIf (·.id = id) f s.seqs.batches }

/-- Accepted steps of a sequence not yet complete, in order of acceptance. -/
def State.stepsOf (s : State) (h : Nat) : List SeqStep := s.seqs.steps.filter (·.seq = h)

/-- A journalled command that has ended in this attempt waits for publication (12 R398). -/
def State.cmdEnded (s : State) (id : Nat) : Bool := s.watch.journals.any fun j => j.ended.any (·.cmd = id)

/-- The first step of a sequence that has not ended. -/
def State.firstStep (s : State) (h : Nat) : Option SeqStep := (s.stepsOf h).find? fun t => !s.cmdEnded t.cmd

/-! ## The entry (R299) -/

def SeqState.code : SeqState → Nat
  | .opened => 0
  | .ready => 1
  | .running => 2
  | .banked => 3
  | .evicted => 4
  | .closed => 5

/-- SEQ_QUERY's 128 bytes, big-endian. -/
def State.seqEntry (s : State) (q : Seq) : List Byte :=
  let steps := s.stepsOf q.handle
  let deadline := ((steps.head?.bind fun t => s.cmd? t.cmd).map (·.deadline)).getD 0
  beBytes 8 q.handle ++ beBytes 1 q.state.code ++ beBytes 1 q.partition ++ beBytes 1 (b2n q.refine)
    ++ beBytes 1 q.priority ++ beBytes 1 q.batchMax ++ beBytes 1 q.refreshPeriod ++ beBytes 2 q.batchWait
    ++ beBytes 8 q.model ++ beBytes 4 (if q.binding.isSome then q.index else 0xFFFFFFFF)
    ++ beBytes 2 ((q.grid.map (·.gridId)).getD 0xFFFF) ++ beBytes 1 steps.length ++ zeros 1 ++ beBytes 8 deadline
    ++ beBytes 2 ((steps.head?.map (·.passes)).getD 0) ++ beBytes 2 ((steps.head?.map (·.passIndex)).getD 0)
    ++ beBytes 4 q.passesDone ++ beBytes 8 q.lastRun ++ beBytes 8 q.resultHandle ++ beBytes 8 q.resultOffset
    ++ beBytes 2 q.resultBytes ++ zeros 6 ++ beBytes 8 q.tilesComputed ++ beBytes 8 q.tilesReused
    ++ beBytes 16 q.coreSet ++ zeros 16

/-! ## Core sets (04 R151) -/

/-- What R151 finds wrong with a core set for an image of a partition: a core outside it first, then the count. -/
def State.coreSetBad (s : State) (q set count : Nat) : Option Bad :=
  firstBad [badIf ((bitsSet 128 set).any fun n => !(s.partCores q).contains n) 6, badIf (popCount 128 set ≠ count) 7]

/-! ## SEQ_OPEN and REVIVE (R302 to R304) -/

def opSeqOpen : Op := { code := 0x0400, scope := .partition, notify := false, deadline := false, minLen := 88 }

def seqGrid (c : Ctx) : Option Grid := if (c.be 30 2).testBit 0 then some (gridOf (slice c.params 32 24)) else none
def seqRevive (c : Ctx) : Bool := (c.be 30 2).testBit 1

/-- Fields of SEQ_OPEN outside their ranges. -/
def seqFieldsBad (c : Ctx) (s : State) : Bool :=
  let kind := c.be 24 1
  decide (2 ≤ kind) || decide (4 ≤ c.be 25 1)
    || (if kind = 0 then c.be 26 1 = 0 || decide (64 < c.be 26 1) || decide (200 < c.be 28 2)
        else c.be 26 1 ≠ 1 || c.be 28 2 ≠ 0)
    || c.be 64 8 % 64 ≠ 0 || decide (256 < c.be 72 2) || (c.be 56 8 = 0 && c.be 72 2 ≠ 0)
    || (!seqRevive c && c.be 80 8 ≠ 0)
    || ((seqGrid c).isNone && (c.be 32 16 ≠ 0 || c.be 48 2 % 2 ≠ 0 || c.be 50 2 ≠ 0))
    || ((seqGrid c).any fun g =>
      (s.seqs.table.any fun r => r.partition = c.part && r.state ≠ .closed && r.grid.any (·.gridId = g.gridId)
        && !(seqRevive c && r.handle = c.be 80 8))
      || s.codec.handles.any fun h => h.partition = c.part && h.grid.gridId = g.gridId)

def seqOpenCheck (c : Ctx) (s : State) : Option Bad :=
  let model := s.image? c.part (c.be 0 8)
  let result := s.alloc? c.part (c.be 56 8)
  let old := s.seq? c.part (c.be 80 8)
  let cores := (model.map fun i => imgCores i.bytes).getD 0
  firstBad [
    badIf (model.isNone || (c.be 56 8 ≠ 0 && result.isNone) || (seqRevive c && old.isNone)) 5,
    badIf (seqFieldsBad c s) 7,
    badIf (c.be 56 8 ≠ 0 && result.any fun a => decide (a.bytes < c.be 64 8 + c.be 72 2)) 6,
    if c.be 8 16 = 0 then none else s.coreSetBad c.part (c.be 8 16) cores,
    badIf (decide ((s.partCores c.part).length < cores)) 7,
    badIf ((seqGrid c).any fun g => !g.ok) 11,
    badIf (seqRevive c && old.any fun r => r.state ≠ .evicted) 15 ]

/-- Entries in use: neither free nor CLOSED. -/
def State.seqsInUse (s : State) (p : Seq → Bool) : Nat := (s.seqs.table.filter fun r => r.state ≠ .closed && p r).length

def seqOpenQuota (c : Ctx) (s : State) : Option Bad :=
  if seqRevive c then none
  else refuseIf (((s.part? c.part).any fun p => decide (p.seqQuota ≤ s.seqsInUse (·.partition = c.part)))
    || decide (16384 ≤ s.seqsInUse fun _ => true)) 0x0103 5

/-- The parameters of SEQ_OPEN over an entry. -/
def seqFill (c : Ctx) (now : Nat) (r : Seq) : Seq :=
  { r with
    state := .opened, refine := decide (c.be 24 1 = 1), priority := c.be 25 1, batchMax := c.be 26 1,
    refreshPeriod := if c.be 27 1 = 0 then 4 else c.be 27 1, batchWait := c.be 28 2, model := c.be 0 8,
    grid := (seqGrid c).map (·.open_ now), binding := none, resultHandle := c.be 56 8, resultOffset := c.be 64 8,
    resultBytes := c.be 72 2, coreSet := c.be 8 16, closing := 0 }

/-- The entry a new sequence takes: the lowest free one, or the CLOSED one that closed earliest (R301). -/
def State.freeEntry (s : State) : Nat × State :=
  if s.seqs.table.length < 16384 then
    (((List.range 16384).find? fun i => !s.seqs.table.any (·.index = i)).getD 0, s)
  else
    match (sortBy (fun a b => decide (a.closedSeq < b.closedSeq)) (s.seqs.table.filter (·.state = .closed))).head? with
    | some r => (r.index, { s with seqs.table := s.seqs.table.filter (·.handle ≠ r.handle) })
    | none => (0, s)

def seqOpenEffect (c : Ctx) (s : State) : State × List Byte :=
  let now := c.stamp
  if seqRevive c then
    (s.modSeq (c.be 80 8) (seqFill c now), beBytes 8 (c.be 80 8))
  else
    let (index, s) := s.freeEntry
    let blank : Seq :=
      { handle := s.seqs.nextSeq, index := index, state := .opened, partition := c.part, refine := false, priority := 0,
        batchMax := 0, refreshPeriod := 0, batchWait := 0, model := 0, grid := none, binding := none, passesDone := 0,
        lastRun := 0, resultHandle := 0, resultOffset := 0, resultBytes := 0, tilesComputed := 0, tilesReused := 0,
        coreSet := 0, closing := 0, closedSeq := 0 }
    ({ s with seqs.table := s.seqs.table ++ [seqFill c now blank], seqs.nextSeq := s.seqs.nextSeq + 1 },
     beBytes 8 blank.handle)

def execSeqOpen (p : Packet) (s : State) : Host.Outcome State Fault Refusal :=
  .next (replyOp opSeqOpen seqOpenCheck seqOpenQuota nothing seqOpenEffect p s)

/-- REVIVE: the same opcode with its flag set (R304). -/
def execRevive (p : Packet) (s : State) : Host.Outcome State Fault Refusal :=
  .next (replyOp opSeqOpen seqOpenCheck seqOpenQuota nothing seqOpenEffect p s)

/-! ## SEQ_QUERY (R306) -/

def opSeqQuery : Op := { code := 0x0404, scope := .partition, notify := false, deadline := false, minLen := 16 }

def execSeqQuery (p : Packet) (s : State) : Host.Outcome State Fault Refusal :=
  .next (replyOp opSeqQuery (fun c s => badIf (s.seq? c.part (c.be 0 8)).isNone 5) never nothing
    (fun c s => (s, ((s.seq? c.part (c.be 0 8)).map s.seqEntry).getD [])) p s)

/-! ## Ends of commands -/

/-- The status that a command's work ends with, poison and taint included (04 R124, 14 R459). -/
def Cmd.endStatus (c : Cmd) (status : Nat) : Nat :=
  if status ≠ 0 then status else if c.tainted then 0x0302 else if c.poisoned then 0x0301 else 0

/-- A command's work has ended: it completes, or waits for its journal (12 R398). -/
def State.endCmd (s : State) (id status cause : Nat) (payload : List Byte) : State :=
  match s.cmd? id with
  | none => s
  | some c =>
    if c.journal = 0 then s.complete id (c.endStatus status) cause payload
    else s.modJournal c.journal fun j => { j with ended := j.ended ++ [{ cmd := id, payload := payload }] }

/-! ## SEQ_CLOSE (R307) -/

def opSeqClose : Op := { code := 0x0402, scope := .partition, notify := true, deadline := false, minLen := 16 }

def seqCloseCheck (c : Ctx) (s : State) : Option Bad :=
  let q := s.seq? c.part (c.be 0 8)
  firstBad [badIf q.isNone 5, badIf (q.any fun q => q.state = .closed || q.closing ≠ 0) 15]

/-- Free every layer of a sequence: its pages lose their names, its boughs return (08 R292). -/
def State.freeLayers (s : State) (q : Seq) : State :=
  let boughs := (q.binding.map fun b => sumOf (fun t : Layer => t.boughs) b.tables).getD 0
  { s with kv.frames := s.kv.frames.map (unname s.walked q.frames), kv.boughsUsed := s.kv.boughsUsed - boughs }

/-- The sequence closes: its layers are freed, its allocations become PINNED and unowned (07 R224), and the SEQ_CLOSE
completes. -/
def State.closeSeq (s : State) (q : Seq) : State :=
  let s := s.freeLayers q
  let s := { s with
    mem.allocs := mapIf (·.owner = q.handle) (fun a => { a with evictable := false, owner := 0 }) s.mem.allocs
    kv.frames := mapIf (·.listOwner = q.handle) (fun f => { f with listOwner := 0 }) s.kv.frames }
  let s := s.modSeq q.handle fun r =>
    { r with state := .closed, binding := none, closing := 0, closedSeq := s.net.eventSeq + 1 }
  s.complete q.closing 0 0 []

/-- Close a sequence whose SEQ_CLOSE waits for its last step. -/
def State.settleClose (s : State) (h : Nat) : State :=
  match s.seqs.table.find? (·.handle = h) with
  | some q => if q.closing ≠ 0 && (s.stepsOf h).isEmpty then s.closeSeq q else s
  | none => s

def seqCloseStart (c : Ctx) (k : Cmd) (s : State) : State :=
  let h := c.be 0 8
  let s := { s with cmds := s.cmds ++ [{ k with work := .seqClose h }] }
  (s.modSeq h fun r => { r with closing := k.id }).settleClose h

def execSeqClose (p : Packet) (s : State) : Host.Outcome State Fault Refusal :=
  .next (notifyOp opSeqClose seqCloseCheck never bestEffort nothing seqCloseStart p s)

/-! ## SEQ_STEP (R308 to R312) -/

def opSeqStep : Op := { code := 0x0401, scope := .partition, notify := true, deadline := true, minLen := 48 }

def stepOnGrid (c : Ctx) : Bool := (c.be 10 1).testBit 0

/-- The media time before which no pass of the step launches. -/
def stepRelease (c : Ctx) (q : Seq) : Nat :=
  if stepOnGrid c then (q.grid.map fun g => g.boundary (c.be 16 8)).getD 0 else 0

/-- A journal is open to new commands in the partition (12 R395). -/
def State.journalOpen (s : State) (q : Nat) : Bool := (s.journal? q).any (·.state = .opened)

def seqStepCheck (c : Ctx) (s : State) : Option Bad :=
  match s.seq? c.part (c.be 0 8) with
  | none => some (bad 5)
  | some q =>
    let steps := s.stepsOf q.handle
    let deadline := c.p.deadline.toNat
    let cores := ((s.image? c.part q.model).map fun i => imgCores i.bytes).getD 0
    firstBad [
      badIf ((q.binding.isNone && q.state ≠ .evicted) || q.state = .closed || q.closing ≠ 0 || decide (8 ≤ steps.length)) 15,
      badIf (c.be 8 2 = 0 || decide ((if q.refine then 255 else 1) < c.be 8 2) || (stepOnGrid c && q.grid.isNone)) 7,
      badIf (c.cost.any fun k => k.cores ≠ cores) 7,
      badIf (deadline ≠ 0 && (s.cmds.any fun k => (steps.any (·.cmd = k.id)) && (!k.contract || decide (deadline < k.deadline)))) 15,
      badIf (deadline ≠ 0 && s.journalOpen c.part) 15 ]

/-- The slots that a step's batch or command holds. -/
def State.slotsOf (s : State) (t : SeqStep) : List Nat :=
  match s.batch? t.batch with
  | some b => ((s.cmd? b.lead).map (·.reserved.slots)).getD []
  | none => ((s.cmd? t.cmd).map (·.reserved.slots)).getD []

/-- The first slot that R312 allows beside that of R44. -/
def State.stepFrom (s : State) (c : Ctx) (q : Seq) : Nat :=
  let after := ((s.stepsOf q.handle).map fun t => ((s.slotsOf t).getLast?.map (· + 1)).getD 0).foldl max 0
  max (slotFrom (stepRelease c q)) after

/-- A deadline batch that a decode step may join (R318, log entry 19). -/
def State.joinable (s : State) (c : Ctx) (q : Seq) (b : Batch) : Bool :=
  let slots := ((s.cmd? b.lead).map (·.reserved.slots)).getD []
  b.lead ≠ 0 && b.partition = c.part && b.model = q.model && b.batchMax = q.batchMax && b.batchWait = q.batchWait
    && !b.closed && !b.launched && decide (c.stamp < b.closeAt) && decide (b.members.length < b.batchMax)
    && slots.getLast?.any (fun n => decide (n < slotsEnd c.p.deadline.toNat))
    && slots.head?.any (fun n => decide (s.stepFrom c q ≤ n))
    && !(b.members.any fun m => (s.step? m).any (·.seq = q.handle))

def State.batchToJoin (s : State) (c : Ctx) (q : Seq) : Option Batch := s.seqs.batches.find? (s.joinable c q)

/-- The start S of a new decode batch (R318). -/
def State.batchStart (s : State) (c : Ctx) (q : Seq) : Nat := ceilDiv (c.stamp + q.batchWait * 10000) s.stokeNs * s.stokeNs

/-- Admission of a SEQ_STEP (R310, R312, R318). -/
def seqStepAdmission (c : Ctx) (s : State) : Admission :=
  match s.seq? c.part (c.be 0 8), c.cost with
  | some q, some k =>
    if q.state = .evicted then none
    else if q.refine then some (s.admitWork c.part c.p.deadline.toNat c.stamp (s.stepFrom c q) k)
    else
      match s.admitGate c.part c.p.deadline.toNat k with
      | some cause => some (.error cause)
      | none =>
        match s.batchToJoin c q with
        | some _ => some (.ok Reservation.empty)
        | none => some (s.admitWork c.part c.p.deadline.toNat c.stamp (max (slotFrom (s.batchStart c q)) (s.stepFrom c q)) k)
  | _, _ => none

/-- The journal a new command of a partition belongs to (12 R395). -/
def State.joinJournal (s : State) (k : Cmd) : State × Cmd :=
  match s.journal? k.partition with
  | some j =>
    if j.state = .opened then
      (s.modJournal j.handle fun j => { j with cmds := j.cmds ++ [k.id] }, { k with journal := j.handle })
    else (s, k)
  | none => (s, k)

/-- Put a deadline decode step into a batch: one it joins, or a new one. -/
def State.placeInBatch (s : State) (c : Ctx) (q : Seq) (k : Cmd) (step : Nat) : State × Nat :=
  match s.batchToJoin c q with
  | some b =>
    let full := decide (b.batchMax ≤ b.members.length + 1)
    (s.modBatch b.id fun b => { b with members := b.members ++ [step], closed := b.closed || full,
                                       closeAt := if full then min b.closeAt c.stamp else b.closeAt }, b.id)
  | none =>
    let first := (k.reserved.slots.head?).getD 0
    let b : Batch :=
      { id := s.seqs.nextId, partition := c.part, model := q.model, batchMax := q.batchMax, batchWait := q.batchWait,
        members := [step], lead := k.id, start := s.batchStart c q,
        closeAt := if q.batchMax ≤ 1 then c.stamp else first * 10000, closed := decide (q.batchMax ≤ 1), launched := false }
    ({ s with seqs.batches := s.seqs.batches ++ [b], seqs.nextId := s.seqs.nextId + 1 }, b.id)

/-- The 48 bytes of R314 before any result. -/
def stepPayload (t : SeqStep) (failPass failCore resultLength failIndex : Nat) (result : List Byte) : List Byte :=
  beBytes 8 t.seq ++ beBytes 2 t.passesRun ++ beBytes 2 t.forced ++ beBytes 4 t.computed ++ beBytes 4 t.reused
    ++ beBytes 2 t.batchCount ++ beBytes 2 failPass ++ beBytes 8 t.cyclesMax ++ beBytes 2 failCore
    ++ beBytes 2 resultLength ++ beBytes 4 failIndex ++ zeros 8 ++ result

def seqStepStart (c : Ctx) (k : Cmd) (s : State) : State :=
  match s.seq? c.part (c.be 0 8) with
  | none => s
  | some q =>
    let id := s.seqs.nextId
    let t : SeqStep :=
      { id := id, cmd := k.id, seq := q.handle, passes := c.be 8 2, passIndex := 0, release := stepRelease c q,
        args := slice c.params 24 16, passesRun := 0, forced := 0, computed := 0, reused := 0, batchCount := 1,
        cyclesMax := 0, attempt := 0, batch := 0 }
    if q.state = .evicted then
      { s with cmds := s.cmds ++ [{ k with work := .seqStep id }], seqs.nextId := id + 1 }.complete k.id 0x0306 0
        (stepPayload t 0xFFFF 0xFFFF 0 0xFFFFFFFF [])
    else
      let (s, k) := s.joinJournal k
      let s := { s with cmds := s.cmds ++ [{ k with work := .seqStep id }], seqs.nextId := id + 1 }
      let (s, batch) := if k.contract && !q.refine then s.placeInBatch c q k id else (s, 0)
      let s := { s with seqs.steps := s.seqs.steps ++ [{ t with batch := batch }] }
      s.modSeq q.handle fun r => { r with state := if r.state = .opened then .ready else r.state }

def execSeqStep (p : Packet) (s : State) : Host.Outcome State Fault Refusal :=
  .next (notifyOp opSeqStep seqStepCheck never seqStepAdmission nothing seqStepStart p s)

/-! ## BATCH_CLOSE (R318) -/

def execBatchClose (e : Env) (batch : Nat) (s : State) : Host.Outcome State Fault Refusal :=
  let s := advance e.dt s
  .next (if (s.batch? batch).any fun b => decide (b.closeAt ≤ s.clock.mt) then
    s.modBatch batch fun b => { b with closed := true } else s)

end Sys2Proof.Machine
end

