-- ==== Sys2Proof/Machine/Runs.lean ====
section
/-! DEFINITION. Launches: LAUNCH, the Stoker's work list at a stoke boundary, the start of a run on its cores, and its
end with the test of the numeric watch (04 R150 to R155, 09 R311 to R320, 12 R393 to R405). -/

namespace Sys2Proof.Machine

/-! ## LAUNCH (04 R150, R151) -/

def opLaunch : Op := { code := 0x0300, scope := .partition, notify := true, deadline := true, minLen := 32 }

def launchCheck (c : Ctx) (s : State) : Option Bad :=
  match s.image? c.part (c.be 0 8) with
  | none => some (bad 5)
  | some i =>
    firstBad [
      badIf (decide (4096 < c.be 26 2)) 7,
      badIf (decide (c.params.length < 32 + c.be 26 2)) 2,
      s.coreSetBad c.part (c.be 8 16) (imgCores i.bytes),
      badIf (c.p.deadline.toNat ≠ 0 && s.journalOpen c.part) 15 ]

def Run.blank : Run :=
  { id := 0, kind := .launch 0, image := 0, partition := 0, cores := [], args := [], forceCopy := false, started := false,
    boundary := 0, launchSeq := 0, attempt := 0, fail := 0, failCause := 0, failCore := 0xFFFF, failIndex := 0xFFFFFFFF,
    poisoned := false, startOp := 0, wideningClosed := false, committed := false }

def launchStart (c : Ctx) (k : Cmd) (s : State) : State :=
  let id := s.seqs.nextId
  let (s, k) := s.joinJournal k
  let r : Run :=
    { Run.blank with
      id := id, kind := .launch k.id, image := c.be 0 8, partition := c.part, cores := bitsSet 128 (c.be 8 16),
      args := slice c.params 32 (c.be 26 2), forceCopy := (c.be 24 2).testBit 0, launchSeq := c.seq % 2 ^ 32 }
  { s with cmds := s.cmds ++ [{ k with work := .launch id }], seqs.runs := s.seqs.runs ++ [r], seqs.nextId := id + 1 }

def execLaunch (p : Packet) (s : State) : Host.Outcome State Fault Refusal :=
  .next (notifyOp opLaunch launchCheck never byCost nothing launchStart p s)

/-! ## Starting a run (04 R152, R153, 09 R316) -/

/-- An enabled core that no launch uses, of a partition that is not being reset. -/
def State.coreIdle (s : State) (n : Nat) : Bool := s.enabled n && decide ((s.coreAt n).run = 0)

/-- Whole clusters of a partition: every enabled core idle (R316). -/
def State.wholeClusters (s : State) (q : Nat) : List (List Nat) :=
  ((bitsSet 16 (((s.part? q).map (·.clusters)).getD 0)).map fun c =>
    (s.partCores q).filter fun n => coreCluster n = c).filter fun ns => !ns.isEmpty && ns.all s.coreIdle

/-- Take whole clusters until `n` cores are held, of the last one the lowest still needed. -/
def takeClusters (n : Nat) : List (List Nat) → Option (List Nat)
  | [] => if n = 0 then some [] else none
  | c :: cs =>
    if n = 0 then some []
    else (takeClusters (n - min n c.length) cs).map fun rest => c.take n ++ rest

/-- The cores for a launch of `n` cores with core set `set`, zero letting the Stoker choose. -/
def State.placeCores (s : State) (q n set : Nat) : Option (List Nat) :=
  if set ≠ 0 then
    let ns := bitsSet 128 set
    if ns.all s.coreIdle then some ns else none
  else if (s.part? q).isNone then none
  else if n % 8 = 0 then takeClusters n (s.wholeClusters q)
  else
    let idle := (s.partCores q).filter s.coreIdle
    if n ≤ idle.length then some (idle.take n) else none

/-- Copy a listed section into hob memory, unless the residency record shows it intact (R152). -/
def State.loadSection (s : State) (core : Nat) (i : Image) (force : Bool) (k : Nat) : State :=
  let x := sectionAt i.bytes k
  let r : Resident := { image := i.handle, section_ := k, lo := x.hob, length := x.length }
  if !force && (s.coreAt core).residency.contains r then s
  else
    let s := s.hobWrite core x.hob (x.bytes i.bytes)
    s.modCore core fun c => { c with residency := (c.residency ++ [r]).drop (c.residency.length + 1 - 16) }

/-- One core of a run starts: sections, ARGS, event counters at zero, empty Flame banks (11 R370), and its program
table. -/
def State.startCore (s : State) (run : Run) (i : Image) (core rel : Nat) : State :=
  let e := coreEntryAt i.bytes rel
  let s := e.sections.foldl (fun s k => s.loadSection core i run.forceCopy k) s
  let s := if e.args = noArgs then s else s.hobWrite core e.args run.args
  let x := sectionAt i.bytes e.program
  let period := (s.watchOf run.partition).policy.witnessPeriod
  let ticks := (s.dieAt (coreDie core)).ticks
  s.modCore core fun c => { c with
    run := run.id, rel := rel, progBase := x.hob, progLen := x.length / 32, next := 0, unretired := [], hold := .none,
    holdIndex := 0, barriers := 0, skip := 0, halting := false, finished := false, startTick := ticks, lastTick := ticks,
    events := List.replicate 32 0, mailbox := [], requests := [], slotsUsed := 0, stalledSince := none, issueWait := false,
    decoded := none, banks := List.replicate 2 Bank.reset, witnessCount := if period = 0 then 0 else rel % period,
    outputs := [] }

/-- A command whose work starts on a die in a supply episode has its cause there, if the episode began after the command
was accepted (17 R546, 02 R50). -/
def State.strikeEpisodes (s : State) (ids dies : List Nat) : State :=
  dies.eraseDups.foldl (fun s d =>
    let x := s.dieAt d
    let hit : Strike := { code := 1, eventSeq := x.warnSeq, member := 0 }
    { s with cmds := mapIf (fun c => x.inEpisode && c.contract && ids.contains c.id && decide (c.replySeq < x.warnSeq))
                       (fun c => { c with strikes := c.strikes ++ [hit] }) s.cmds }) s

/-- Note that a command's work uses dies and stacks (02 R50). -/
def Cmd.uses (c : Cmd) (dies hbmSet : List Nat) : Cmd :=
  { c with dies := setUnion c.dies dies, hbmSet := setUnion c.hbmSet hbmSet }

/-- A run starts at a stoke boundary on the cores given. -/
def State.startRun (s : State) (id boundary : Nat) (cores : List Nat) : State :=
  match s.run? id with
  | none => s
  | some r =>
    match s.mem.images.find? (·.handle = r.image) with
    | none => s
    | some i =>
      let op := s.mem.nextOp
      let r := { r with started := true, cores := cores, boundary := boundary,
                        startOp := if r.startOp = 0 then op else r.startOp, fail := 0, failCause := 0, failCore := 0xFFFF,
                        failIndex := 0xFFFFFFFF, committed := false }
      let s := { s.modRun id fun _ => r with mem.nextOp := op + 1 }
      let s := s.prepareTemplates r.partition
      let s := (List.range cores.length).foldl (fun s k => s.startCore r i (cores.getD k 0) k) s
      let mine := s.runCmds r
      let dies := cores.map coreDie
      { s with cmds := mapIf (fun c => mine.contains c.id) (·.uses dies []) s.cmds }.strikeEpisodes mine dies

/-! ## Stopping a run (R155) -/

/-- Stop issue on every core of a run. -/
def State.haltRun (s : State) (r : Run) : State :=
  r.cores.foldl (fun s n => s.modCore n fun c =>
    if c.run = r.id then { c with halting := true, hold := .none, skip := 0 } else c) s

/-- A macro-instruction has failed: the first failure is kept, and issue stops. -/
def State.failRun (s : State) (id status cause rel index : Nat) : State :=
  match s.run? id with
  | none => s
  | some r =>
    if r.fail ≠ 0 then s
    else (s.modRun id fun r => { r with fail := status, failCause := cause, failCore := rel, failIndex := index }).haltRun r

/-- Everything a core's mailbox holds, or waits for it at senders, is discarded and counted (R139). -/
def State.clearMailbox (s : State) (n : Nat) : State :=
  s.modCore n fun c =>
    let waiting := (c.requests.map (·.message)).eraseDups.filter fun m => !c.mailbox.any (·.id = m)
    { c with dropped := satAdd 16 c.dropped (c.mailbox.length + waiting.length), mailbox := [], requests := [],
             slotsUsed := 0 }

/-- A core leaves its run. -/
def State.freeCore (s : State) (n : Nat) : State :=
  (s.clearMailbox n).modCore n fun c => { c with
    run := 0, rel := 0, unretired := [], hold := .none, skip := 0, halting := false, finished := false,
    stalledSince := none, issueWait := false, decoded := none, outputs := [] }

def State.freeCores (s : State) (r : Run) : State :=
  r.cores.foldl (fun s n => if (s.coreAt n).run = r.id then s.freeCore n else s) s

/-- FENCE with scope MODULE on every core of a run: their writes reach their home slices (R154). -/
def State.fenceRun (s : State) (r : Run) : State :=
  (List.range 4).foldl (fun s d => s.drainStage d fun w => r.cores.contains w.core) s

def State.dropRun (s : State) (id : Nat) : State := { s with seqs.runs := s.seqs.runs.filter (·.id ≠ id) }

/-! ## The end of steps and launches (04 R154, 09 R313, R314, R320) -/

/-- CYCLES_MAX: from start to last retirement on the busiest core. -/
def State.runCycles (s : State) (r : Run) : Nat :=
  (r.cores.map fun n => ((s.coreAt n).lastTick - (s.coreAt n).startTick) / 1000).foldl max 0

def launchPayload (image cycles core index : Nat) : List Byte :=
  beBytes 8 image ++ beBytes 8 cycles ++ beBytes 2 core ++ zeros 2 ++ beBytes 4 index

/-- The bytes of a sequence's result area as its step's launches see them. -/
def State.resultBytes (s : State) (q : Seq) (journal : Nat) : List Byte :=
  match s.alloc? q.partition q.resultHandle with
  | some a => s.readMem { core := none, journal := journal } q.partition (a.base + q.resultOffset) q.resultBytes
  | none => zeros q.resultBytes

/-- Take a step out of the table, and close its sequence if that waited for it. -/
def State.removeStep (s : State) (t : SeqStep) : State :=
  { s with seqs.steps := s.seqs.steps.filter (·.id ≠ t.id) }.settleClose t.seq

/-- A step ends with a status: its sequence is READY again, and its command completes or waits for its journal. -/
def State.endStep (s : State) (t : SeqStep) (status cause failPass failCore failIndex : Nat) : State :=
  match s.seqs.table.find? (·.handle = t.seq), s.cmd? t.cmd with
  | some q, some c =>
    let s := s.modSeq t.seq fun r => { r with state := if r.state = .running ∨ r.state = .banked then .ready else r.state }
    let done := decide ((finalStatus c s.clock.mt (c.endStatus status) cause).1 = 0)
    let result := if done then s.resultBytes q c.journal else []
    let s := s.endCmd t.cmd status cause (stepPayload t failPass failCore result.length failIndex result)
    if c.journal = 0 then s.removeStep t else s
  | _, _ => s.removeStep t

/-- A pass of a REFINE step has ended well: the next pass is due, or the step is done. -/
def State.passDone (s : State) (t : SeqStep) (cycles : Nat) (forced : Bool) : State :=
  let t := { t with passesRun := t.passesRun + 1, forced := t.forced + b2n forced, passIndex := t.passIndex + 1,
                    cyclesMax := t.cyclesMax + cycles, attempt := 0 }
  let s := (s.modStep t.id fun _ => t).modSeq t.seq fun r => { r with passesDone := satAdd 32 r.passesDone 1 }
  if t.passes ≤ t.passIndex then s.endStep t 0 0 0xFFFF 0xFFFF 0xFFFFFFFF
  else s.modSeq t.seq fun r => { r with state := .banked }

/-- A pass has FORCE_REFRESH set (R317). -/
def State.forcedPass (s : State) (t : SeqStep) : Bool :=
  let n := ((s.seqs.table.find? (·.handle = t.seq)).map (·.refreshPeriod)).getD 4
  decide (t.passIndex % n = 0) || decide (t.attempt ≠ 0)

/-- The steps a run works for. -/
def State.runSteps (s : State) (r : Run) : List SeqStep :=
  match r.kind with
  | .launch _ => []
  | .pass st => (s.step? st).toList
  | .batch b => ((s.batch? b).map fun k => k.members.filterMap s.step?).getD []

/-- The work of a run has ended for good, with a status: completions, in entry order for a batch. -/
def State.finishRun (s : State) (r : Run) (status cause : Nat) : State :=
  let cycles := s.runCycles r
  let steps := s.runSteps r
  let s := (s.freeCores r).dropRun r.id
  let s := { s with cmds := mapIf (fun c => r.poisoned && (s.runCmds r).contains c.id) (fun c => { c with poisoned := true }) s.cmds }
  let failed := decide (status ≠ 0)
  match r.kind with
  | .launch c => s.endCmd c status cause (launchPayload r.image cycles r.failCore r.failIndex)
  | .pass _ =>
    steps.foldl (fun s t =>
      if failed then s.endStep { t with cyclesMax := t.cyclesMax + cycles } status cause t.passIndex r.failCore r.failIndex
      else s.passDone t cycles (s.forcedPass t)) s
  | .batch b =>
    let s := steps.foldl (fun s t =>
      let t := { t with batchCount := steps.length }
      if failed then s.endStep { t with cyclesMax := t.cyclesMax + cycles } status cause t.passIndex r.failCore r.failIndex
      else s.passDone t cycles (s.forcedPass t)) s
    { s with seqs.batches := s.seqs.batches.filter (·.id ≠ b) }

/-! ## Replays and journals (12 R398, R401, R404) -/

/-- A command's replays go beyond what it reserved for (R405). -/
def State.countReplay (s : State) (ids : List Nat) : State :=
  let passes := fun c : Cmd => ((s.seqs.steps.find? (·.cmd = c.id)).map (·.passes)).getD 1
  let s := { s with cmds := mapIf (fun c => ids.contains c.id) (fun c => { c with replayed := c.replayed + 1 }) s.cmds
                    watch := { s.watch with replays := satAdd 32 s.watch.replays 1 } }
  s.strike 5 0 fun c => c.contract && ids.contains c.id && decide (c.replays * passes c < c.replayed)

/-- Discard a journal's shadows. -/
def Journal.discard (j : Journal) : Journal := { j with shadowed := [], shadow := [], shadowPoison := [] }

/-- The 24 bytes of a COLL_POST completion (14 R450). -/
def postPayload (p : CollPost) (provisional : Bool) (offender signature : Nat) : List Byte :=
  beBytes 2 p.opsDone ++ beBytes 2 (b2n provisional) ++ beBytes 2 offender ++ zeros 2 ++ beBytes 4 p.saturated
    ++ beBytes 4 p.resends ++ beBytes 8 signature

/-- A collective operation as it was posted (14 R462). -/
def CollOp.rewind (o : CollOp) : CollOp :=
  { o with phase := .waiting, step := 0, acc := [], incoming := [], outgoing := [], done := [], kept := [],
           permuteSource := none, saturated := 0, resends := 0, reporting := false, failed := false, reportDim := 0,
           reportHop := 0, reports := [], retract := none, consumers := [] }

/-- A collective operation's provisional marks go. -/
def State.unmark (s : State) (op : CollOp → Bool) : State :=
  { s with mem.provisional := s.mem.provisional.filter fun k => !s.zhevub.ops.any fun o => o.id = k.2 && op o }

/-- A journal's COLL_POSTs wait to run again. -/
def State.rewindPosts (s : State) (j : Journal) : State :=
  let mine := fun o : CollOp => o.journal = j.handle
  let s := s.unmark mine
  { s with zhevub.ops := mapIf mine CollOp.rewind s.zhevub.ops
           zhevub.posts := mapIf (fun p => j.cmds.contains p.cmd)
             (fun p => { p with started := false, opsDone := 0, ended := false, saturated := 0, resends := 0 }) s.zhevub.posts }

/-- A journal's COLL_POSTs are gone; an operation that is still provisional stays until it settles (14 R462). -/
def State.dropPosts (s : State) (j : Journal) (keep : CollOp → Bool) : State :=
  let go := fun o : CollOp => decide (o.journal = j.handle) && !keep o
  let s := s.unmark go
  { s with zhevub.ops := s.zhevub.ops.filter fun o => !go o
           zhevub.posts := s.zhevub.posts.filter fun p => !j.cmds.contains p.cmd }

/-- Runs of a journal's passes go; its launches wait to start again. -/
def State.rewindRuns (s : State) (j : Journal) : State :=
  let mine := fun r : Run => decide (s.runJournal r = j.handle)
  let kept := s.seqs.runs.filter fun r => !mine r || (match r.kind with | .launch _ => true | _ => false)
  { s with seqs.runs := mapIf mine (fun r => { r with started := false, poisoned := false }) kept }

/-- Start a journal over: shadows are discarded, and its commands run again from the first (R404). -/
def State.replayJournal (s : State) (j : Journal) : State :=
  let steps := s.seqs.steps.filter fun t => j.cmds.contains t.cmd
  let s := s.rewindRuns j
  let s := steps.foldl (fun s t =>
    (s.modStep t.id fun t => { t with passIndex := 0, passesRun := 0, forced := 0, computed := 0, reused := 0, cyclesMax := 0,
                                      attempt := j.attempt + 1, batch := 0 }).modSeq t.seq
      fun r => { r with state := if r.state = .running ∨ r.state = .banked then .banked else r.state }) s
  let s := { s with seqs.batches := s.seqs.batches.filter fun b => !b.members.any fun m => steps.any (·.id = m) }
  ((s.countReplay j.cmds).rewindPosts j).modJournal j.handle fun j =>
    { j.discard with attempt := j.attempt + 1, ended := [], retracted := false }

/-- A journal's step has failed: what has not started will not, and every command of it has ended (R398, R401). -/
def State.failJournal (s : State) (j : Journal) (status cause : Nat) : State :=
  let s := s.rewindRuns j
  let runs := s.seqs.runs.filter fun r => s.runJournal r = j.handle
  let s := { s with seqs.runs := s.seqs.runs.filter fun r => !(runs.any (·.id = r.id)) }
  let left := j.cmds.filter fun c => !j.ended.any (·.cmd = c)
  let payload := fun c : Nat =>
    match runs.find? (fun r => r.kind = .launch c), s.seqs.steps.find? (·.cmd = c) with
    | some r, _ => launchPayload r.image 0 r.failCore r.failIndex
    | none, some t => stepPayload t 0xFFFF 0xFFFF 0 0xFFFFFFFF []
    | none, none => ((s.zhevub.posts.find? (·.cmd = c)).map fun p => postPayload p false 0xFFFF 0).getD []
  let s := (s.seqs.steps.filter fun t => left.contains t.cmd).foldl (fun s t =>
    s.modSeq t.seq fun r => { r with state := if r.state = .running ∨ r.state = .banked then .ready else r.state }) s
  (s.dropPosts j fun _ => false).modJournal j.handle fun j =>
    { j.discard with failed := status, failedCause := cause, retracted := false, ended := j.ended ++ left.map fun c => { cmd := c, payload := payload c } }

/-- Run a launch or pass outside a journal once more, at the next stoke boundary (R404). -/
def State.replayRun (s : State) (r : Run) : State :=
  let s := s.countReplay (s.runCmds r)
  let steps := s.runSteps r
  let s := (s.freeCores r).modRun r.id fun r => { r with attempt := r.attempt + 1, started := false, poisoned := false }
  let s := match r.kind with
    | .batch k => s.modBatch k fun k => { k with launched := false }
    | _ => s
  steps.foldl (fun s t => (s.modStep t.id fun t => { t with attempt := t.attempt + 1 }).modSeq t.seq
    fun q => { q with state := if q.state = .running then .banked else q.state }) s

/-- The SEQ of the command a run's events name. -/
def State.runSeq (s : State) (r : Run) : Nat := (((s.runCmds r).head?.bind s.cmd?).map (·.seq)).getD 0

/-- The outputs of a launch that has stopped are undefined (04 R155). -/
def State.openRun (s : State) (r : Run) : State :=
  r.cores.foldl (fun s n => if (s.coreAt n).run = r.id then s.openOutputs n (fun _ => true) else s) s

/-- A run's last macro-instruction has retired on every core: fence, test, and complete, replay or fail. -/
def State.endRun (s : State) (r : Run) : State :=
  let s := s.fenceRun r
  let s := if r.fail ≠ 0 then s.openRun r else s
  if !((s.runCmds r).any fun c => (s.cmd? c).isSome) then (s.freeCores r).dropRun r.id
  else
  let key := s.stepKey r
  let tapKey := s.tapKey r
  let evs := if r.fail ≠ 0 then [] else s.launchEvents r
  let limit := (s.watchOf r.partition).policy.replayLimit
  match s.journalOf (s.runJournal r) with
  | some j =>
    if j.retracted then
      let s := s.freeCores r
      if limit ≤ j.attempt then (s.failJournal j 0x0304 0).stepEnded r.partition key tapKey false else s.replayJournal j
    else if r.fail ≠ 0 then
      ((s.freeCores r).failJournal j r.fail r.failCause).stepEnded r.partition key tapKey false
    else if evs.isEmpty then s.finishRun r 0 0
    else
      let a := s.respond r (s.runSeq r) j.wideningClosed evs
      let s := a.s.modJournal j.handle fun j =>
        { j with wideningClosed := a.closed, widened := j.widened + a.widened, flagged := j.flagged + a.flagged,
                 events := j.events + evs.length }
      let fails := if a.fails = 0 ∧ limit ≤ j.attempt then 0x0304 else a.fails
      let s := s.freeCores r
      if fails = 0 then s.replayJournal j
      else (s.failJournal j fails 0).stepEnded r.partition key tapKey false
  | none =>
    if evs.isEmpty then
      (s.finishRun r r.fail r.failCause).stepEnded r.partition key tapKey (decide (r.fail = 0))
    else
      let a := s.respond r (s.runSeq r) r.wideningClosed evs
      let s := a.s.modRun r.id fun r => { r with wideningClosed := a.closed }
      let fails := if a.fails = 0 ∧ (limit ≤ r.attempt ∨ r.committed) then 0x0304 else a.fails
      if fails = 0 then s.replayRun { r with wideningClosed := a.closed }
      else (s.finishRun r fails 0).stepEnded r.partition key tapKey false

/-- Every core of a run has retired its last macro-instruction. -/
def State.runRetired (s : State) (r : Run) : Bool :=
  r.started && r.cores.all fun n =>
    let c := s.coreAt n
    c.run ≠ r.id || (c.unretired.isEmpty && (c.halting || decide (c.progLen ≤ c.next)) && c.hold = .none)

/-- LAUNCH_END (04 R154). -/
def execLaunchEnd (e : Env) (run : Nat) (s : State) : Host.Outcome State Fault Refusal :=
  let s := enter e s
  .next (match s.run? run with
    | some r => if s.runRetired r then s.endRun r else s
    | none => s)

/-! ## The work list (09 R315 to R319) -/

/-- A unit of due work. -/
structure Due where
  kind : RunKind
  /-- deadline and remaining time, for deadline work -/
  contract : Bool
  slack : Int
  priority : Nat
  order : Nat
  handle : Nat
  image : Nat
  coreSet : Nat
  deriving DecidableEq, Repr

/-- The order of R315. -/
def Due.before (a b : Due) : Bool :=
  if a.contract != b.contract then a.contract
  else if a.contract then decide (a.slack < b.slack) || (a.slack = b.slack && decide (a.handle < b.handle))
  else decide (a.priority < b.priority)
    || (a.priority = b.priority && (decide (a.order < b.order) || (a.order = b.order && decide (a.handle < b.handle))))

/-- A command may run now as far as journals go: in its own, it is the first that has not ended and none of its launches
runs (12 R395); and it does not wait for a STEP_COMMIT accepted before it (12 R398). -/
def State.journalLets (s : State) (c : Cmd) : Bool :=
  (match s.journalOf c.journal with
   | some j => j.failed = 0 && decide ((j.cmds.find? fun k => !j.ended.any (·.cmd = k)) = some c.id)
      && !(s.seqs.runs.any fun r => r.started && s.runJournal r = j.handle)
   | none => true)
  && !(s.watch.journals.any fun j => j.partition = c.partition && j.state = .committing && j.handle ≠ c.journal
      && decide (j.commitCmd < c.id))

/-- A step that may launch a pass at boundary `b`. -/
def State.stepDue (s : State) (b : Nat) (q : Seq) (t : SeqStep) : Option Cmd :=
  match s.cmd? t.cmd with
  | some c =>
    if (q.state = .ready || q.state = .banked) && decide (t.release ≤ b) && decide (c.replyTime < b) && s.journalLets c
        && (s.firstStep q.handle).any (·.id = t.id) then some c
    else none
  | none => none

/-- Slack of deadline work (R315). -/
def slackOf (c : Cmd) (b remain : Nat) : Int := (c.deadline : Int) - b - remain

def State.dueSteps (s : State) (b p : Nat) : List Due :=
  (s.seqs.table.filter fun q => q.partition = p && q.refine).filterMap fun q =>
    (s.firstStep q.handle).bind fun t => (s.stepDue b q t).map fun c =>
      { kind := .pass t.id, contract := c.contract,
        slack := slackOf c b ((t.passes - t.passIndex) * ceilDiv c.reserved.slots.length t.passes * 10000),
        priority := q.priority, order := c.id, handle := q.handle, image := q.model, coreSet := q.coreSet }

def State.dueLaunches (s : State) (b p : Nat) : List Due :=
  (s.seqs.runs.filter fun r => r.partition = p && !r.started).filterMap fun r =>
    match r.kind with
    | .launch id =>
      match s.cmd? id with
      | some c =>
        if c.replyTime < b && s.journalLets c then
          some { kind := .launch id, contract := c.contract, slack := slackOf c b (c.reserved.slots.length * 10000),
                 priority := 0, order := c.id, handle := 0, image := r.image, coreSet := maskOf r.cores }
        else none
      | none => none
    | _ => none

def State.dueBatches (s : State) (b p : Nat) : List Due :=
  (s.seqs.batches.filter fun k => k.partition = p && !k.launched && (k.closed || decide (k.closeAt ≤ b))).filterMap fun k =>
    let steps := k.members.filterMap s.step?
    let seqs := steps.filterMap fun t => s.seqs.table.find? (·.handle = t.seq)
    let cmds := (steps.zip seqs).filterMap fun x => s.stepDue b x.2 x.1
    match cmds.head?, seqs.head? with
    | some c, some q =>
      if cmds.length < k.members.length then none
      else
        let slots := ((s.cmd? k.lead).map (·.reserved.slots.length)).getD 0
        let deadline := (cmds.map (·.deadline)).foldl min c.deadline
        some { kind := .batch k.id, contract := c.contract, slack := (deadline : Int) - b - (slots * 10000 : Nat),
               priority := q.priority, order := c.id, handle := q.handle, image := k.model, coreSet := q.coreSet }
    | _, _ => none

/-- Best-effort decode steps due at `b`, in order of acceptance, with their sequences. -/
def State.dueDecodes (s : State) (b p : Nat) : List (SeqStep × Seq × Cmd) :=
  sortBy (fun x y => decide (x.2.2.id < y.2.2.id))
    ((s.seqs.table.filter fun q => q.partition = p && !q.refine).filterMap fun q =>
      (s.firstStep q.handle).bind fun t =>
        if t.batch ≠ 0 then none else (s.stepDue b q t).bind fun c => if c.contract then none else some (t, q, c))

/-- Gather best-effort decode steps into batches of one model, limit and wait; a journalled step stands alone (R318,
R319). -/
def gather : Nat → List (SeqStep × Seq × Cmd) → List (List (SeqStep × Seq × Cmd))
  | 0, _ => []
  | _, [] => []
  | n + 1, x :: xs =>
    let same := fun y : SeqStep × Seq × Cmd => y.2.1.model = x.2.1.model && y.2.1.batchMax = x.2.1.batchMax
      && y.2.1.batchWait = x.2.1.batchWait && y.2.1.coreSet = x.2.1.coreSet && y.2.2.journal = 0 && x.2.2.journal = 0
    let mine := (xs.filter same).take (x.2.1.batchMax - 1)
    (x :: mine) :: gather n (xs.filter fun y => !mine.any fun z => z.1.id = y.1.id)

/-- Form the best-effort batches of a boundary. -/
def State.formBatches (s : State) (b p : Nat) : State :=
  let due := s.dueDecodes b p
  (gather due.length due).foldl (fun s g =>
    match g.head? with
    | none => s
    | some x =>
      let k : Batch :=
        { id := s.seqs.nextId, partition := p, model := x.2.1.model, batchMax := x.2.1.batchMax, batchWait := x.2.1.batchWait,
          members := g.map fun y => y.1.id, lead := 0, start := b, closeAt := b, closed := true, launched := false }
      let s := { s with seqs.batches := s.seqs.batches ++ [k], seqs.nextId := s.seqs.nextId + 1 }
      g.foldl (fun s y => s.modStep y.1.id fun t => { t with batch := k.id }) s) s

/-- Best-effort batches that did not launch are formed anew at the next boundary. -/
def State.dissolveBatches (s : State) : State :=
  let gone := (s.seqs.batches.filter fun k => k.lead = 0 && !k.launched && !(s.seqs.runs.any fun r => r.kind = .batch k.id)).map (·.id)
  { s with seqs.batches := s.seqs.batches.filter fun k => !gone.contains k.id
           seqs.steps := mapIf (fun t => gone.contains t.batch) (fun t => { t with batch := 0 }) s.seqs.steps }

/-- The memory Dampers of a partition let work start: neither bucket is below zero (R315, 15 R476, log entry 20). -/
def State.damperOpen (s : State) (p : Nat) : Bool :=
  [0, 1].all fun k => (s.damperOf p k).any fun d => decide (d.rate = 0xFFFFFFFF) || decide (0 ≤ d.tokens)

/-- An entry of the pass argument block (R317). -/
def State.argEntry (s : State) (t : SeqStep) : List Byte :=
  let q := s.seqs.table.find? (·.handle = t.seq)
  let len := ((q.bind (·.binding)).bind fun b => b.tables.head?.map (·.length)).getD 0
  let c := s.cmd? t.cmd
  leBytes 8 t.seq ++ leBytes 8 len ++ leBytes 4 ((c.map (·.seq)).getD 0) ++ leBytes 4 ((c.map (·.jobTag)).getD 0) ++ t.args

/-- The pass argument block (R317). -/
def State.passArgs (s : State) (b : Nat) (refine : Bool) (steps : List SeqStep) : List Byte :=
  match steps with
  | [] => []
  | t :: _ =>
    leBytes 2 1 ++ leBytes 2 (72 + 40 * steps.length) ++ zeros 4 ++ leBytes 8 b ++ leBytes 1 (b2n refine)
      ++ leBytes 1 (b2n (s.forcedPass t)) ++ leBytes 2 t.passIndex ++ leBytes 2 t.passes ++ leBytes 2 t.attempt ++ zeros 40
      ++ leBytes 4 steps.length ++ zeros 4 ++ (steps.map s.argEntry).flatten

/-- The low 32 bits of the event number of the reply that a unit's command had (04 R157). -/
def State.replySeqOf (s : State) (steps : List SeqStep) : Nat :=
  (((steps.head?).bind fun t => s.cmd? t.cmd).map (·.replySeq)).getD 0 % 2 ^ 32

/-- The run of a unit that has one, or a new one. -/
def State.runFor (s : State) (p : Nat) (u : Due) (steps : List SeqStep) (args : List Byte) : Nat × State :=
  match s.seqs.runs.find? (fun r => r.kind = u.kind) with
  | some r => (r.id, match u.kind with
      | .launch _ => s
      | _ => s.modRun r.id fun r => { r with args := args })
  | none =>
    let id := s.seqs.nextId
    let r : Run :=
      { Run.blank with
        id := id, kind := u.kind, image := u.image, partition := p, args := args, launchSeq := s.replySeqOf steps }
    (id, { s with seqs.runs := s.seqs.runs ++ [r], seqs.nextId := id + 1 })

/-- Launch a unit at boundary `b`, if its cores are idle and the Dampers let it (R315). -/
def State.launchUnit (b p : Nat) (s : State) (u : Due) : State :=
  match s.mem.images.find? (·.handle = u.image) with
  | none => s
  | some i =>
    match s.placeCores p (imgCores i.bytes) u.coreSet with
    | none => s
    | some cores =>
      if !s.damperOpen p then s
      else
        let steps := match u.kind with
          | .launch _ => []
          | .pass t => (s.step? t).toList
          | .batch k => ((s.batch? k).map fun k => k.members.filterMap s.step?).getD []
        let lets := match u.kind with
          | .launch c => (s.cmd? c).any s.journalLets
          | _ => steps.all fun t => (s.cmd? t.cmd).any s.journalLets
        if !lets then s
        else
          let refine := match u.kind with | .pass _ => true | _ => false
          let (id, s) := s.runFor p u steps (s.passArgs b refine steps)
          let s := match u.kind with
            | .batch k => s.modBatch k fun k => { k with launched := true, closed := true }
            | _ => s
          let s := steps.foldl (fun s t => s.modSeq t.seq fun q => { q with state := .running, lastRun := b }) s
          s.startRun id b cores

/-- build(b, p) of R315. -/
def State.buildList (b : Nat) (s : State) (p : Nat) : State :=
  let s := s.formBatches b p
  let due := sortBy Due.before (s.dueSteps b p ++ s.dueBatches b p ++ s.dueLaunches b p)
  (due.foldl (State.launchUnit b p) s).dissolveBatches

end Sys2Proof.Machine
end

