-- ==== Sys2Proof/Machine/Collectives.lean ====
section
/-! DEFINITION. Collective groups and operations: COLL_GROUP, COLL_POST, the walk of each kind over its group, chunks
with their checksums, release, settlement and retraction (14 R444 to R468). -/

namespace Sys2Proof.Machine

/-! ## Groups (R444 to R446) -/

def opCollGroup : Op := { code := 0x0500, scope := .partition, notify := true, deadline := false, minLen := 32 }

def Group.size (g : Group) : Nat := g.members.length
def Group.dim (g : Group) (k : Nat) : Nat := max 1 (g.sizes.getD k 1)
/-- Ranks from one coordinate of dimension `k` to the next. -/
def Group.stride (g : Group) (k : Nat) : Nat := ((List.range k).map g.dim).foldl (· * ·) 1
/-- The coordinate of a rank in dimension `k` (R444). -/
def Group.coord (g : Group) (k r : Nat) : Nat := r / g.stride k % g.dim k
/-- A rank with another coordinate in dimension `k`. -/
def Group.place (g : Group) (k r c : Nat) : Nat := r - g.coord k r * g.stride k + c % g.dim k * g.stride k
def Group.succ (g : Group) (k r : Nat) : Nat := g.place k r (g.coord k r + 1)
def Group.pred (g : Group) (k r : Nat) : Nat := g.place k r (g.coord k r + g.dim k - 1)
def Group.serial (g : Group) (r : Nat) : Nat := ((g.members[r]?).map (·.serial)).getD 0
def Group.linksTo (g : Group) (r : Nat) : List Nat := ((g.members[r]?).map Member.links).getD []
def Group.rankOf (g : Group) (serial : Nat) : Option Nat := g.members.findIdx? (·.serial = serial)

/-- The member table of a COLL_GROUP, little-endian (R445). -/
def membersAt (bs : List Byte) (n : Nat) : List Member :=
  (List.range n).map fun i => { serial := leAt bs (16 * i) 8, linkMask := leAt bs (16 * i + 8) 8 }

/-- The group that the parameters and the table's bytes describe. -/
def groupOf (c : Ctx) (table : List Byte) : Group :=
  { tag := c.be 0 2, partition := c.part, members := membersAt table (c.be 2 2), rank := c.be 4 2, dims := c.be 6 1,
    sizes := [c.be 8 2, c.be 10 2, c.be 12 2], sequence := 0, stale := false }

/-- Neighbours of this module's rank: in each dimension of more than one member, ±1 (R444). -/
def Group.neighbours (g : Group) : List Nat :=
  (((List.range 3).map fun k => [g.succ k g.rank, g.pred k g.rank]).flatten.filter (· ≠ g.rank)).eraseDups

/-- The checks of R446 on a group before its completion. -/
def State.groupOk (s : State) (g : Group) : Bool :=
  decide (g.dim 0 * g.dim 1 * g.dim 2 = g.size)
    && decide (g.serial g.rank = s.fuses.serial) && decide ((g.members.map (·.serial)).eraseDups.length = g.size)
    && (List.range g.size).all fun r =>
      let links := g.linksTo r
      if r = g.rank then true
      else if g.neighbours.contains r then
        links.all (fun k => s.linkPresent k && decide ((s.linkAt k).peerSerial = g.serial r)) && links.any s.linkUp
      else links.all s.linkPresent

/-- An operation of a tag is in flight: posted, and not yet settled or retracted. -/
def State.tagBusy (s : State) (tag : Nat) : Bool :=
  s.zhevub.posts.any (·.tag = tag) || s.zhevub.ops.any (·.tag = tag)

/-- The STATE refusals of R446, for a definition and for a deletion. -/
def groupStateBad (c : Ctx) (s : State) : Option Bad :=
  let old := s.group? (c.be 0 2)
  badIf (s.tagBusy (c.be 0 2) || (old.any fun g => g.partition ≠ c.part)
    || (old.isNone && c.be 2 2 ≠ 0 && decide (64 ≤ (s.zhevub.groups.filter (·.partition = c.part)).length))) 15

def groupCheck (c : Ctx) (s : State) : Option Bad :=
  let a := s.alloc? c.part (c.be 16 8)
  if c.be 2 2 = 0 then firstBad [badIf (decide (4096 ≤ c.be 0 2)) 7, groupStateBad c s]
  else firstBad [
    badIf a.isNone 5,
    badIf (decide (4096 ≤ c.be 0 2) || decide (c.be 2 2 < 2) || decide (4096 < c.be 2 2) || decide (c.be 2 2 ≤ c.be 4 2)
      || c.be 6 1 = 0 || decide (3 < c.be 6 1) || c.be 8 2 = 0 || c.be 10 2 = 0 || c.be 12 2 = 0
      || (decide (c.be 6 1 < 2) && c.be 10 2 ≠ 1) || (decide (c.be 6 1 < 3) && c.be 12 2 ≠ 1) || c.be 24 8 % 64 ≠ 0) 7,
    badIf (a.any fun a => decide (a.bytes < c.be 24 8 + 16 * c.be 2 2)) 6,
    groupStateBad c s ]

/-- CHUNK frames that wait for an operation of a tag are dropped with its group. -/
def State.dropGroup (s : State) (tag : Nat) : State :=
  { s with zhevub.groups := s.zhevub.groups.filter (·.tag ≠ tag)
           zhevub.waiting := s.zhevub.waiting.filter fun f => f.groupTag.toNat ≠ tag }

/-- The table is read once, the group checked and kept, and the completion stamped; a deletion removes the group. -/
def groupStart (c : Ctx) (k : Cmd) (s : State) : State :=
  let tag := c.be 0 2
  let s := { s with cmds := s.cmds ++ [{ k with work := .collGroup tag }] }
  if c.be 2 2 = 0 then (s.dropGroup tag).complete k.id 0 0 []
  else match s.alloc? c.part (c.be 16 8) with
    | none => s.complete k.id 0x0201 7 []
    | some a =>
      let va := a.base + c.be 24 8
      let n := 16 * c.be 2 2
      let (s, t) := s.touchAll c.part 0 false (sectorsOf va n)
      let s := s.damperCharge c.part t
      let g := groupOf c (s.readMem View.home c.part va n)
      if s.rangePoison View.home c.part va n then s.complete k.id 0x0301 0 []
      else if s.groupOk g then
        let s := s.dropGroup tag
        { s with zhevub.groups := s.zhevub.groups ++ [g] }.complete k.id 0 0 []
      else s.complete k.id 0x0201 7 []

def execCollGroup (p : Packet) (s : State) : Host.Outcome State Fault Refusal :=
  .next (notifyOp opCollGroup groupCheck never bestEffort nothing groupStart p s)

/-- COLL_GROUP with MEMBERS 0 (R444). -/
def execCollGroupDelete (p : Packet) (s : State) : Host.Outcome State Fault Refusal :=
  .next (notifyOp opCollGroup groupCheck never bestEffort nothing groupStart p s)

/-! ## COLL_POST (R447 to R449, R463) -/

def opCollPost : Op := { code := 0x0501, scope := .partition, notify := true, deadline := true, minLen := 16 }

/-- Entry `i` of a COLL_POST, its ranges at the addresses of their allocations. -/
def entryOf (c : Ctx) (s : State) (i : Nat) : CollEntry :=
  let o := 16 + 48 * i
  let f := c.be (o + 1) 1
  let base := fun h => ((s.alloc? c.part h).map (·.base)).getD 0
  { kind := c.be o 1, wireFormat := f % 16, reduceFormat := f / 16, memFormat := c.be (o + 2) 1,
    shiftDim := c.be (o + 3) 1 % 4, shiftBack := (c.be (o + 3) 1).testBit 7, peer := c.be (o + 4) 2, count := c.be (o + 8) 4,
    wireScale := c.be (o + 12) 4, srcHandle := c.be (o + 16) 8, srcOffset := c.be (o + 24) 8, dstHandle := c.be (o + 32) 8,
    dstOffset := c.be (o + 40) 8, srcVa := base (c.be (o + 16) 8) + c.be (o + 24) 8,
    dstVa := base (c.be (o + 32) 8) + c.be (o + 40) 8 }

def postEntries (c : Ctx) (s : State) : List CollEntry := (List.range (min 64 (c.be 2 2))).map (entryOf c s)

def CollEntry.width (e : CollEntry) : Nat := if e.memFormat = 0 then 4 else 2
/-- Source and destination bytes with `n` members (R448). -/
def CollEntry.srcBytes (e : CollEntry) (n : Nat) : Nat := e.width * (if e.kind = 1 then e.count * n else e.count)
def CollEntry.dstBytes (e : CollEntry) (n : Nat) : Nat := e.width * (if e.kind = 2 then e.count * n else e.count)

/-- Source and destination overlap where R448 does not allow it. -/
def CollEntry.clash (e : CollEntry) (n : Nat) : Bool :=
  decide (e.srcHandle = e.dstHandle) && decide (e.srcOffset < e.dstOffset + e.dstBytes n)
    && decide (e.dstOffset < e.srcOffset + e.srcBytes n)
    && !((e.kind = 0 || e.kind = 3) && e.srcOffset = e.dstOffset)

/-- The entry's fields are outside R447. -/
def CollEntry.fieldsBad (e : CollEntry) (g : Group) : Bool :=
  decide (6 ≤ e.kind) || !([0, 1, 2, 3, 5].contains e.wireFormat) || decide (2 ≤ e.reduceFormat)
    || decide (2 ≤ e.memFormat) || (e.kind = 4 && decide (g.dims ≤ e.shiftDim))
    || ((e.kind = 3 || e.kind = 5) && decide (g.size ≤ e.peer)) || e.count = 0 || !scaleWordOk e.wireScale
    || e.srcOffset % 64 ≠ 0 || e.dstOffset % 64 ≠ 0 || e.clash g.size

/-- Entries that R463 lets run as one. -/
def fusable : List CollEntry → Bool
  | [] => false
  | e :: es => [0, 2, 3].contains e.kind && es.all fun x =>
      x.kind = e.kind && x.wireFormat = e.wireFormat && x.reduceFormat = e.reduceFormat && x.memFormat = e.memFormat
        && x.wireScale = e.wireScale && (e.kind ≠ 3 || x.peer = e.peer)

def postFused (c : Ctx) : Bool := (c.be 4 2).testBit 1

def postCheck (c : Ctx) (s : State) : Option Bad :=
  let es := postEntries c s
  match (s.group? (c.be 0 2)).filter fun g => g.partition = c.part with
  | none => some (bad 5)
  | some g =>
    firstBad [
      badIf (c.be 2 2 = 0 || decide (64 < c.be 2 2)) 7,
      badIf (decide (c.params.length < 16 + 48 * c.be 2 2)) 2,
      badIf (es.any fun e => (s.alloc? c.part e.srcHandle).isNone || (s.alloc? c.part e.dstHandle).isNone) 5,
      badIf (decide (4 < c.be 6 1) || (es.any fun e => e.fieldsBad g) || (postFused c && !fusable es)) 7,
      badIf (es.any fun e =>
        ((s.alloc? c.part e.srcHandle).any fun a => decide (a.bytes < e.srcOffset + e.srcBytes g.size))
          || (s.alloc? c.part e.dstHandle).any fun a => decide (a.bytes < e.dstOffset + e.dstBytes g.size)) 6,
      badIf (g.stale || (c.p.deadline.toNat ≠ 0 && s.journalOpen c.part)) 15,
      s.unitBad 8 ]

def Cmd.consumer (c : Cmd) : Consumer :=
  { cmd := c.id, session := c.session, seq := c.seq, jobTag := c.jobTag, partition := c.partition }

def CollOp.blank (k : Cmd) (tag : Nat) : CollOp :=
  { id := 0, cmd := k.id, partition := k.partition, tag := tag, owner := k.consumer, journal := k.journal, entries := [],
    early := false, chunkCode := 0, fused := false, sequence := 0, signature := 0, phase := .waiting, step := 0, acc := [],
    incoming := [], outgoing := [], done := [], kept := [], permuteSource := none, saturated := 0, resends := 0,
    lastChunk := 0, releasedAt := 0, reporting := false, failed := false, reportDim := 0, reportHop := 0, reports := [],
    retract := none, consumers := [] }

/-- An accepted COLL_POST waits for a stoke boundary, its operations in table order. -/
def postStart (c : Ctx) (k : Cmd) (s : State) : State :=
  let tag := c.be 0 2
  let es := postEntries c s
  let (s, k) := s.joinJournal k
  let base := { CollOp.blank k tag with
    early := (c.be 4 2).testBit 0, chunkCode := c.be 6 1, fused := postFused c }
  let lists := if postFused c then [es] else es.map fun e => [e]
  let ops := (List.range lists.length).map fun i =>
    { base with id := s.zhevub.nextOp + i, entries := lists.getD i [] }
  let post : CollPost :=
    { cmd := k.id, partition := c.part, tag := tag, ops := ops.map (·.id), started := false, opsDone := 0, ended := false,
      saturated := 0, resends := 0 }
  { s with cmds := s.cmds ++ [{ k with work := .collPost tag }], zhevub.ops := s.zhevub.ops ++ ops,
           zhevub.posts := s.zhevub.posts ++ [post], zhevub.nextOp := s.zhevub.nextOp + ops.length }

def execCollPost (p : Packet) (s : State) : Host.Outcome State Fault Refusal :=
  .next (notifyOp opCollPost postCheck never byCost nothing postStart p s)

/-! ## Operations: what they move (R448, R452, R453) -/

def State.op? (s : State) (id : Nat) : Option CollOp := s.zhevub.ops.find? (·.id = id)
def State.modOp (s : State) (id : Nat) (f : CollOp → CollOp) : State :=
  { s with zhevub.ops := mapIf (·.id = id) f s.zhevub.ops }

def CollOp.kind (o : CollOp) : Nat := ((o.entries.head?).map (·.kind)).getD 0
def CollOp.head (o : CollOp) (f : CollEntry → Nat) : Nat := ((o.entries.head?).map f).getD 0
/-- COUNT, or a batch's total elements. -/
def CollOp.count (o : CollOp) : Nat := sumOf (·.count) o.entries
def CollOp.wire (o : CollOp) : Fmt := (fmtOf (o.head (·.wireFormat))).getD .fp32
def CollOp.mem (o : CollOp) : Fmt := (fmtOf (o.head (·.memFormat))).getD .fp32
def CollOp.scale (o : CollOp) : FVal := dec32 (o.head (·.wireScale))
def CollOp.view (o : CollOp) : View := { core := none, journal := o.journal }

/-- SIGNATURE of R453. -/
def CollOp.sign (o : CollOp) : Nat :=
  (if o.fused then 7 else o.kind) * 2 ^ 61 + o.head (·.wireFormat) * 2 ^ 57 + o.head (·.reduceFormat) * 2 ^ 56
    + o.count % 2 ^ 32 * 2 ^ 24 + o.tag * 2 ^ 12 + o.sequence

/-- Elements of the working vector with `n` members. -/
def CollOp.total (o : CollOp) (n : Nat) : Nat := if o.kind = 1 ∨ o.kind = 2 then o.count * n else o.count

/-- Segment `j` of the vector: COUNT ÷ n elements, rounded up for the leading segments; whole COUNTs in
REDUCE_SCATTER and ALL_GATHER; the vector itself in the other kinds. -/
def CollOp.segment (o : CollOp) (n j : Nat) : Nat × Nat :=
  match o.kind with
  | 0 => (j * (o.count / n) + min j (o.count % n), o.count / n + (if j < o.count % n then 1 else 0))
  | 1 | 2 => (j * o.count, o.count)
  | _ => (0, o.count)

/-- Where the vector's elements lie in the destination: from a vector index, a count, an address. -/
def CollOp.homes (o : CollOp) (g : Group) : List (Nat × Nat × Nat) :=
  let rec walk : Nat → List CollEntry → List (Nat × Nat × Nat)
    | _, [] => []
    | at_, e :: es =>
      (match o.kind with
       | 2 => (List.range g.size).map fun j => (j * o.count + at_, e.count, e.dstVa + j * e.count * e.width)
       | 1 => [(g.rank * o.count + at_, e.count, e.dstVa)]
       | _ => [(at_, e.count, e.dstVa)]) ++ walk (at_ + e.count) es
  walk 0 o.entries

/-- The destination ranges of an operation. -/
def CollOp.dstRanges (o : CollOp) (g : Group) : List (Nat × Nat) := o.entries.map fun e => (e.dstVa, e.dstBytes g.size)
def CollOp.dstSectors (o : CollOp) (g : Group) : List Nat := ((o.dstRanges g).map fun r => sectorsOf r.1 r.2).flatten.eraseDups

/-! ## The walk (R452) -/

/-- One algorithm step as this member takes part in it. -/
structure CollStep where
  send : Option Nat
  recv : Option Nat
  /-- any member may be the source (PERMUTE) -/
  any : Bool
  out_ : List Nat
  in_ : List Nat
  combine : Bool
  deriving DecidableEq, Repr

/-- Segments whose coordinates below dimension `k` are this member's. -/
def Group.heldSegments (g : Group) (k : Nat) : List Nat :=
  (List.range g.size).filter fun j => (List.range k).all fun i => g.coord i j = g.coord i g.rank

/-- One step of a ring along dimension `k`: segments at one coordinate go to the successor, and those one before it
come from the predecessor. -/
def Group.ringStep (g : Group) (k sendAt : Nat) (combine : Bool) : CollStep :=
  let d := g.dim k
  let held := g.heldSegments k
  { send := some (g.succ k g.rank), recv := some (g.pred k g.rank), any := false,
    out_ := held.filter fun j => g.coord k j = sendAt % d, in_ := held.filter fun j => g.coord k j = (sendAt + d - 1) % d,
    combine := combine }

def Group.reduceSteps (g : Group) (k : Nat) : List CollStep :=
  (List.range (g.dim k - 1)).map fun t => g.ringStep k (g.coord k g.rank + g.dim k - 1 - t) true
def Group.gatherSteps (g : Group) (k : Nat) : List CollStep :=
  (List.range (g.dim k - 1)).map fun t => g.ringStep k (g.coord k g.rank + g.dim k - t) false

/-- Broadcast along the ring of dimension `k`, from the members whose later coordinates are the root's. -/
def Group.broadcastSteps (g : Group) (root k : Nat) : List CollStep :=
  let d := g.dim k
  let off := (g.coord k g.rank + d - g.coord k root) % d
  let takes := (List.range 3).all fun i => decide (i ≤ k) || g.coord i g.rank = g.coord i root
  (List.range (d - 1)).map fun t =>
    { send := if takes && off = t then some (g.succ k g.rank) else none,
      recv := if takes && off = t + 1 then some (g.pred k g.rank) else none, any := false,
      out_ := if takes && off = t then [0] else [], in_ := if takes && off = t + 1 then [0] else [], combine := false }

def CollOp.steps (o : CollOp) (g : Group) : List CollStep :=
  match o.kind with
  | 0 => ([0, 1, 2].map g.reduceSteps).flatten ++ ([2, 1, 0].map g.gatherSteps).flatten
  | 1 => ([0, 1, 2].map g.reduceSteps).flatten
  | 2 => ([2, 1, 0].map g.gatherSteps).flatten
  | 3 => ([0, 1, 2].map (g.broadcastSteps (o.head (·.peer)))).flatten
  | 4 =>
    let k := o.head (·.shiftDim)
    let back := o.entries.any (·.shiftBack)
    [{ send := some (if back then g.pred k g.rank else g.succ k g.rank),
       recv := some (if back then g.succ k g.rank else g.pred k g.rank), any := false, out_ := [0], in_ := [0],
       combine := false }]
  | _ => [{ send := some (o.head (·.peer)), recv := none, any := true, out_ := [0], in_ := [0], combine := false }]

/-- Elements of a chunk. -/
def CollOp.perChunk (o : CollOp) : Nat := 65536 * 2 ^ o.chunkCode / (if o.head (·.reduceFormat) = 0 then 4 else 2)

/-- The chunks of a list of segments, in order: first element and count; the last of a segment holds the rest. -/
def CollOp.chunks (o : CollOp) (n : Nat) (segs : List Nat) : List (Nat × Nat) :=
  (segs.map fun j =>
    let (at_, len) := o.segment n j
    (List.range (ceilDiv len o.perChunk)).map fun i => (at_ + i * o.perChunk, min o.perChunk (len - i * o.perChunk))).flatten

/-- Chunks this member awaits in a step. -/
def CollOp.awaited (o : CollOp) (g : Group) (st : CollStep) : List (Nat × Nat) :=
  if st.recv = some g.rank then [] else if st.recv.isSome || st.any then o.chunks g.size st.in_ else []

/-! ## Wire bytes (R451) -/

def packCodes (bits : Nat) (cs : List Nat) : List Byte :=
  leBytes (ceilDiv (bits * cs.length) 8) (cs.foldr (fun c acc => acc * 2 ^ bits + c) 0)
def unpackCodes (bits n : Nat) (bs : List Byte) : List Nat :=
  let w := leNat bs
  (List.range n).map fun i => w / 2 ^ (bits * i) % 2 ^ bits

/-- Cut a list into pieces of `n`. -/
def pieces {α : Type} (n : Nat) (as : List α) : List (List α) :=
  (List.range (ceilDiv as.length n)).map fun i => (as.drop (i * n)).take n

/-- Encode values for the wire: the bytes, and the blocks that saturated. -/
def encodeWire (f : Fmt) (t : FVal) (vs : List FVal) : List Byte × Nat :=
  if f.wide then (packCodes f.bits (vs.map fun v => (writePlain v t.rat f).1), 0)
  else
    let blocks := (pieces f.block vs).map fun b => (b.length, writeBlock b t.rat f .ue4m3)
    (packCodes f.bits ((blocks.map fun b => b.2.codes.getD (List.replicate b.1 0)).flatten)
      ++ blocks.map (fun b => BitVec.ofNat 8 b.2.scale), sumOf (fun b : Nat × BlockOut => b.2.tally.saturated) blocks)

/-- Decode `n` values from the wire (R208). -/
def decodeWire (f : Fmt) (t : FVal) (n : Nat) (bs : List Byte) : List FVal :=
  let data := ceilDiv (f.bits * n) 8
  let codes := unpackCodes f.bits n (bs.take data)
  (List.range n).map fun i =>
    readElem f (if f.wide then .none else .ue4m3) (beAt bs (data + i / f.block) 1) (codes.getD i 0) t

/-- Add an incoming value in REDUCE_FORMAT, rounding once. -/
def CollOp.combine (o : CollOp) (a v : FVal) : FVal :=
  if o.head (·.reduceFormat) = 0 then add32 a v else rne16 (a.add v)

/-! ## Control frames: the spec gives their meaning and not their layout (log entry 23) -/

/-- code, flag, rank, chunk, two signatures, and two small numbers. -/
def control (code flag rank chunk sig sig2 a b : Nat) : List Byte :=
  beBytes 1 code ++ beBytes 1 flag ++ beBytes 2 rank ++ beBytes 4 chunk ++ beBytes 8 sig ++ beBytes 8 sig2 ++ beBytes 2 a
    ++ beBytes 2 b

/-- Send a CONTROL or CREDIT frame to a member, if a link toward it is UP. -/
def State.sendMember (s : State) (g : Group) (rank kind : Nat) (payload : List Byte) : State :=
  match s.quietest (g.linksTo rank) with
  | none => s
  | some k => s.sendFrame k kind 15 (g.serial rank) s.fuses.serial (if kind = kindCredit then 0 else g.tag) payload

def State.sendAll (s : State) (g : Group) (payload : List Byte) : State :=
  ((List.range g.size).filter (· ≠ g.rank)).foldl (fun s r => s.sendMember g r kindControl payload) s

/-! ## Reduction-buffer slots and credits (R452) -/

def valueOf (ks : List (Nat × Nat)) (k : Nat) : Nat := ((ks.find? (·.1 = k)).map Prod.snd).getD 0
def setValue (ks : List (Nat × Nat)) (k v : Nat) : List (Nat × Nat) := ks.filter (·.1 ≠ k) ++ [(k, v)]

/-- Slots of the buffers of the dies whose links lead to a member. -/
def CollOp.slots (o : CollOp) (g : Group) (rank : Nat) : Nat :=
  (((g.linksTo rank).map (· / 16)).eraseDups.length) * (16777216 / (65536 * 2 ^ o.chunkCode))

/-- Grant the members that this step receives from their share of the slots, beyond what they hold (log entry 24). -/
def State.grantStep (s : State) (o : CollOp) (g : Group) (st : CollStep) : State :=
  let sources := if st.any then (List.range g.size).filter (· ≠ g.rank) else (st.recv.toList).filter (· ≠ g.rank)
  let all := ((o.steps g).filterMap (·.recv)).eraseDups.length
  sources.foldl (fun s r =>
    let share := max 1 (o.slots g r / max 1 (max all sources.length))
    let held := valueOf s.zhevub.grants (g.serial r)
    if held < share then
      { s with zhevub.grants := setValue s.zhevub.grants (g.serial r) share }.sendMember g r kindCredit (beBytes 4 (share - held))
    else s) s

/-! ## Starting an operation and its steps -/

/-- The elements of the source, as FP32 values, entries laid end to end (R208, R463). -/
def State.sourceValues (s : State) (o : CollOp) (g : Group) : List FVal :=
  (o.entries.map fun e =>
    let n := e.srcBytes g.size / e.width
    (unpackCodes (8 * e.width) n (s.readMem o.view o.partition e.srcVa (e.srcBytes g.size))).map o.mem.decode).flatten

/-- Note a command as a consumer of the provisional results it has read (R459). -/
def State.consume (s : State) (c : Cmd) (ops : List Nat) : State :=
  let new := fun o : CollOp => ops.contains o.id && o.cmd ≠ c.id && !o.consumers.any (·.cmd = c.id)
  { s with zhevub.ops := mapIf new (fun o => { o with consumers := o.consumers ++ [c.consumer] }) s.zhevub.ops }

/-- Write elements of the working vector to the destination in MEM_FORMAT (R198). -/
def State.writeOut (s : State) (o : CollOp) (g : Group) (at_ n : Nat) : State :=
  let w := o.mem.bits / 8
  (o.homes g).foldl (fun s h =>
    let lo := max at_ h.1
    let hi := min (at_ + n) (h.1 + h.2.1)
    if hi ≤ lo then s
    else
      let bs := packCodes (8 * w) (((o.acc.drop lo).take (hi - lo)).map fun v => (o.mem.write (dec32 v)).code)
      let va := h.2.2 + (lo - h.1) * w
      let (s, t) := s.touchAll o.partition 0 true (sectorsOf va bs.length)
      (s.writeRange o.view o.partition va bs false).damperCharge o.partition t) s

/-- Chunks that a step sends, encoded from the working vector; BROADCAST passes on the bytes the root encoded. -/
def CollOp.stepOut (o : CollOp) (g : Group) (st : CollStep) : List ChunkOut × Nat :=
  match st.send with
  | none => ([], 0)
  | some dest =>
    if dest = g.rank then ([], 0)
    else
      let cs := o.chunks g.size st.out_
      let encoded := (List.range cs.length).map fun i =>
        let (at_, n) := cs.getD i (0, 0)
        let (bs, sat) := encodeWire o.wire o.scale (((o.acc.drop at_).take n).map dec32)
        match o.kept.find? (·.1 = i) with
        | some k => (k.2, 0)
        | none => (bs, sat)
      ((List.range cs.length).map fun i =>
        { step := o.step, chunk := i, dest := dest, source := if o.kind = 3 then o.head (·.peer) else g.rank,
          bytes := (encoded.getD i ([], 0)).1, sent := false, resends := 0 },
       sumOf Prod.snd encoded)

/-- Begin the step that the operation stands at. -/
def State.beginStep (s : State) (id : Nat) (g : Group) : State :=
  match s.op? id with
  | none => s
  | some o =>
    match (o.steps g)[o.step]? with
    | none => s
    | some st =>
      let (out, sat) := o.stepOut g st
      (s.modOp id fun o =>
        { o with outgoing := o.outgoing ++ out, saturated := o.saturated + sat, done := [], lastChunk := s.clock.steady }).grantStep o g st

/-- What the working vector holds at first. -/
def CollOp.initial (o : CollOp) (g : Group) (src : List FVal) : List Nat :=
  match o.kind with
  | 2 => List.replicate (g.rank * o.count) 0 ++ src.map enc32 ++ List.replicate ((g.size - 1 - g.rank) * o.count) 0
  | 3 => if g.rank = o.head (·.peer) then src.map enc32 else List.replicate o.count 0
  | _ => src.map enc32

/-- The part of the result that the member's own source gives: its segment of an ALL_GATHER, the root's own copy, and a
SHIFT or PERMUTE to itself. -/
def CollOp.ownPart (o : CollOp) (g : Group) : Nat × Nat :=
  match o.kind with
  | 2 => o.segment g.size g.rank
  | 3 => if g.rank = o.head (·.peer) then (0, o.count) else (0, 0)
  | 4 => if (o.steps g).all fun st => st.send = some g.rank then (0, o.count) else (0, 0)
  | 5 => if o.head (·.peer) = g.rank then (0, o.count) else (0, 0)
  | _ => (0, 0)

/-- Start an operation: it takes the group's next sequence number, reads its source, and begins its first step. -/
def State.startOp (s : State) (id : Nat) : State :=
  match s.op? id with
  | none => s
  | some o =>
    match s.group? o.tag with
    | none => s
    | some g =>
      let reads := o.kind ≠ 3 || g.rank = o.head (·.peer)
      let ranges := if reads then o.entries.map fun e => (e.srcVa, e.srcBytes g.size) else []
      let src := if reads then s.sourceValues o g else []
      let sectors := (ranges.map fun r => sectorsOf r.1 r.2).flatten
      let poisoned := ranges.any fun r => s.rangePoison o.view o.partition r.1 r.2
      let used := (ranges.map fun r => s.provisionalIn o.partition r.1 r.2).flatten
      let (s, t) := s.touchAll o.partition 0 false sectors
      let s := s.damperCharge o.partition t
      let s := match s.cmd? o.cmd with
        | some c => s.consume c used
        | none => s
      let peers := ((o.steps g).map fun st => st.send.toList ++ st.recv.toList).flatten.eraseDups
      let links := (peers.map g.linksTo).flatten.filter s.linkUp
      let s := s.modCmd o.cmd fun c =>
        { c with poisoned := c.poisoned || poisoned, links := setUnion c.links links, hbmSet := setUnion c.hbmSet t.hbmSet }
      let o := { o with sequence := g.sequence, phase := .running, acc := o.initial g src, lastChunk := s.clock.steady,
                        permuteSource := if o.kind = 5 ∧ o.head (·.peer) = g.rank then some g.rank else none }
      let o := { o with signature := o.sign }
      let s := s.modOp id fun _ => o
      let s := { s with zhevub.groups := mapIf (·.tag = o.tag) (fun g => { g with sequence := (g.sequence + 1) % 4096 }) s.zhevub.groups }
      let (at_, n) := o.ownPart g
      (if n = 0 then s else s.writeOut o g at_ n).beginStep id g

/-! ## The end of operations and posts (R450, R453, R462) -/

/-- Poison the destination of an operation, without MEMORY_UNCORRECTABLE (R453, R460). -/
def State.poisonSectors (s : State) (o : CollOp) (sectors : List Nat) : State :=
  match s.journalOf o.journal with
  | some _ =>
    sectors.foldl (fun s a =>
      match s.journalFor o.view o.partition a with
      | some j => s.modJournal j.handle fun j => { j with shadowPoison := setAdd j.shadowPoison (memKey o.partition a) }
      | none => s.poisonHome o.partition [a]) s
  | none => s.poisonHome o.partition sectors

/-- A COLL_POST fails: its operations end, and in a journal its step fails. -/
def State.failPost (s : State) (cmd status offender sig : Nat) : State :=
  match s.zhevub.posts.find? (·.cmd = cmd) with
  | none => s
  | some p =>
    let payload := postPayload p false offender sig
    match s.cmd? cmd with
    | none => s
    | some c =>
      match s.journalOf c.journal with
      | some j =>
        let s := s.modJournal j.handle fun j => { j with ended := j.ended ++ [{ cmd := cmd, payload := payload }] }
        (((s.journalOf j.handle).map fun j => s.failJournal j status 0).getD s).stepEnded c.partition (1, j.handle)
          (1, j.handle, j.attempt) false
      | none =>
        let go := fun o : CollOp => decide (o.cmd = cmd) && decide (o.phase ≠ .released)
        let s := s.unmark go
        { s with zhevub.ops := s.zhevub.ops.filter fun o => !go o
                 zhevub.posts := s.zhevub.posts.filter (·.cmd ≠ cmd) }.complete cmd (c.endStatus status) 0 payload

/-- An operation ends as a mismatch, or as one under status POISONED: its destination is poisoned and its group STALE
(R453). -/
def State.breakOp (s : State) (o : CollOp) (status offender sig : Nat) : State :=
  let sectors := ((s.group? o.tag).map o.dstSectors).getD []
  let s := s.poisonSectors o sectors
  let s := { s with
    zhevub.groups := mapIf (·.tag = o.tag) (fun g => { g with stale := true }) s.zhevub.groups
    zhevub.mismatches := satAdd 32 s.zhevub.mismatches (b2n (decide (status = 0x0303))) }
  s.failPost o.cmd status offender sig

/-- Break an operation here, and on every member that an ABORT can reach. -/
def State.abortOp (s : State) (o : CollOp) (status offender sig : Nat) : State :=
  let s := match s.group? o.tag with
    | some g => s.sendAll g (control 1 (b2n (decide (status = 0x0301))) offender 0 o.signature sig 0 0)
    | none => s
  s.breakOp o status offender sig

/-- An operation of a post is done: the next one starts, or the COLL_POST completes (R449, R450). -/
def State.opDone (s : State) (o : CollOp) : State :=
  match s.zhevub.posts.find? (·.cmd = o.cmd) with
  | none => s
  | some p =>
    let p := { p with opsDone := p.opsDone + 1, saturated := satAdd 32 p.saturated o.saturated,
                      resends := satAdd 32 p.resends o.resends }
    let s := { s with zhevub.posts := mapIf (·.cmd = o.cmd) (fun _ => p) s.zhevub.posts }
    match p.ops[p.opsDone]? with
    | some next => s.startOp next
    | none =>
      let prov := s.zhevub.ops.any fun x => x.cmd = o.cmd && x.phase = .released
      let journalled := (s.cmd? o.cmd).any fun c => c.journal ≠ 0
      let s := s.endCmd o.cmd 0 0 (postPayload p prov 0xFFFF 0)
      if journalled then { s with zhevub.posts := mapIf (·.cmd = o.cmd) (fun p => { p with ended := true }) s.zhevub.posts }
      else { s with zhevub.posts := s.zhevub.posts.filter (·.cmd ≠ o.cmd)
                    zhevub.ops := s.zhevub.ops.filter fun x => x.cmd ≠ o.cmd || x.phase = .released }

/-! ## Retraction (R458 to R462) -/

/-- The journals, open or committing, that a retraction reaches: that of the operation, and those of its consumers. -/
def State.reachedJournals (s : State) (o : CollOp) : List Nat :=
  ((o.journal :: o.consumers.map fun k => ((s.cmd? k.cmd).map (·.journal)).getD 0).filter fun j =>
    (s.journalOf j).any fun j => j.failed = 0).eraseDups

/-- A retraction reaches a journal: its launches stop, and the step replays once they have (R462). -/
def State.retractJournal (s : State) (h : Nat) : State :=
  match s.journalOf h with
  | none => s
  | some j =>
    let running := s.seqs.runs.filter fun r => r.started && s.runJournal r = h
    let limit := (s.watchOf j.partition).policy.replayLimit
    if running.isEmpty then
      if limit ≤ j.attempt then
        (s.failJournal j 0x0304 0).stepEnded j.partition (1, h) (1, h, j.attempt) false
      else s.replayJournal j
    else running.foldl State.haltRun (s.modJournal h fun j => { j with retracted := true })

/-- What a retraction does to one command outside a journal: it ends TAINTED, or receives a second record (R460). -/
def State.taint (event sig : Nat) (s : State) (k : Consumer) : State :=
  let s := { s with zhevub.tainted := satAdd 32 s.zhevub.tainted 1 }
  match s.cmd? k.cmd with
  | some _ => s.modCmd k.cmd fun c => { c with tainted := true }
  | none =>
    let (seq, s) := s.stamp
    s.deliver k.session
      { kind := 1, partition := k.partition, code := 0x0302, cause := 0, eventSeq := seq, mediaTime := s.clock.mt,
        cmdSeq := k.seq, jobTag := k.jobTag, payload := beBytes 8 event ++ beBytes 8 sig }

/-- The RETRACT payload (R461). -/
def retractPayload (o : CollOp) (r : Retraction) : List Byte :=
  beBytes 8 o.signature ++ beBytes 2 o.tag ++ beBytes 2 r.detector ++ beBytes 2 r.source ++ zeros 2 ++ beBytes 4 r.chunk
    ++ beBytes 4 o.consumers.length ++ beBytes 4 o.owner.seq ++ zeros 4

/-- Retract one operation: the state, and the operations of consumers that are COLL_POSTs. -/
def State.retractOne (s : State) (o : CollOp) (r : Retraction) : State × List Nat :=
  let s := s.raise 0x0701 o.partition r.cause (retractPayload o r)
  let event := s.net.eventSeq
  let s := match s.group? o.tag with
    | some g => s.sendAll g (control 5 r.cause r.source r.chunk o.signature 0 r.detector 0)
    | none => s
  let marked := (s.mem.provisional.filter (·.2 = o.id)).map fun k => k.1 % 2 ^ 48
  let s := (s.poisonSectors o marked).unmark fun x => x.id = o.id
  let s := { s with zhevub.retracts := satAdd 32 s.zhevub.retracts 1 }
  let journals := s.reachedJournals o
  let outside := fun k : Consumer => !journals.contains (((s.cmd? k.cmd).map (·.journal)).getD 0) || (s.cmd? k.cmd).isNone
  let upstream := (s.zhevub.ops.filter fun x => x.id ≠ o.id && x.phase ≠ .waiting && o.consumers.any fun k => k.cmd = x.cmd).map (·.id)
  let s := (o.consumers.filter outside).foldl (State.taint event o.signature) s
  let s := if journals.contains o.journal then s.modOp o.id fun o => { o with phase := .retracted, retract := none }
    else { (State.taint event o.signature s o.owner) with
      zhevub.tainted := s.zhevub.tainted
      zhevub.ops := s.zhevub.ops.filter (·.id ≠ o.id) }
  (journals.foldl State.retractJournal s, upstream)

/-- Retract operations, each at once when it is released here, and otherwise when it is; a consumer that is a COLL_POST
retracts its own operation with qualifier UPSTREAM. -/
def State.retractOps : Nat → List (Nat × Retraction) → State → State
  | 0, _, s => s
  | _, [], s => s
  | n + 1, (id, r) :: rest, s =>
    match s.op? id with
    | none => State.retractOps n rest s
    | some o =>
      if o.phase = .released then
        let (s, up) := s.retractOne o r
        State.retractOps n (rest ++ up.map fun u => (u, { cause := 2, detector := r.detector, source := 0xFFFF, chunk := 0 })) s
      else if o.phase = .running then
        State.retractOps n rest (s.modOp id fun o => { o with failed := true, retract := some (o.retract.getD r) })
      else State.retractOps n rest s

def State.retractOp (s : State) (id : Nat) (r : Retraction) : State := s.retractOps (2 * s.zhevub.ops.length + 2) [(id, r)]

/-! ## Settlement (R458) -/

/-- The next dimension from `k` on with more than one member. -/
def Group.nextDim (g : Group) (k : Nat) : Option Nat := ([0, 1, 2].filter fun i => decide (k ≤ i) && decide (1 < g.dim i)).head?

/-- Send this member's combined report for one hop. -/
def State.sendReport (s : State) (o : CollOp) (g : Group) (failed : Bool) (k hop : Nat) : State :=
  s.sendMember g (g.succ k g.rank) kindControl (control 4 (b2n failed) g.rank 0 o.signature 0 k hop)

/-- Every chunk has been checked: the member's reports begin. -/
def State.beginReports (s : State) (o : CollOp) (g : Group) : State :=
  match g.nextDim 0 with
  | none => s.modOp o.id fun o => { o with reporting := true, reportDim := 3, reportHop := 0 }
  | some k => (s.modOp o.id fun o => { o with reporting := true, reportDim := k, reportHop := 0 }).sendReport o g o.failed k 0

/-- The operation is settled: verified results are released, and early ones are no longer provisional. -/
def State.settleOp (s : State) (o : CollOp) : State :=
  let s := (s.unmark fun x => x.id = o.id).modOp o.id fun o => { o with phase := .settled }
  if o.early then
    if (s.zhevub.posts.any (·.cmd = o.cmd)) then s else { s with zhevub.ops := s.zhevub.ops.filter (·.id ≠ o.id) }
  else s.opDone o

/-- A report that the member awaits has come: combine it, and send the next (R458). -/
def State.takeReport (s : State) (o : CollOp) (g : Group) (failed : Bool) : State :=
  let bad := o.failed || failed
  let rest := o.reports.filter fun r => r.1 ≠ o.reportDim || r.2.1 ≠ o.reportHop
  let o := { o with failed := bad, reports := rest }
  let hop := o.reportHop + 1
  if hop < g.dim o.reportDim - 1 then
    (s.modOp o.id fun _ => { o with reportHop := hop }).sendReport o g bad o.reportDim hop
  else match g.nextDim (o.reportDim + 1) with
    | some k => (s.modOp o.id fun _ => { o with reportDim := k, reportHop := 0 }).sendReport o g bad k 0
    | none => s.modOp o.id fun _ => { o with reportDim := 3 }

/-! ## Chunks received (R451, R455 to R457) -/

/-- All frames of the chunk have arrived. -/
def ChunkIn.complete (c : ChunkIn) : Bool := decide (0 < c.count) && decide (c.count ≤ c.frames)

/-- The chunk's wire bytes, each frame at its BYTE_OFFSET. -/
def ChunkIn.wire (c : ChunkIn) : List Byte :=
  let n := (c.bytes.map fun b => b.1 + b.2.length).foldl max 0
  c.bytes.foldl (fun w b => (w.take b.1 ++ b.2 ++ w.drop (b.1 + b.2.length))) (zeros n)

/-- A chunk's slot is free again: the sender is granted another (R452). -/
def State.freeSlot (s : State) (g : Group) (rank : Nat) : State := s.sendMember g rank kindCredit (beBytes 4 1)

/-- A link counts a chunk that failed its checksum (R441); the second within a second takes it out of use (R434). -/
def State.countChecksum (s : State) (k : Nat) : State :=
  s.modLink k fun l =>
    { l with checksumFails := satAdd 8 l.checksumFails 1, sumTimes := recent s.clock.steady l.sumTimes ++ [s.clock.steady] }

/-- Use a chunk of the current step: combine it with, or place it in, the working vector, and write what is final. -/
def State.useChunk (s : State) (o : CollOp) (g : Group) (st : CollStep) (c : ChunkIn) : State :=
  let (at_, n) := (o.awaited g st).getD c.chunk (0, 0)
  let wire := c.wire
  let vs := decodeWire o.wire o.scale n wire
  let new := (List.range n).map fun i =>
    let v := vs.getD i .zero
    if st.combine then enc32 (o.combine (dec32 (o.acc.getD (at_ + i) 0)) v) else enc32 v
  let acc := o.acc.take at_ ++ new ++ o.acc.drop (at_ + n)
  let o := { o with
    acc := acc, done := setAdd o.done c.chunk, lastChunk := s.clock.steady,
    incoming := o.incoming.filter fun x => x.step ≠ c.step || x.chunk ≠ c.chunk,
    kept := if o.kind = 3 then o.kept ++ [(c.chunk, wire)] else o.kept,
    permuteSource := if st.any then some c.source else o.permuteSource }
  let final := !st.combine || ((o.steps g)[o.step + 1]?).all fun x => !x.combine
  let s := s.modOp o.id fun _ => o
  let s := if final then s.writeOut o g at_ n else s
  let s := if o.early then s else s.sendMember g c.source kindControl (control 2 0 g.rank c.chunk o.signature 0 c.step 0)
  s.freeSlot g c.source

/-- A chunk of the current step is complete: check it, then use it, ask for it again, or give the operation up. -/
def State.takeChunk (s : State) (o : CollOp) (g : Group) (st : CollStep) (c : ChunkIn) : State :=
  if crc32c c.wire = c.checksum then s.useChunk o g st c
  else
    let s := s.countChecksum c.link
    if o.early then
      (s.useChunk o g st c).retractOp o.id { cause := 0, detector := g.rank, source := c.source, chunk := c.chunk }
    else if c.resends < 3 then
      (s.modOp o.id fun o => { o with
        incoming := mapIf (fun x => x.step = c.step && x.chunk = c.chunk)
          (fun x => { x with count := 0, frames := 0, bytes := [], resends := x.resends + 1 }) o.incoming }).sendMember g c.source
        kindControl (control 3 0 g.rank c.chunk o.signature 0 c.step 0)
    else s.abortOp o 0x0301 0xFFFF 0

/-! ## The engine (R449, R452, R457, R458) -/

/-- The last chunk of the last step has been used: an early operation is released, and reports begin. -/
def State.endReceive (s : State) (o : CollOp) (g : Group) : State :=
  if o.early then
    let marks := (o.dstSectors g).map fun a => (memKey o.partition a, o.id)
    let s := { s with mem.provisional := s.mem.provisional ++ marks }
    let s := s.modOp o.id fun o => { o with phase := .released, releasedAt := s.clock.steady }
    let s := s.beginReports { o with phase := .released } g
    let s := s.opDone o
    match o.retract with
    | some r => s.retractOp o.id r
    | none => s
  else s.beginReports o g

/-- One thing that an operation can do now. -/
def State.stirOp (s : State) (o : CollOp) : Option State :=
  match s.group? o.tag with
  | none => none
  | some g =>
    if o.reporting then
      if o.phase ≠ .running && o.phase ≠ .released then none
      else if 3 ≤ o.reportDim then
        some (if o.failed then s.retractOp o.id { cause := 0, detector := g.rank, source := 0xFFFF, chunk := 0 } else s.settleOp o)
      else (o.reports.find? fun r => r.1 = o.reportDim && r.2.1 = o.reportHop).map fun r => s.takeReport o g r.2.2
    else if o.phase ≠ .running then none
    else match (o.steps g)[o.step]? with
      | none => some (s.endReceive o g)
      | some st =>
        if (o.awaited g st).length ≤ o.done.length then
          some ((s.modOp o.id fun o => { o with step := o.step + 1, done := [] }).beginStep o.id g)
        else (o.incoming.find? fun c => c.step = o.step && c.complete).map fun c => s.takeChunk o g st c

/-- Do what can be done, up to `n` things. -/
def State.stirOps : Nat → State → State
  | 0, s => s
  | n + 1, s =>
    match s.zhevub.ops.findSome? s.stirOp with
    | some t => State.stirOps n t
    | none => s

/-- More than the things that the operations here can do without another frame. -/
def State.stirBound (s : State) : Nat :=
  s.zhevub.ops.length * (s.zhevub.waiting.length + 8)
    + sumOf (fun o : CollOp => o.incoming.length + o.reports.length
        + ((s.group? o.tag).map fun g => (o.steps g).length + g.size).getD 0) s.zhevub.ops

def State.stir (s : State) : State := s.stirOps s.stirBound

/-! ## Lost links (R464) -/

/-- Move the unacknowledged frames of a lost link onto other UP links of the same masks; frames with none are dropped. -/
def State.moveFrames (s : State) (k : Nat) : State :=
  let sent := (s.linkAt k).replay
  let s := s.modLink k fun l => { l with replay := [] }
  sent.foldl (fun s f =>
    if f.kind = kindChunk ∨ f.kind = kindControl then
      match (s.group? f.frame.groupTag.toNat).bind fun g => g.memberOf f.frame.dest.toNat with
      | none => s
      | some m =>
        match s.quietest m.links with
        | some j => s.sendFrame j f.kind f.frame.hops.toNat f.frame.dest.toNat f.frame.src.toNat f.frame.groupTag.toNat f.frame.payload
        | none => s
    else s) s

/-- Members that an operation sends to or receives from. -/
def CollOp.peers (o : CollOp) (g : Group) : List Nat :=
  (((o.steps g).map fun st => st.send.toList ++ st.recv.toList).flatten.filter (· ≠ g.rank)).eraseDups

/-- An operation one of whose members has no link UP toward it is given up. -/
def State.cutOps (s : State) : State :=
  (s.zhevub.ops.filter (·.phase = .running)).foldl (fun s o =>
    match s.group? o.tag, s.op? o.id with
    | some g, some o => if (o.peers g).any fun r => (s.quietest (g.linksTo r)).isNone then s.abortOp o 0x0301 0xFFFF 0 else s
    | _, _ => s) s

/-- A link leaves UP: R434, R443, R464. -/
def State.loseLink (s : State) (k : Nat) (st : LinkState) (reason : Nat) : State :=
  let was := s.linkUp k
  let s := s.changeLink k st reason
  if was then (s.moveFrames k).cutOps else s

/-- Two chunks that arrived on a link within a second failed their checksums: it is DEGRADED (R434). -/
def State.watchChecksums (s : State) (k : Nat) : State :=
  if (s.linkAt k).state = .up ∧ 2 ≤ (recent s.clock.steady (s.linkAt k).sumTimes).length then s.loseLink k .degraded 6 else s

def State.settleLinks (s : State) : State := (List.range 64).foldl State.watchChecksums s

/-! ## CHUNK (R436, R453) -/

/-- The current operation of a tag: running, with chunks still awaited. -/
def State.currentOp (s : State) (tag : Nat) : Option CollOp :=
  s.zhevub.ops.find? fun o => o.tag = tag && o.phase = .running && !o.reporting

/-- A frame of a chunk joins what has arrived of it. -/
def CollOp.addFrame (o : CollOp) (f : Frame) (now : Nat) : CollOp :=
  let p := f.payload
  let step := beAt p 12 2
  let chunk := beAt p 8 4
  let last := decide (beAt p 14 2 + 1 = beAt p 16 2)
  let old := (o.incoming.find? fun c => c.step = step && c.chunk = chunk).getD
    { step := step, chunk := chunk, source := beAt p 18 2, link := f.link, count := 0, frames := 0, bytes := [], checksum := 0,
      resends := 0 }
  let new := { old with
    source := beAt p 18 2, link := f.link, count := beAt p 16 2, frames := old.frames + 1,
    bytes := old.bytes ++ [(beAt p 20 4, p.drop 32)], checksum := if last then beAt p 24 4 else old.checksum }
  { o with incoming := (o.incoming.filter fun c => c.step ≠ step || c.chunk ≠ chunk) ++ [new], lastChunk := now }

/-- The chunk disagrees with the operation: another signature, a BROADCAST root other than the receiver's PEER, or a
second PERMUTE source (R453). -/
def CollOp.disagrees (o : CollOp) (p : List Byte) : Bool :=
  beAt p 0 8 ≠ o.signature || (o.kind = 3 && beAt p 18 2 ≠ o.head (·.peer))
    || (o.kind = 5 && o.permuteSource.any fun r => r ≠ beAt p 18 2)
    || (o.kind = 5 && o.incoming.any fun c => c.source ≠ beAt p 18 2)

/-- A CHUNK frame for this module. -/
def State.chunkFrame (f : Frame) (s : State) : State :=
  let p := f.payload
  let tag := f.groupTag.toNat
  if p.length < 32 ∨ (s.group? tag).isNone then s
  else match s.currentOp tag with
    | none =>
      if s.zhevub.ops.any fun o => o.tag = tag && o.phase ≠ .waiting && o.signature = beAt p 0 8 then s
      else { s with zhevub.waiting := s.zhevub.waiting ++ [f] }
    | some o =>
      if o.disagrees p then s.abortOp o 0x0303 (beAt p 18 2) (beAt p 0 8)
      else if beAt p 12 2 < o.step ∨ (beAt p 12 2 = o.step ∧ o.done.contains (beAt p 8 4)) then s
      else s.modOp o.id fun o => o.addFrame f s.clock.steady

/-- Frames that waited for an operation of their tag to start are taken in; those whose tag still has none wait on. -/
def State.takeWaiting (s : State) : State :=
  let fs := s.zhevub.waiting
  fs.foldl (fun s f => s.chunkFrame f) { s with zhevub.waiting := [] }

/-- Let the engine run: operations, then frames that waited for one, until nothing changes. -/
def State.bellowsRun : Nat → State → State
  | 0, s => s
  | n + 1, s =>
    let t := s.stir
    if t.zhevub.waiting.any fun f => (t.currentOp f.groupTag.toNat).isSome then State.bellowsRun n t.takeWaiting else t

def State.bellows (s : State) : State := (s.bellowsRun (s.zhevub.waiting.length + s.zhevub.ops.length + 1)).settleLinks

def execChunk (e : Env) (f : Frame) (s : State) : Host.Outcome State Fault Refusal :=
  .next (((enter e s).frameIn f kindChunk (State.chunkFrame f)).bellows)

/-! ## CHUNK_SEND (R452, 15 R477, R480) -/

/-- The link that a chunk takes: striped round-robin over the UP links of the destination's LINK_MASK. -/
def State.chunkLink (s : State) (g : Group) (c : ChunkOut) : Option Nat :=
  let ups := (g.linksTo c.dest).filter s.linkUp
  if ups.isEmpty then none else ups[c.chunk % ups.length]?

/-- Frames of a chunk's wire bytes. -/
def chunkPayloads (o : CollOp) (c : ChunkOut) : List (List Byte) :=
  let parts := pieces 4064 c.bytes
  (List.range parts.length).map fun i =>
    beBytes 8 o.signature ++ beBytes 4 c.chunk ++ beBytes 2 c.step ++ beBytes 2 i ++ beBytes 2 parts.length
      ++ beBytes 2 c.source ++ beBytes 4 (4064 * i) ++ beBytes 4 (if i + 1 = parts.length then crc32c c.bytes else 0)
      ++ zeros 4 ++ parts.getD i []

/-- Bytes a chunk puts on its link. -/
def chunkWire (c : ChunkOut) : Nat := c.bytes.length + 68 * ceilDiv c.bytes.length 4064

/-- A chunk that die `d` may start now, credit and Damper allowing. -/
def State.chunkReady (s : State) (d : Nat) (o : CollOp) (c : ChunkOut) : Bool :=
  match s.group? o.tag with
  | none => false
  | some g =>
    !c.sent && (s.chunkLink g c).any (fun k => k / 16 = d) && decide (0 < valueOf s.zhevub.credits (g.serial c.dest))
      && s.damperAdmits o.partition 2 (chunkWire c)

/-- Waiting units in the order of 15 R480: deadline work first, earliest deadline first, then order of acceptance. -/
def State.unitBefore (s : State) (a b : Nat) : Bool :=
  let da : Nat := ((s.cmd? a).map fun c => if c.contract then c.deadline else 0).getD 0
  let db : Nat := ((s.cmd? b).map fun c => if c.contract then c.deadline else 0).getD 0
  if da ≠ 0 ∧ db ≠ 0 then decide (da < db) || (da = db && decide (a < b))
  else if da ≠ 0 then true else if db ≠ 0 then false else decide (a < b)

/-- Send one chunk: all its frames, against a credit. In verified release it is held until acknowledged. -/
def State.sendChunk (s : State) (o : CollOp) (g : Group) (c : ChunkOut) (k : Nat) : State :=
  let serial := g.serial c.dest
  let s := { s with zhevub.credits := setValue s.zhevub.credits serial (valueOf s.zhevub.credits serial - 1) }
  let s := s.modDamper o.partition 2 fun d =>
    d.request { bytes := chunkWire c, unit := chunkWire c, urgent := false, waiter := .chunk o.id }
  let s := (chunkPayloads o c).foldl (fun s p => s.sendFrame k kindChunk 15 serial s.fuses.serial o.tag p) s
  let same := fun x : ChunkOut => x.step = c.step && x.chunk = c.chunk && x.dest = c.dest
  s.modOp o.id fun o => { o with
    outgoing := if o.early then o.outgoing.filter fun x => !same x else mapIf same (fun x => { x with sent := true }) o.outgoing }

def State.bellowsSend (s : State) (d : Nat) : State :=
  let ready := s.zhevub.ops.filter fun o => (o.phase = .running || o.phase = .released) && o.outgoing.any (s.chunkReady d o)
  match (sortBy (fun a b : CollOp => s.unitBefore a.cmd b.cmd) ready).head? with
  | none => s
  | some o =>
    match s.group? o.tag, o.outgoing.find? (s.chunkReady d o) with
    | some g, some c => match s.chunkLink g c with
      | some k => s.sendChunk o g c k
      | none => s
    | _, _ => s

def execChunkSend (e : Env) (die : Nat) (s : State) : Host.Outcome State Fault Refusal :=
  .next ((enter e s).bellowsSend die)

/-! ## Credits and control frames -/

/-- LINK_CREDIT: slots granted by the sender of the frame (R452). -/
def execLinkCredit (e : Env) (f : Frame) (s : State) : Host.Outcome State Fault Refusal :=
  .next ((enter e s).frameIn f kindCredit fun s =>
    { s with zhevub.credits := setValue s.zhevub.credits f.src.toNat (valueOf s.zhevub.credits f.src.toNat + beAt f.payload 0 4) })

/-- ABORT: the operation of the tag that runs here ends with COLL_MISMATCH or POISONED (R453, R456). -/
def State.abortIn (f : Frame) (s : State) : State :=
  match s.zhevub.ops.find? fun o => o.tag = f.groupTag.toNat && o.phase = .running with
  | some o => s.breakOp o (if beAt f.payload 1 1 = 1 then 0x0301 else 0x0303) (beAt f.payload 2 2) (beAt f.payload 16 8)
  | none => s

def execAbortFrame (e : Env) (f : Frame) (s : State) : Host.Outcome State Fault Refusal :=
  .next (((enter e s).frameIn f kindControl (State.abortIn f)).bellows)

/-- The operation that a control frame's signature names. -/
def State.opOf (s : State) (f : Frame) : Option CollOp :=
  s.zhevub.ops.find? fun o => o.tag = f.groupTag.toNat && (o.phase = .running || o.phase = .released) && o.signature = beAt f.payload 8 8

/-- A chunk that a control frame of the member `f.src` names. -/
def State.chunkNamed (s : State) (f : Frame) (o : CollOp) (c : ChunkOut) : Bool :=
  c.chunk = beAt f.payload 4 4 && c.step = beAt f.payload 24 2 && c.sent
    && (s.group? o.tag).any fun g => g.serial c.dest = f.src.toNat

/-- CHUNK_ACKNOWLEDGE: the sender's slot is free (R456). -/
def execChunkAcknowledge (e : Env) (f : Frame) (s : State) : Host.Outcome State Fault Refusal :=
  .next ((enter e s).frameIn f kindControl fun s =>
    match s.opOf f with
    | some o => s.modOp o.id fun o => { o with outgoing := o.outgoing.filter fun c => !s.chunkNamed f o c }
    | none => s)

/-- CHUNK_REQUESTED_AGAIN: the chunk is sent again, at most 3 times (R456). -/
def execChunkRequestedAgain (e : Env) (f : Frame) (s : State) : Host.Outcome State Fault Refusal :=
  .next ((enter e s).frameIn f kindControl fun s =>
    match s.opOf f with
    | some o =>
      if o.outgoing.any fun c => s.chunkNamed f o c && decide (c.resends < 3) then
        { s with zhevub.resends := satAdd 32 s.zhevub.resends 1 }.modOp o.id fun o =>
          { o with resends := o.resends + 1
                   outgoing := mapIf (fun c => s.chunkNamed f o c && decide (c.resends < 3))
                     (fun c => { c with sent := false, resends := c.resends + 1 }) o.outgoing }
      else s
    | none => s)

/-- SETTLE_REPORT: a failed report retracts, a clean one is combined in its turn (R458). -/
def State.reportIn (f : Frame) (s : State) : State :=
  match s.opOf f with
  | some o =>
    let failed := decide (beAt f.payload 1 1 ≠ 0)
    let s := s.modOp o.id fun o => { o with reports := o.reports ++ [(beAt f.payload 24 2, beAt f.payload 26 2, failed)] }
    if failed then s.retractOp o.id { cause := 0, detector := beAt f.payload 2 2, source := 0xFFFF, chunk := 0 } else s
  | none => s

def execSettleReport (e : Env) (f : Frame) (s : State) : Host.Outcome State Fault Refusal :=
  .next (((enter e s).frameIn f kindControl (State.reportIn f)).bellows)

/-- RETRACT (R460). -/
def State.retractIn (f : Frame) (s : State) : State :=
  match s.opOf f with
  | some o =>
    s.retractOp o.id { cause := beAt f.payload 1 1, detector := beAt f.payload 24 2, source := beAt f.payload 2 2,
                       chunk := beAt f.payload 4 4 }
  | none => s

def execRetract (e : Env) (f : Frame) (s : State) : Host.Outcome State Fault Refusal :=
  .next (((enter e s).frameIn f kindControl (State.retractIn f)).bellows)

/-! ## Limits (R454, R458) -/

/-- The rank an operation awaits in its step, or 0xFFFF. -/
def CollOp.awaits (o : CollOp) (g : Group) : Nat := (((o.steps g)[o.step]?).bind (·.recv)).getD 0xFFFF

/-- COLL_WAIT_LIMIT: no awaited chunk has come for the limit (R454). A contract is late by LINK_LOST. -/
def State.waitLimit (s : State) (tag : Nat) : State :=
  match s.currentOp tag, s.group? tag with
  | some o, some g =>
    if o.lastChunk + s.set.collWaitLimit * 1000000 ≤ s.clock.steady then
      let member := if o.awaits g = 0xFFFF then 0 else g.serial (o.awaits g)
      let s := s.strike 4 member fun c => c.contract && c.id = o.cmd
      s.breakOp o 0x0303 (o.awaits g) 0
    else s
  | _, _ => s

def execCollWaitLimit (e : Env) (tag : Nat) (s : State) : Host.Outcome State Fault Refusal :=
  .next (((enter e s).waitLimit tag).bellows)

/-- COLL_SETTLE_LIMIT: an operation is not settled that long after its release (R458). -/
def State.settleLimit (s : State) (id : Nat) : State :=
  match s.op? id with
  | some o =>
    if o.phase = .released && decide (o.releasedAt + s.set.collSettleLimit * 1000 ≤ s.clock.steady) then
      s.retractOp id { cause := 1, detector := ((s.group? o.tag).map (·.rank)).getD 0, source := 0xFFFF, chunk := 0 }
    else s
  | none => s

def execCollSettleLimit (e : Env) (op : Nat) (s : State) : Host.Outcome State Fault Refusal :=
  .next (((enter e s).settleLimit op).bellows)

/-! ## Posts that come due (R449) -/

/-- A post may start at boundary `b`: its reply is stamped, no earlier post of its tag is under way, and its journal lets
it. -/
def State.postDue (s : State) (b : Nat) (p : CollPost) : Bool :=
  !p.started && !p.ended && (s.cmd? p.cmd).any (fun c => decide (c.replyTime < b) && s.journalLets c)
    && !(s.zhevub.posts.any fun q => q.tag = p.tag && !q.ended && decide (q.cmd < p.cmd))
    && !(s.part? p.partition).any (·.resetting)

/-- Start the posts that are due. -/
def State.startPosts (s : State) (b : Nat) : State :=
  (s.zhevub.posts.foldl (fun s p =>
    if s.postDue b p then
      let s := { s with zhevub.posts := mapIf (·.cmd = p.cmd) (fun p => { p with started := true }) s.zhevub.posts }
      match p.ops.head? with
      | some id => s.startOp id
      | none => s
    else s) s).bellows

end Sys2Proof.Machine
end

