-- ==== Sys2Proof/Machine/Stoker.lean ====
section
/-! DEFINITION. The Stoker at a stoke boundary: LAST_USE, the work list of every partition, collectives due, and S1 (07
R233, 09 R315, 14 R449, 17 R541). -/

namespace Sys2Proof.Machine

/-- LAST_USE of every allocation used since the last boundary (07 R233). -/
def State.stampUse (s : State) (b : Nat) : State :=
  { s with mem.allocs := mapIf (·.accessed) (fun a => { a with accessed := false, lastUse := b }) s.mem.allocs }

/-- Buffered sample records go into their partition's ring, core by core (19 R583, R585). -/
def State.drainSamples (s : State) : State :=
  s.parts.foldl (fun s p =>
    match s.ctrs.parts.find? (·.partition = p.num) with
    | none => s
    | some k =>
      match s.alloc? p.num k.handle with
      | none => s
      | some a =>
        (s.partCores p.num).foldl (fun s n =>
          let s := (s.coreAt n).samples.foldl (fun s r =>
            match s.ctrs.parts.find? (·.partition = p.num) with
            | none => s
            | some k =>
              let va := a.base + k.offset + k.written % max 1 k.records * 64
              let (s, _) := s.touchAll p.num 0 true (sectorsOf va 64)
              let more := fun k : PartCtr => { k with written := k.written + 1 }
              { s.writeHome p.num va r with ctrs.parts := mapIf (·.partition = p.num) more s.ctrs.parts }) s
          s.modCore n fun c => { c with samples := [] }) s) s

/-- S1 is entered at a boundary with nothing in flight and no window open while TARGET is 1 (17 R541). -/
def State.enterS1 (s : State) : State :=
  if s.boot.target = 1 && s.boot.pstate = .run && s.cmds.isEmpty && s.net.windows.isEmpty then { s with boot.pstate := .s1 } else s

/-- The last stoke boundary that media time has reached. -/
def State.boundaryNow (s : State) : Nat := s.clock.mt / s.stokeNs * s.stokeNs

/-- STOKE_BOUNDARY: the Stoker acts once at the latest boundary that media time has reached (log entry 21). -/
def State.stoke (s : State) : State :=
  let b := s.boundaryNow
  if s.boot.mode = .ready && decide (s.clock.lastBoundary < b) then
    let s := ({ s with clock.lastBoundary := b }.stampUse b).drainSamples
    let s := if s.boot.pstate = .run then
      (((s.parts.filter fun p => !p.resetting).map (·.num)).foldl (State.buildList b) s).startPosts b else s
    s.enterS1
  else s

def execStokeBoundary (e : Env) (s : State) : Host.Outcome State Fault Refusal := .next (enter e s).stoke

end Sys2Proof.Machine
end

