-- ==== Sys2Proof/Machine/Counters.lean ====
section
/-! DEFINITION. Counters: CTR_CONFIG, CTR_FREEZE with its snapshot records, CTR_READ, and the windows of the port
counters (19 R578 to R592). -/

namespace Sys2Proof.Machine

def PartCtr.initial (q : Nat) : PartCtr :=
  { partition := q, shift := 0, handle := 0, offset := 0, records := 0, written := 0, lost := 0, snapId := 0, snap := [] }
def State.ctrOf (s : State) (q : Nat) : PartCtr := (s.ctrs.parts.find? (·.partition = q)).getD (PartCtr.initial q)
def State.setCtr (s : State) (k : PartCtr) : State :=
  { s with ctrs.parts := s.ctrs.parts.filter (·.partition ≠ k.partition) ++ [k] }

/-- The OP values of 04 R128. -/
def opCodes : List Nat := [0x01, 0x02, 0x03, 0x04, 0x05, 0x06, 0x07, 0x08, 0x10, 0x11, 0x12, 0x20, 0x21, 0x30]

/-! ## CTR_CONFIG (R581, R582) -/

def opCtrConfig : Op := { code := 0x0800, scope := .partition, notify := false, deadline := false, minLen := 96 }

/-- The cores a CORE field names. -/
def ctrCores (c : Ctx) (s : State) : List Nat := if c.be 0 2 = 0xFFFF then s.partCores c.part else [c.be 0 2]

/-- Entry `k` applied to counter `k` (R582). -/
def configCounter (c : Ctx) (k : Nat) (x : Counter) : Counter :=
  if (c.be 4 2).testBit k then
    let o := 32 + 4 * k
    let event := c.be o 1
    let flags := c.be (o + 1) 1
    let filter := c.be (o + 2) 1
    let x' := { x with event := event, filter := filter, chain := flags.testBit 0 }
    if flags.testBit 1 || event ≠ x.event || filter ≠ x.filter then { x' with value := 0, overflow := false } else x'
  else x

def configCore (c : Ctx) (x : CoreSt) : CoreSt :=
  { x with counters := (List.range x.counters.length).map fun k => configCounter c k (x.counters.getD k Counter.reset) }

/-- An entry that is selected breaks R579. -/
def entryBad (c : Ctx) (k : Nat) : Bool :=
  let o := 32 + 4 * k
  (c.be 4 2).testBit k &&
    (decide (0x11 < c.be o 1)
      || (c.be (o + 2) 1 ≠ 0 && !((c.be o 1 = 2 || c.be o 1 = 3) && opCodes.contains (c.be (o + 2) 1)))
      || (decide (k % 2 = 1) && (c.be (o + 1) 1).testBit 0))

/-- A chained pair whose odd counter is not OFF. -/
def chainBad (x : CoreSt) : Bool :=
  (List.range 8).any fun k =>
    (x.counters.getD (2 * k) Counter.reset).chain && (x.counters.getD (2 * k + 1) Counter.reset).event ≠ 0

def setsCounters (c : Ctx) : Bool := (c.be 2 2).testBit 0
/-- SET_SAMPLING with a ring: SAMPLE_SHIFT 0 needs none. -/
def setsRing (c : Ctx) : Bool := (c.be 2 2).testBit 1 && c.be 6 1 ≠ 0

def ctrConfigCheck (c : Ctx) (s : State) : Option Bad :=
  let a := s.alloc? c.part (c.be 8 8)
  firstBad [
    badIf (c.be 0 2 ≠ 0xFFFF && !(s.partCores c.part).contains (c.be 0 2)) 6,
    badIf ((setsCounters c && ((List.range 16).any (entryBad c) || (ctrCores c s).any fun n => chainBad (configCore c (s.coreAt n))))
      || ((c.be 2 2).testBit 1 && decide (17 < c.be 6 1)) || (setsRing c && (decide (c.be 24 4 < 64) || c.be 16 8 % 64 ≠ 0))) 7,
    badIf (setsRing c && a.isNone) 5,
    badIf (setsRing c && a.any fun a => decide (a.bytes < c.be 16 8 + 64 * c.be 24 4)) 6 ]

def samplePeriod (shift : Nat) : Nat := if shift = 0 then 0 else 2 ^ (shift - 1)

def ctrConfigEffect (c : Ctx) (s : State) : State × List Byte :=
  let s := if setsCounters c then (ctrCores c s).foldl (fun s n => s.modCore n (configCore c)) s else s
  let s := if (c.be 2 2).testBit 2 then (ctrCores c s).foldl (fun s n => s.modCore n fun x => { x with held := false }) s else s
  let s := if (c.be 2 2).testBit 1 then
      let shift := c.be 6 1
      let k := s.ctrOf c.part
      let same := shift = 0 || (k.handle = c.be 8 8 && k.offset = c.be 16 8 && k.records = c.be 24 4)
      let k := if same then { k with shift := shift }
        else { k with shift := shift, handle := c.be 8 8, offset := c.be 16 8, records := c.be 24 4, written := 0 }
      (s.partCores c.part).foldl (fun s n => s.modCore n fun x => { x with countdown := samplePeriod shift }) (s.setCtr k)
    else s
  (s, [])

def execCtrConfig (p : Packet) (s : State) : Host.Outcome State Fault Refusal :=
  .next (replyOp opCtrConfig ctrConfigCheck never nothing ctrConfigEffect p s)

/-! ## CTR_FREEZE (R586 to R588) -/

def opCtrFreeze : Op := { code := 0x0801, scope := .partition, notify := true, deadline := false, minLen := 16 }

def freezeCheck (c : Ctx) (s : State) : Option Bad :=
  let g := s.grid? c.part (c.be 2 2)
  firstBad [
    badIf (c.be 0 1 = 1 && g.isNone) 5,
    badIf (decide (2 ≤ c.be 0 1) || (c.be 0 1 = 1 && g.any fun g => decide (g.boundary (c.be 8 8) < c.stamp))) 7,
    badIf (s.ctrs.freezes.any (·.partition = c.part)) 15 ]

/-- The OVERFLOW bits and the 16 values of a core. -/
def CoreSt.counterCopy (c : CoreSt) : Nat × List Nat :=
  (maskOf ((List.range 16).filter fun k => (c.counters.getD k Counter.reset).overflow),
   (List.range 16).map fun k => (c.counters.getD k Counter.reset).value)

/-- One record's payload (R588). -/
def snapPayload (snap fragment fragments mt source index count : Nat) (entries : List Byte) : List Byte :=
  beBytes 4 snap ++ beBytes 2 fragment ++ beBytes 2 fragments ++ beBytes 8 mt ++ beBytes 1 source ++ zeros 1
    ++ beBytes 2 index ++ beBytes 2 count ++ zeros 2 ++ entries

def snapEntry (e : Nat × Nat × List Nat) : List Byte :=
  beBytes 2 e.1 ++ beBytes 2 e.2.1 ++ zeros 4 ++ (e.2.2.map (beBytes 8)).flatten

def portEntry (s : State) (n : Nat) : List Byte :=
  let p := s.ctrs.ports.getD n Port.reset
  beBytes 2 n ++ zeros 6 ++ beBytes 8 (p.total0 / 64) ++ beBytes 8 (p.total1 / 64)

/-- The instant of a freeze: the copy, the hold, the records and the completion (R586, R588). -/
def State.freeze (s : State) (z : Freeze) (mt : Nat) : State :=
  let q := z.partition
  let cores := s.partCores q
  let copy := cores.map fun n => (n, (s.coreAt n).counterCopy)
  let k := s.ctrOf q
  let id := (k.snapId + 1) % 2 ^ 32
  let s := s.setCtr { k with snapId := id, snap := copy }
  let s := cores.foldl (fun s n => s.modCore n fun c => { c with held := z.hold }) s
  let clusters := bitsSet 16 (((s.part? q).map (·.clusters)).getD 0)
  let ports := if z.ports then pieces 40 (List.range 101) else []
  let n := clusters.length + ports.length
  let byCluster := clusters.map fun cl =>
    let es := copy.filter fun e => coreCluster e.1 = cl
    (0, cl, es.length, (es.map snapEntry).flatten)
  let byPort := ports.map fun ps => (1, ps.headD 0, ps.length, (ps.map (portEntry s)).flatten)
  let recs := byCluster ++ byPort
  let s := (List.range recs.length).foldl (fun s i =>
    let r := recs.getD i (0, 0, 0, [])
    s.snapshotRecord q (snapPayload id i n mt r.1 r.2.1 r.2.2.1 r.2.2.2)) s
  let s := { s with ctrs.freezes := s.ctrs.freezes.filter (·.cmd ≠ z.cmd) }
  s.complete z.cmd 0 0 (beBytes 4 id ++ beBytes 2 n ++ zeros 2 ++ beBytes 8 mt)

def freezeStart (c : Ctx) (k : Cmd) (s : State) : State :=
  let f := c.be 1 1
  let z : Freeze :=
    { partition := c.part, cmd := k.id, gridId := c.be 2 2, boundary := c.be 8 8, hold := f.testBit 0, ports := f.testBit 1 }
  let s := { s with cmds := s.cmds ++ [{ k with work := .ctrFreeze c.part }] }
  if c.be 0 1 = 0 then s.freeze z c.stamp else { s with ctrs.freezes := s.ctrs.freezes ++ [z] }

def execCtrFreezeNow (p : Packet) (s : State) : Host.Outcome State Fault Refusal :=
  .next (notifyOp opCtrFreeze freezeCheck never bestEffort nothing freezeStart p s)

/-- CTR_FREEZE with MODE AT_BOUNDARY: the same opcode (R586). -/
def execCtrFreezeAtBoundary (p : Packet) (s : State) : Host.Outcome State Fault Refusal :=
  .next (notifyOp opCtrFreeze freezeCheck never bestEffort nothing freezeStart p s)

/-- CTR_FREEZE_INSTANT: media time has reached the boundary, as its grid stands; a grid that has closed ends the freeze
with nothing copied (R586, R592). -/
def State.freezeInstant (s : State) (q : Nat) : State :=
  match s.ctrs.freezes.find? (·.partition = q) with
  | none => s
  | some z =>
    match s.grid? q z.gridId with
    | none => { s with ctrs.freezes := s.ctrs.freezes.filter (·.cmd ≠ z.cmd) }.complete z.cmd 0x0201 15 []
    | some g => if g.boundary z.boundary ≤ s.clock.mt then s.freeze z (g.boundary z.boundary) else s

def execCtrFreezeInstant (e : Env) (partition : Nat) (s : State) : Host.Outcome State Fault Refusal :=
  .next ((advance e.dt s).freezeInstant partition)

/-! ## CTR_READ (R589) -/

def opCtrRead : Op := { code := 0x0802, scope := .partition, notify := false, deadline := false, minLen := 8 }

def ctrReadCheck (c : Ctx) (s : State) : Option Bad :=
  firstBad [
    badIf (decide (3 ≤ c.be 0 1)) 7,
    badIf (decide (c.be 0 1 < 2) && !(s.partCores c.part).contains (c.be 2 2)) 6 ]

def ctrReadEffect (c : Ctx) (s : State) : State × List Byte :=
  let k := s.ctrOf c.part
  let core := c.be 2 2
  (s, match c.be 0 1 with
    | 0 =>
      let (o, vs) := (s.coreAt core).counterCopy
      beBytes 2 core ++ beBytes 2 o ++ zeros 4 ++ zeros 8 ++ (vs.map (beBytes 8)).flatten
    | 1 =>
      let e := (k.snap.find? (·.1 = core)).getD (core, 0, List.replicate 16 0)
      beBytes 2 core ++ beBytes 2 e.2.1 ++ zeros 4 ++ beBytes 4 k.snapId ++ zeros 4 ++ (e.2.2.map (beBytes 8)).flatten
    | _ => beBytes 8 k.written ++ beBytes 4 k.lost ++ zeros 4)

def execCtrReadLive (p : Packet) (s : State) : Host.Outcome State Fault Refusal :=
  .next (replyOp opCtrRead ctrReadCheck never nothing ctrReadEffect p s)

/-- CTR_READ of the latest snapshot: the same opcode (R589). -/
def execCtrReadSnapshot (p : Packet) (s : State) : Host.Outcome State Fault Refusal :=
  .next (replyOp opCtrRead ctrReadCheck never nothing ctrReadEffect p s)

/-- CTR_READ of the sample state: the same opcode (R589). -/
def execCtrReadSampleState (p : Packet) (s : State) : Host.Outcome State Fault Refusal :=
  .next (replyOp opCtrRead ctrReadCheck never nothing ctrReadEffect p s)

/-! ## PORT_WINDOW_END (R590, R591) -/

/-- A window ends for a port: units of 64 bytes. -/
def Port.endWindow (p : Port) : Port :=
  let a := p.window0 / 64
  let b := p.window1 / 64
  { p with last0 := a, last1 := b, peak := max p.peak (min (a + b) (2 ^ 32 - 1)), window0 := 0, window1 := 0 }

/-- The last boundary of the window in force that media time has reached. -/
def State.windowBoundary (s : State) : Nat := s.clock.mt / (1000 * s.ctrs.windowInForce) * (1000 * s.ctrs.windowInForce)

/-- PORT_WINDOW_END: once per boundary; a change of WINDOW_US takes effect here. -/
def State.portWindow (s : State) : State :=
  if s.ctrs.lastWindow < s.windowBoundary then
    { s with ctrs.ports := s.ctrs.ports.map Port.endWindow, ctrs.lastWindow := s.windowBoundary,
             ctrs.windowInForce := s.set.windowUs }
  else s

def execPortWindowEnd (e : Env) (s : State) : Host.Outcome State Fault Refusal := .next (advance e.dt s).portWindow

end Sys2Proof.Machine
end

