-- ==== Sys2Proof/Machine/Operands.lean ====
section
/-! DEFINITION. Operands of macro-instructions: how descriptors and bounds are read and checked at issue, where elements,
scales and sectors of a tensor lie, FRC, and the reading of rows (04 R126, R127, 05 R162 to R168, R177 to R183, 06 R192
to R196, R208, 10 R353 to R356). -/

namespace Sys2Proof.Machine

/-! ## Reading at issue (05 R166 to R168) -/

/-- Bytes [lo, hi) of hob memory. -/
abbrev Span := Nat × Nat

/-- The status and cause with which a macro-instruction ends. -/
structure Stop where
  status : Nat
  cause : Nat
  deriving DecidableEq, Repr

def Stop.field : Stop := { status := 0x0201, cause := 7 }
def Stop.bounds : Stop := { status := 0x0201, cause := 6 }
def Stop.handle : Stop := { status := 0x0201, cause := 5 }
def Stop.state : Stop := { status := 0x0201, cause := 15 }
def Stop.unit (bit : Nat) : Stop := { status := 0x0105, cause := bit }

/-- What has been read at issue: descriptors and bound sources, which the hazard wait of R166 covers, and program
entries and lists, which it does not. -/
structure Trace where
  descs : List Span
  peeks : List Span
  deriving DecidableEq, Repr

/-- A reading that may stop; what was read is kept either way. -/
abbrev Rd := ExceptT Stop (StateM Trace)

/-- Where addresses of module memory stand among the addresses that are read at issue. -/
def moduleMark : Nat := 2 ^ 48

/-- Memory as a macro-instruction reads it at issue: address and length to bytes. Hob addresses stand for themselves, and
partition virtual addresses above `moduleMark`. -/
abbrev Hob := Nat → Nat → List Byte

def stopIf (b : Bool) (x : Stop) : Rd Unit := if b then throw x else pure ()

/-- Copy bytes that the descriptor hazard covers. -/
def copied (h : Hob) (a n : Nat) : Rd (List Byte) := do
  modify fun t => { t with descs := t.descs ++ [(a, a + n)] }
  pure (h a n)

/-- Read bytes that it does not cover. -/
def peeked (h : Hob) (a n : Nat) : Rd (List Byte) := do
  modify fun t => { t with peeks := t.peeks ++ [(a, a + n)] }
  pure (h a n)

/-- "none" in an operand field (04 R127). -/
def absent : Nat := 0xFFFFFFFF

/-- A descriptor of `n` bytes (04 R127). -/
def descriptor (h : Hob) (a n : Nat) : Rd (List Byte) := do
  stopIf (a % 64 ≠ 0) .field
  stopIf (decide (hobTop < a + n)) .bounds
  copied h a n

/-- A bound source (R167). -/
def boundAt (h : Hob) (a : Nat) : Rd Nat := do
  stopIf (decide (0x7FFFFC < a)) .bounds
  stopIf (a % 4 ≠ 0) .field
  return leNat (← copied h a 4)

/-- Every byte of `bs` from `lo` up to `hi` is zero. -/
def zeroBytes (bs : List Byte) (lo hi : Nat) : Bool := ((bs.drop lo).take (hi - lo)).all (· = 0)

/-! ## The entry (04 R126) -/

structure Entry where
  op : Nat
  mflags : Nat
  ctr : Nat
  hints : Nat
  imm : Nat
  opnds : List Nat
  deriving DecidableEq, Repr

def macroEntry (b : List Byte) : Entry :=
  { op := leAt b 0 1, mflags := leAt b 1 1, ctr := leAt b 2 1, hints := leAt b 3 1, imm := leAt b 4 4,
    opnds := (List.range 6).map fun k => leAt b (8 + 4 * k) 4 }

def Entry.opnd (e : Entry) (k : Nat) : Nat := e.opnds.getD k absent
def Entry.signal (e : Entry) : Bool := e.mflags.testBit 0
def Entry.noHazard (e : Entry) : Bool := e.mflags.testBit 1
def Entry.hint (e : Entry) : Nat := e.hints % 4
def Entry.readClass (e : Entry) : Nat := e.hints / 4 % 4

/-- Reserved bits that every kind checks (R127). -/
def Entry.reservedBad (e : Entry) : Bool := decide (4 ≤ e.mflags) || decide (32 ≤ e.ctr)

/-- What the compute kinds, MOVE and BANKCHK check as well: MEM_HINTS (R127). -/
def Entry.hintsBad (e : Entry) : Bool := e.readClass = 0 || e.hint = 3 || decide (16 ≤ e.hints)

/-! ## The tensor descriptor (R162) -/

structure Tensor where
  fmt : Fmt
  mode : ScaleMode
  module : Bool
  /-- FRC_RATIO of an FRC tensor (10 R353), or 0 -/
  frc : Nat
  ext : List Nat
  status : Nat
  base : Nat
  strides : List Nat
  /-- TENSOR_SCALE, an FP32 word -/
  scale : Nat
  scaleBase : Nat
  deriving DecidableEq, Repr

def Tensor.e (t : Tensor) (k : Nat) : Nat := t.ext.getD k 1
def Tensor.stride (t : Tensor) (k : Nat) : Nat := t.strides.getD (k - 1) 0
def Tensor.T (t : Tensor) : FVal := dec32 t.scale
def Tensor.empty (t : Tensor) : Bool := t.ext.any (· = 0)
def Tensor.scaled (t : Tensor) : Bool := t.mode ≠ .none

/-- FP4, INT4 and FP6 in E8M0 mode are scaled in pairs of blocks (06 R200). -/
def Tensor.paired (t : Tensor) : Bool := t.mode = .e8m0 && (t.fmt = .fp4 || t.fmt = .int4 || t.fmt = .fp6)

/-- Bytes of a compressed block of FRC (10 R353). -/
def frcBytes (ratio : Nat) : Nat := 256 / (2 * ratio)

/-- Bytes of a row of dimension 0, compressed or not. -/
def Tensor.rowBytes (t : Tensor) : Nat :=
  if t.frc ≠ 0 then t.e 0 * t.fmt.bits / 2048 * frcBytes t.frc else ceilDiv (t.e 0 * t.fmt.bits) 8

/-- Offset of row (i1, i2, i3) from BASE (R163). -/
def Tensor.offset (t : Tensor) (i1 i2 i3 : Nat) : Nat := i1 * t.stride 1 + i2 * t.stride 2 + i3 * t.stride 3

/-- From the first row to the last. -/
def Tensor.reach (t : Tensor) : Nat := t.offset (t.e 1 - 1) (t.e 2 - 1) (t.e 3 - 1)

/-- elem_addr of R163. -/
def Tensor.elemAddr (t : Tensor) (e0 i1 i2 i3 : Nat) : Nat := t.base + e0 * t.fmt.bits / 8 + t.offset i1 i2 i3

/-- Address of the first scale byte of a row (R164). -/
def Tensor.scaleAddr (t : Tensor) (i1 i2 i3 : Nat) : Nat := t.scaleBase + t.offset i1 i2 i3 / t.fmt.blockBytes

def Tensor.scaleCount (t : Tensor) : Nat := if t.scaled then ceilDiv (t.e 0) t.fmt.block else 0

/-- The data range and the scale range (R165). -/
def Tensor.dataSpan (t : Tensor) : Span := (t.base, t.base + t.reach + t.rowBytes)
def Tensor.scaleSpan (t : Tensor) : Span :=
  (t.scaleBase, t.scaleBase + t.reach / t.fmt.blockBytes + t.scaleCount)

/-- Hob ranges of a tensor (R130). -/
def Tensor.hobSpans (t : Tensor) : List Span :=
  if t.module || t.empty then [] else if t.scaled then [t.dataSpan, t.scaleSpan] else [t.dataSpan]

/-- Hob ranges of an output: its status word is one (06 R204). -/
def Tensor.outSpans (t : Tensor) : List Span :=
  t.hobSpans ++ (if t.status = absent then [] else [(t.status, t.status + 16)])

/-- Strides that clear everything inside them keep rows apart. -/
def nestedApart : Nat → List (Nat × Nat) → Bool
  | _, [] => true
  | span, (n, st) :: rest => decide (span ≤ st) && nestedApart (st * (n - 1) + span) rest

/-- Neighbours of a rising list lie at least `n` apart. -/
def apart (n : Nat) : List Nat → Bool
  | a :: b :: rest => decide (a + n ≤ b) && apart n (b :: rest)
  | _ => true

/-- Two elements of a written tensor map to one byte (R165): some two of its rows meet. -/
def Tensor.clashes (t : Tensor) : Bool :=
  let dims := ((List.range 3).map fun k => (t.e (k + 1), t.stride (k + 1))).filter fun d => decide (1 < d.1)
  if t.empty || nestedApart t.rowBytes (sortBy (fun a b => decide (a.2 < b.2)) dims) then false
  else
    let starts := ((List.range (t.e 3)).map fun i3 => ((List.range (t.e 2)).map fun i2 =>
      (List.range (t.e 1)).map fun i1 => t.offset i1 i2 i3).flatten).flatten
    !apart t.rowBytes (sortBy (fun a b => decide (a < b)) starts)

/-- The allocation that holds a range, as operation `op` sees it: one freed since the operation was issued still serves
it (07 R222). -/
def State.placeOf (s : State) (q op va n : Nat) : Option Alloc :=
  match s.allocOf q va n with
  | some a => some a
  | none => (s.mem.freed.find? fun f => f.alloc.holds q va n && decide (op < f.before)).map (·.alloc)

/-- What a macro-instruction is read and run with: its core, its run, its entry, its operation number. -/
structure Job where
  core : Nat
  run : Run
  index : Nat
  entry : Entry
  opId : Nat
  /-- a descriptor, bound or list that it read was poisoned -/
  bad : Bool
  deriving DecidableEq, Repr

def Job.q (j : Job) : Nat := j.run.partition
def Job.hint (j : Job) : Nat := j.entry.hint

/-- The start of the allocation that an address lies in (R164): 0 in hob memory. -/
def State.startOf (s : State) (j : Job) (module : Bool) (a : Nat) : Option Nat :=
  if module then (s.placeOf j.q j.opId a 1).map (·.base) else if a < hobTop then some 0 else none

/-- A range lies in hob memory, or wholly in one allocation of the partition. -/
def State.fits (s : State) (j : Job) (module : Bool) (r : Span) : Bool :=
  if module then (s.placeOf j.q j.opId r.1 (r.2 - r.1)).isSome else decide (r.2 ≤ hobTop)

/-- The granularity that BASE and every stride keep (R164, 06 R191, R200, 10 R353). -/
def Tensor.unitBytes (t : Tensor) : Nat :=
  if t.frc ≠ 0 then 64
  else if t.scaled then t.fmt.blockBytes * (if t.paired then 2 else 1)
  else if t.fmt = .fp6 then 3
  else 1

def scaleModeOf : Nat → Option ScaleMode
  | 0 => some .none
  | 1 => some .ue4m3
  | 2 => some .e8m0
  | _ => none

/-- The fields of a tensor descriptor, extents still as written; none when a field is reserved or out of its range. -/
def tensorFields (d : List Byte) (frcOk : Bool) : Option Tensor :=
  match fmtOf (leAt d 1 1 % 16), scaleModeOf (leAt d 1 1 / 16 % 4) with
  | some f, some m =>
    let frc := leAt d 0 1 = 9
    let module := leAt d 2 1 = 1
    let top := if module then 2 ^ 48 else 2 ^ 32
    let t : Tensor :=
      { fmt := f, mode := m, module := module, frc := if frc then leAt d 50 1 else 0,
        ext := (List.range 4).map fun k => leAt d (4 + 4 * k) 4, status := leAt d 20 4, base := leAt d 24 8,
        strides := [leAt d 32 6, leAt d 38 6, leAt d 44 6], scale := leAt d 52 4, scaleBase := leAt d 56 8 }
    let ok := (leAt d 0 1 = 1 || (frc && frcOk)) && decide (leAt d 1 1 < 64) && decide (leAt d 2 1 < 2)
      && decide (leAt d 3 1 < 16) && decide (t.base < top) && (!t.scaled || decide (t.scaleBase < top))
      && scaleWordOk t.scale && !(t.scaled && f.wide)
      && (if frc then (t.frc = 1 || t.frc = 2) && leAt d 51 1 = 0 && f.wide && module else leAt d 50 2 = 0)
    if ok then some t else none
  | _, _ => none

/-- The extents, each read where it is indirect (R167). -/
def extentsAt (h : Hob) (flags : Nat) (ext : List Nat) : Rd (List Nat) :=
  (List.range 4).mapM fun k => if flags.testBit k then boundAt h (ext.getD k 0) else pure (ext.getD k 0)

/-- Where a tensor lies: alignment, ranges, and for an output its status word and its bytes (R164, R165, 06 R191, R200,
R202). -/
def Tensor.place (s : State) (j : Job) (t : Tensor) (write : Bool) : Rd Unit := do
  stopIf (t.frc ≠ 0 && t.e 0 * t.fmt.bits / 8 % 256 ≠ 0) .field
  match s.startOf j t.module t.base with
  | none => throw Stop.bounds
  | some start =>
    stopIf ((t.base - start) % t.unitBytes ≠ 0 || t.strides.any (· % t.unitBytes ≠ 0)) .field
  if t.paired then
    match s.startOf j t.module t.scaleBase with
    | none => throw Stop.bounds
    | some start => stopIf ((t.scaleBase - start) % 2 ≠ 0) .field
  stopIf (!t.empty && (!s.fits j t.module t.dataSpan || (t.scaled && !s.fits j t.module t.scaleSpan))) .bounds
  if write then
    stopIf (t.status ≠ absent && decide (0x7FFFF0 < t.status)) .bounds
    stopIf (t.status ≠ absent && t.status % 16 ≠ 0) .field
    stopIf t.clashes .field

/-- A tensor operand: its descriptor, its bounds, its checks (R166 to R168). -/
def tensorAt (h : Hob) (s : State) (j : Job) (a : Nat) (frcOk write : Bool) : Rd Tensor := do
  let d ← descriptor h a 64
  match tensorFields d frcOk with
  | none => throw Stop.field
  | some t =>
    let t := { t with ext := ← extentsAt h (leAt d 3 1) t.ext }
    t.place s j write
    pure t

/-- An operand that may be left out. -/
def optionally {α : Type} (a : Nat) (r : Rd α) : Rd (Option α) :=
  if a = absent then pure none else do return some (← r)

/-- FRC needs its unit (10 R353). -/
def frcUnit (s : State) (ts : List Tensor) : Rd Unit :=
  stopIf ((ts.any fun t => t.frc ≠ 0) && !s.unitPresent 5) (.unit 5)

/-! ## FRC (10 R355) -/

def frcBits (f : Fmt) (ratio : Nat) : Nat :=
  match f, ratio with
  | .fp32, 1 => 15
  | .fp32, _ => 7
  | _, 1 => 7
  | _, _ => 3

/-- Elements of a logical block. -/
def frcElems (f : Fmt) : Nat := 2048 / f.bits

/-- Decode one compressed block. -/
def frcDecode (f : Fmt) (ratio : Nat) (bs : List Byte) : List FVal :=
  let b := frcBits f ratio
  let n := frcElems f
  let word := leNat (bs.drop 8)
  (List.range n).map fun k =>
    let e := leAt bs (k / (n / 8)) 1
    if e = 255 then .nan
    else if e = 0 then .zero
    else
      let m := toSigned b (word / 2 ^ (b * k) % 2 ^ b)
      .fin (decide (m < 0)) ((m.natAbs : Rat) * pow2 ((e : Int) - 127))

/-- A sub-block as written: exponent, mantissas, and what it counts. -/
structure SubBlock where
  exponent : Nat
  mantissas : List Nat
  nan : Bool
  zero : Bool
  deriving DecidableEq, Repr

/-- frc_encode. -/
def frcSub (b : Nat) (vs : List FVal) : SubBlock :=
  let flat : SubBlock := { exponent := 0, mantissas := List.replicate vs.length 0, nan := false, zero := true }
  if vs.any fun v => !v.isFin then { flat with exponent := 255, nan := true, zero := false }
  else
    let mx := (vs.map FVal.mag).foldl max 0
    let top : Nat := 2 ^ (b - 1) - 1
    if mx = 0 then flat
    else
      let e := (((List.range 254).map (· + 1)).find? fun (e : Nat) => decide (mx ≤ (top : Rat) * pow2 ((e : Int) - 127))).getD 254
      let q := vs.map fun v =>
        let m := min top (rneNat (v.mag / pow2 ((e : Int) - 127)))
        if v.negative && m ≠ 0 then 2 ^ b - m else m
      if q.all (· = 0) then flat else { exponent := e, mantissas := q, nan := false, zero := false }

/-- Encode one logical block: its bytes, and the sub-blocks it counts. -/
def frcEncode (f : Fmt) (ratio : Nat) (vs : List FVal) : List Byte × Tally :=
  let b := frcBits f ratio
  let subs := (pieces (frcElems f / 8) vs).map (frcSub b)
  let body := leBytes 8 (leNat (subs.map fun x => BitVec.ofNat 8 x.exponent))
    ++ packCodes b (subs.map (·.mantissas)).flatten
  (body ++ zeros (frcBytes ratio - body.length),
   { Tally.none with nanBlocks := (subs.filter (·.nan)).length, zeroBlocks := (subs.filter (·.zero)).length })

/-! ## Rows (R177 to R183, 06 R196, R208) -/

/-- An element as read: its decoded code under the rules of R196, its block scale, and whether a poisoned sector that
was fetched holds it. -/
structure Elem where
  code : FVal
  scale : Rat
  zeroBlock : Bool
  bad : Bool
  deriving DecidableEq, Repr

def Elem.zero : Elem := { code := .zero, scale := 0, zeroBlock := true, bad := false }

/-- An element under R208. -/
def Tensor.flame (t : Tensor) (x : Elem) : FVal :=
  if t.mode = .none && t.fmt.wide then (if t.T = .fin false 1 then x.code else mul32 x.code t.T)
  else mul32 x.code (mul32 (.fin false x.scale) t.T)

def State.viewOf (s : State) (j : Job) : View := { core := some j.core, journal := s.runJournal j.run }

/-- Bytes in either SPACE. -/
def State.spaceRead (s : State) (j : Job) (module : Bool) (a n : Nat) : List Byte :=
  if module then s.readMem (s.viewOf j) j.q a n else s.hobRead j.core a n

def State.spaceBad (s : State) (j : Job) (module : Bool) (a n : Nat) : Bool :=
  if module then s.rangePoison (s.viewOf j) j.q a n else s.hobPoisoned j.core a n

/-- Element bits that meet byte `k` of a row: the first and the one past the last. -/
def elemsOfByte (w n lo hi : Nat) : Nat × Nat := (8 * lo / w, min n (ceilDiv (8 * hi) w))

/-- The sectors of bytes [lo, hi) of a row at `at_`, each with the elements that it holds: those that are fetched for a
row whose zero blocks are `zeroB` (R177, R183). -/
def dataSectors (w n block at_ lo hi : Nat) (zeroB : Nat → Bool) : List (Nat × Nat × Nat) :=
  ((sectorsOf (at_ + lo) (hi - lo)).map fun a =>
    let l := max a (at_ + lo) - at_
    let h := min (a + 64) (at_ + hi) - at_
    let es := elemsOfByte w n l h
    (a, es.1, es.2)).filter fun x => (List.range (ceilDiv x.2.2 block - x.2.1 / block)).any fun k => !zeroB (x.2.1 / block + k)

/-- A row as read, with what a fetch of elements [lo, hi) of it brings: sectors of scale bytes, then of data. -/
structure Row where
  elems : List Elem
  scaleBytes : List Nat
  bad : Bool
  deriving DecidableEq, Repr

/-- Zero blocks of a row by its scale bytes. -/
def Tensor.zeroAt (t : Tensor) (scales : List Nat) (b : Nat) : Bool := t.scaled && scales.getD b 0 = 0

/-- Sectors that a fetch of elements [lo, hi) of a row brings from module memory: scales, then data. -/
def Tensor.sectors (t : Tensor) (i1 i2 i3 : Nat) (row : Row) (lo hi : Nat) : List Nat × List Nat :=
  if !t.module || hi ≤ lo then ([], [])
  else if t.frc ≠ 0 then
    let k := frcElems t.fmt
    ([], sectorsOf (t.base + t.offset i1 i2 i3 + lo / k * frcBytes t.frc) ((ceilDiv hi k - lo / k) * frcBytes t.frc))
  else
    let b := t.fmt.block
    let at_ := t.base + t.offset i1 i2 i3
    (if t.scaled then sectorsOf (t.scaleAddr i1 i2 i3 + lo / b) (ceilDiv hi b - lo / b) else [],
     (dataSectors t.fmt.bits (t.e 0) b at_ (lo * t.fmt.bits / 8) (ceilDiv (hi * t.fmt.bits) 8)
       (t.zeroAt row.scaleBytes)).map (·.1))

/-- Decode the codes of a row. -/
def unpackRow (bits n : Nat) (bs : List Byte) : List Nat := unpackCodes bits n bs

/-- Row (i1, i2, i3) of a tensor. -/
def State.readRow (s : State) (j : Job) (t : Tensor) (i1 i2 i3 : Nat) : Row :=
  let n := t.e 0
  let at_ := t.base + t.offset i1 i2 i3
  if n = 0 then { elems := [], scaleBytes := [], bad := false }
  else if t.frc ≠ 0 then
    let cb := frcBytes t.frc
    let blocks := (List.range (t.rowBytes / cb)).map fun k =>
      let bad := s.spaceBad j true (at_ + k * cb) cb
      (frcDecode t.fmt t.frc (s.spaceRead j true (at_ + k * cb) cb)).map fun v =>
        ({ code := v, scale := 1, zeroBlock := false, bad := bad } : Elem)
    { elems := blocks.flatten, scaleBytes := [], bad := blocks.flatten.any (·.bad) }
  else
    let b := t.fmt.block
    let scales := (s.spaceRead j t.module (t.scaleAddr i1 i2 i3) t.scaleCount).map (·.toNat)
    let fetched := dataSectors t.fmt.bits n b at_ 0 t.rowBytes (t.zeroAt scales)
    let badData := (fetched.filter fun x => s.spaceBad j t.module x.1 1).map (·.2)
    let badScale := (List.range t.scaleCount).map fun k => s.spaceBad j t.module (t.scaleAddr i1 i2 i3 + k) 1
    let codes := unpackRow t.fmt.bits n (s.spaceRead j t.module at_ t.rowBytes)
    let elems := (List.range n).map fun e =>
      let sb := scales.getD (e / b) 0
      ({ code := readCode t.fmt t.mode sb (codes.getD e 0), scale := (t.mode.decode sb).rat,
         zeroBlock := t.zeroAt scales (e / b),
         bad := badScale.getD (e / b) false || badData.any fun x => decide (x.1 ≤ e) && decide (e < x.2) } : Elem)
    { elems := elems, scaleBytes := scales, bad := badData.length ≠ 0 || badScale.any id }

/-- The elements of a row under R208, each with its poison. -/
def State.readFlame (s : State) (j : Job) (t : Tensor) (i1 i2 i3 : Nat) : List (FVal × Bool) :=
  (s.readRow j t i1 i2 i3).elems.map fun x => (t.flame x, x.bad)

end Sys2Proof.Machine
end

