-- ==== Sys2Proof/Machine/Flags.lean ====
section
/-! DEFINITION. Results of macro-instructions: rows as they are encoded and stored with their poison, what they count in
status words, and the traffic that operands and results cause (05 R180 to R182, 06 R197 to R204, 07 R248, 12 R387,
15 R474, 19 R579). -/

namespace Sys2Proof.Machine

/-! ## Status words (06 R202 to R204) -/

/-- The fields of a tensor status word, as what they gain. -/
def Tally.fields (t : Tally) : List Nat := [t.saturated, t.nanBlocks, t.zeroBlocks, t.infWritten, t.nanDropped]

def Tally.sum (ts : List Tally) : Tally := ts.foldl Tally.add Tally.none

/-- One read and one write of a status word of three 4-byte and two 2-byte fields, each saturating (R203, 08 R288). -/
def State.addStatus (s : State) (core a : Nat) (gains : List Nat) : State :=
  let old := s.hobRead core a 16
  let field := fun k off w => leBytes w (satAdd (8 * w) (leAt old off w) (gains.getD k 0))
  s.hobWrite core a (field 0 0 4 ++ field 1 4 4 ++ field 2 8 4 ++ field 3 12 2 ++ field 4 14 2)

/-! ## Traffic -/

/-- Operations whose provisional results lie in sectors. -/
def State.provisionalAt (s : State) (q : Nat) (secs : List Nat) : List Nat :=
  let ks := secs.map (memKey q)
  ((s.mem.provisional.filter fun p => ks.contains p.1).map Prod.snd).eraseDups

/-- The commands of a run use stacks (02 R50). -/
def State.useStacks (s : State) (r : Run) (hbmSet : List Nat) : State :=
  let ids := s.runCmds r
  { s with cmds := mapIf (fun c => ids.contains c.id) (·.uses [] hbmSet) s.cmds }

/-- Demand sectors of module memory fetched into a core: caches and ports, core counters, Dampers, the stacks used, and
provisional results consumed (07 R238, 14 R459, 15 R474, 19 R579). -/
def State.fetch (s : State) (j : Job) (hint : Nat) (urgent : Bool) (secs : List Nat) : State :=
  if secs.isEmpty then s
  else
    let (s, t) := s.touchAll j.q hint false secs
    let s := s.modCore j.core fun c =>
      ((c.count 0x09 secs.length j.entry.op).count 0x0A t.hits j.entry.op).count 0x0B t.misses j.entry.op
    let s := (s.damperMemory j.q t (.core j.core j.opId) urgent).useStacks j.run t.hbmSet
    let ops := s.provisionalAt j.q secs
    if ops.isEmpty then s else ((s.runCmds j.run).filterMap s.cmd?).foldl (fun s c => s.consume c ops) s

/-- The same for a demand fetch with the entry's hint. -/
def State.demand (s : State) (j : Job) (secs : List Nat) : State := s.fetch j j.hint false secs

/-- Sectors of module memory that a core writes. -/
def State.touchWrites (s : State) (j : Job) (hint : Nat) (secs : List Nat) : State :=
  if secs.isEmpty then s
  else
    let (s, t) := s.touchAll j.q hint true secs
    (s.damperMemory j.q t (.core j.core j.opId) false).useStacks j.run t.hbmSet

/-! ## Rows as written (06 R197 to R201, 10 R355) -/

/-- A row in its output format: pieces of data by their offset in the row, scale bytes, which elements lie in blocks
written as zero blocks, and what it counts. -/
structure RowOut where
  data : List (Nat × List Byte)
  scales : List Byte
  zero : List Bool
  tally : Tally
  deriving DecidableEq, Repr

/-- A block or pair in place: its offset, data if stored, scale bytes and the elements' marks. -/
def Tensor.encodeBlock (t : Tensor) (k : Nat) (vs : List FVal) : RowOut :=
  let g := t.fmt.block * (if t.paired then 2 else 1)
  let o := writeBlock vs t.T.rat t.fmt t.mode
  { data := match o.codes with
      | some cs => [(k * g * t.fmt.bits / 8, packCodes t.fmt.bits cs)]
      | none => []
    scales := List.replicate (ceilDiv vs.length t.fmt.block) (BitVec.ofNat 8 o.scale)
    zero := List.replicate vs.length (decide (o.scale = 0))
    tally := o.tally }

/-- Compressed block `k` of an FRC row: the values as the logical format holds them, then R355. -/
def Tensor.encodeFrc (t : Tensor) (k : Nat) (vs : List FVal) : RowOut :=
  let (bs, tally) := frcEncode t.fmt t.frc (vs.map fun v => t.fmt.decode (t.fmt.write (v.over t.T.rat)).code)
  { data := [(k * frcBytes t.frc, bs)], scales := [], zero := [], tally := tally }

def RowOut.append (a b : RowOut) : RowOut :=
  { data := a.data ++ b.data, scales := a.scales ++ b.scales, zero := a.zero ++ b.zero, tally := a.tally.add b.tally }

def RowOut.none : RowOut := { data := [], scales := [], zero := [], tally := Tally.none }

/-- A row of valid elements in the format of its tensor. -/
def Tensor.encode (t : Tensor) (vs : List FVal) : RowOut :=
  if t.frc ≠ 0 then
    let ps := pieces (frcElems t.fmt) vs
    ((List.range ps.length).map fun k => t.encodeFrc k (ps.getD k [])).foldl RowOut.append RowOut.none
  else if t.scaled then
    let ps := pieces (t.fmt.block * (if t.paired then 2 else 1)) vs
    ((List.range ps.length).map fun k => t.encodeBlock k (ps.getD k [])).foldl RowOut.append RowOut.none
  else
    let ws := vs.map fun v => writePlain v t.T.rat t.fmt
    { data := [(0, packCodes t.fmt.bits (ws.map Prod.fst))], scales := [], zero := [], tally := Tally.sum (ws.map Prod.snd) }

/-! ## Storing (05 R181, 07 R248) -/

/-- Bytes in either SPACE, with a poison mark on their sectors. -/
def State.put (s : State) (j : Job) (module : Bool) (a : Nat) (bs : List Byte) (bad : Bool) : State :=
  if bs.isEmpty then s
  else if module then
    (s.touchWrites j j.hint (sectorsOf a bs.length)).writeRange (s.viewOf j) j.q a bs bad
  else
    let s := s.hobWrite j.core a bs
    if bad then s.hobMark j.core (sectorsOf a bs.length) else s

/-- Cut bytes where their poison changes. -/
def runsOf (bad : Nat → Bool) : Nat → List Byte → List (Nat × List Byte × Bool)
  | _, [] => []
  | k, b :: bs =>
    match runsOf bad (k + 1) bs with
    | [] => [(k, [b], bad k)]
    | (i, cs, x) :: rest => if x = bad k then (k, b :: cs, x) :: rest else (k, [b], bad k) :: (i, cs, x) :: rest

/-- Store bytes whose poison differs along them: `bad k` is that of byte k. -/
def State.putMixed (s : State) (j : Job) (module : Bool) (a : Nat) (bs : List Byte) (bad : Nat → Bool) : State :=
  let n := bs.length
  if (List.range n).all fun k => !bad k then s.put j module a bs false
  else (runsOf bad 0 bs).foldl (fun s r => s.put j module (a + r.1) r.2.1 r.2.2) s

/-- Elements that meet byte `k` of a row. -/
def Tensor.byteElems (t : Tensor) (k : Nat) : Nat × Nat :=
  if t.frc ≠ 0 then let n := frcElems t.fmt; (k / frcBytes t.frc * n, (k / frcBytes t.frc + 1) * n)
  else elemsOfByte t.fmt.bits (t.e 0) k (k + 1)

/-- Byte of a row at which a piece begins that starts with element `e0`. -/
def Tensor.byteOf (t : Tensor) (e0 : Nat) : Nat :=
  if t.frc ≠ 0 then e0 / frcElems t.fmt * frcBytes t.frc else e0 * t.fmt.bits / 8

/-- Data bytes of poisoned blocks that an encoded piece leaves unstored: they are written back as they were, so that the
mark reaches every sector of the piece. -/
def State.unstored (s : State) (j : Job) (t : Tensor) (at_ e0 : Nat) (r : RowOut) (bad : Nat → Bool) : List (Nat × List Byte) :=
  if t.mode ≠ .ue4m3 then []
  else
    let b := t.fmt.block
    let n := r.zero.length
    ((List.range (ceilDiv n b)).filter fun k => r.zero.getD (k * b) false
        && (List.range (min b (n - k * b))).any fun i => bad (e0 + k * b + i)).map fun k =>
      let lo := k * t.fmt.blockBytes
      (lo, s.spaceRead j t.module (at_ + lo) (ceilDiv (min b (n - k * b) * t.fmt.bits) 8))

/-- Store a piece of a row that has been encoded, from element `e0` on; `bad e` is the poison of element e of the row. -/
def State.putRow (s : State) (j : Job) (t : Tensor) (i1 i2 i3 e0 : Nat) (r : RowOut) (bad : Nat → Bool) : State :=
  let at_ := t.base + t.offset i1 i2 i3 + t.byteOf e0
  let any := fun lo hi => (List.range (hi - lo)).any fun i => bad (lo + i)
  let s := (r.data ++ s.unstored j t at_ e0 r bad).foldl (fun s p => s.putMixed j t.module (at_ + p.1) p.2 fun k =>
    let es := t.byteElems (t.byteOf e0 + p.1 + k)
    any es.1 es.2) s
  let b := t.fmt.block
  s.putMixed j t.module (t.scaleAddr i1 i2 i3 + e0 / b) r.scales fun k =>
    any (e0 + k * b) (min (t.e 0) (e0 + (k + 1) * b))

/-- The taps of a piece of a row of results that goes to module memory (12 R387). -/
def Tensor.taps (t : Tensor) (i1 i2 i3 e0 : Nat) (vs : List FVal) (r : RowOut) : List Tap :=
  if !t.module then []
  else (List.range vs.length).map fun i =>
    let e := e0 + i
    { va := if t.frc ≠ 0 then t.base + t.offset i1 i2 i3 + e / frcElems t.fmt * frcBytes t.frc else t.elemAddr e i1 i2 i3,
      v := vs.getD i .zero, zeroBlock := r.zero.getD i false }

/-- Convert and store a piece of a row of FP32 results: the gauge sees it when `watched`, and the counts come back (06
R197 to R203). -/
def State.storeRow (s : State) (j : Job) (watched : Bool) (t : Tensor) (i1 i2 i3 e0 : Nat) (vs : List FVal)
    (bad : Nat → Bool) : State × Tally :=
  if vs.isEmpty then (s, Tally.none)
  else
    let r := t.encode vs
    let s := s.putRow j t i1 i2 i3 e0 r bad
    (if watched then s.tap j.run (t.taps i1 i2 i3 e0 vs r) else s, r.tally)

/-- A piece of a row of results of an output: its indices, its first element, values and poison. -/
structure OutRow where
  i1 : Nat
  i2 : Nat
  i3 : Nat
  lo : Nat := 0
  vals : List FVal
  bad : List Bool
  deriving DecidableEq, Repr

/-- Store pieces of the rows of an output; what they count, and whether any is poisoned. -/
def State.storeRows (s : State) (j : Job) (watched : Bool) (t : Tensor) (rows : List OutRow) : State × Tally × Bool :=
  rows.foldl (fun acc r =>
    let (s, tally) := acc.1.storeRow j watched t r.i1 r.i2 r.i3 r.lo r.vals fun e => j.bad || r.bad.getD (e - r.lo) false
    (s, acc.2.1.add tally, acc.2.2 || ((j.bad || r.bad.any id) && !r.vals.isEmpty))) (s, Tally.none, false)

/-- The status gains of an output, by the address of its status word. -/
def Tensor.gains (t : Tensor) (x : Tally) : List (Nat × List Nat) :=
  if t.status = absent then [] else [(t.status, x.fields)]

end Sys2Proof.Machine
end

