-- ==== Sys2Proof/Machine/Pages.lean ====
section
/-! DEFINITION. The page-frame table and page tables of the key-value cache: geometry, tags and PT_EDIT (08 R258 to R268,
R279, R290 to R295). -/

namespace Sys2Proof.Machine

/-! ## Geometry (R258, R259) -/

def geoP (g : Nat) : Nat := 256 * 2 ^ (g % 4)
def geoFmt (g : Nat) : Option Fmt := fmtOf (bitsOf g 5 2)
def geoMode (g : Nat) : ScaleMode := if bitsOf g 7 6 = 2 then .e8m0 else .ue4m3
def geoH (g : Nat) : Nat := bitsOf g 15 8
def geoD (g : Nat) : Nat := 64 * 2 ^ bitsOf g 17 16

/-- No reserved value in any field of a KV_GEOMETRY word; its reserved bits are ignored (00 R6). -/
def geoOk (g : Nat) : Bool :=
  decide (g % 4 < 3) && [2, 3, 5, 6, 7].contains (bitsOf g 5 2) && [1, 2].contains (bitsOf g 7 6)
    && decide (1 ≤ geoH g) && decide (geoH g ≤ 64) && decide (bitsOf g 17 16 < 3)

/-- The defined bits of a geometry word. -/
def geoWord (g : Nat) : Nat := g % 2 ^ 18

def geoBits (g : Nat) : Nat := ((geoFmt g).map (·.bits)).getD 8
def geoBlock (g : Nat) : Nat := ((geoFmt g).map (·.block)).getD 32
def dataBytes (g : Nat) : Nat := 2 * geoH g * geoP g * geoD g * geoBits g / 8
def sidecarBytes (g : Nat) : Nat := 2 * geoH g * geoP g * geoD g / geoBlock g

/-! ## Coordinates and tags (R266, R279) -/

/-- Coordinates of a position, or none for a prefix position. -/
def Binding.coords (b : Binding) (p : Nat) : Option (Nat × Nat × Nat) :=
  if b.layout = 0 then some (p, 0, 0)
  else if p < b.basePos then none
  else
    let r := p - b.basePos
    some (r / b.frameTokens, r % b.frameTokens / b.rowTokens, r % b.rowTokens)

/-- A tag: TAG_FLAGS and the six bounds. -/
structure Tag where
  flags : Nat
  t0 : Nat
  t1 : Nat
  y0 : Nat
  y1 : Nat
  x0 : Nat
  x1 : Nat
  deriving DecidableEq, Repr

def minOf (ns : List Nat) : Nat := ns.foldl min (ns.headD 0)
def maxOf (ns : List Nat) : Nat := ns.foldl max 0

/-- The tag of `n` positions from `first` on. -/
def Binding.tag (b : Binding) (first n : Nat) : Tag :=
  let cs := (List.range n).map fun i => b.coords (first + i)
  let main := cs.filterMap id
  let t := main.map (·.1)
  let y := main.map (·.2.1)
  let x := main.map (·.2.2)
  { flags := b2n (cs.any (·.isNone)) + 2 * b2n (!main.isEmpty), t0 := minOf t, t1 := maxOf t, y0 := minOf y,
    y1 := maxOf y, x0 := minOf x, x1 := maxOf x }

def PageFrame.tag (f : PageFrame) : Tag :=
  { flags := f.tagFlags, t0 := f.t0, t1 := f.t1, y0 := f.y0, y1 := f.y1, x0 := f.x0, x1 := f.x1 }
def PageFrame.withTag (f : PageFrame) (g : Tag) : PageFrame :=
  { f with tagFlags := g.flags, t0 := g.t0, t1 := g.t1, y0 := g.y0, y1 := g.y1, x0 := g.x0, x1 := g.x1 }

/-! ## Layers (R264, R265, R267) -/

/-- Root entries of each layer. -/
def Binding.rpl (b : Binding) : Nat := 512 / b.layers
/-- The position cap of a layer. -/
def Binding.cap (b : Binding) : Nat := min (b.rpl * 4096 * geoP b.geometry) (2 ^ 40)
def Binding.stageStride (b : Binding) : Nat := roundUp (8 * geoH b.geometry * geoP b.geometry * geoD b.geometry) 4096
def boughsFor (pages : Nat) : Nat := ceilDiv pages 4096

def Layer.fresh : Layer := { generation := 0, pages := [], boughs := 0, half := 0, fill := 0, length := 0 }
def Binding.layer (b : Binding) (l : Nat) : Layer := b.tables.getD l Layer.fresh

def State.frame? (s : State) (n : Nat) : Option PageFrame := s.kv.frames.find? (·.num = n)

/-- An ATTN with COMMIT set is in flight on a layer. -/
def State.commitInFlight (s : State) (h l : Nat) : Bool :=
  s.cores.any fun c => c.unretired.any fun m => m.commit.isSome && m.attnSeq = h && m.attnLayer = l

/-- Frames in ASH that no walk names any more become FREE (R295). -/
def State.releaseAsh (s : State) : State :=
  let walked := s.walked
  { s with kv.frames := mapIf (fun f => f.state = .ash && !walked.contains f.num) (fun f => { f with state := .free }) s.kv.frames }

/-! ## PT_EDIT (R290) -/

def opPtEdit : Op := { code := 0x0403, scope := .partition, notify := false, deadline := false, minLen := 32 }

def editSeq (c : Ctx) (s : State) : Option Seq := s.seq? c.part (c.be 0 8)
def editLayer (c : Ctx) : Nat := c.be 8 2
def editCount (c : Ctx) : Nat := c.be 12 4
def editArg (c : Ctx) : Nat := c.be 16 8

/-- The layers an edit names. -/
def editLayers (c : Ctx) (b : Binding) : List Nat := if editLayer c = 0xFFFF then List.range b.layers else [editLayer c]

/-- GENERATION, PAGES, LENGTH, and CARVE's two fields. -/
def editReply (l : Layer) (first frames : Nat) : List Byte :=
  beBytes 4 l.generation ++ beBytes 4 l.pages.length ++ beBytes 8 l.length ++ beBytes 4 first ++ beBytes 4 frames

/-- What refuses every edit but BIND and CARVE (R290, R293): an unknown EDIT_OP or sequence, its state, the layer. -/
def editBad (all : Bool) (more : Seq → Binding → Option Bad) (c : Ctx) (s : State) : Option Bad :=
  if 7 ≤ c.be 10 1 then some (bad 7)
  else match editSeq c s with
    | none => some (bad 5)
    | some q =>
      match q.binding with
      | none => some (bad 15)
      | some b =>
        firstBad [
          badIf (q.state = .evicted || q.state = .closed) 15,
          badIf (!(all && editLayer c = 0xFFFF) && decide (b.layers ≤ editLayer c)) 7,
          badIf ((editLayers c b).any fun l => s.commitInFlight q.handle l) 15,
          more q b ]

/-- Change the layers an edit names, raising their generations (R294). -/
def State.editTables (s : State) (h : Nat) (ls : List Nat) (f : Layer → Layer) : State :=
  s.modSeq h fun q => { q with binding := q.binding.map fun b =>
    { b with tables := (List.range b.tables.length).map fun i =>
        let t := b.layer i
        if ls.contains i then { f t with generation := (t.generation + 1) % 2 ^ 32 } else t } }

/-- The reply after an edit: of its layer, or of layer 0. -/
def State.editData (s : State) (c : Ctx) : List Byte :=
  match (editSeq c s).bind (·.binding) with
  | some b => editReply (b.layer (if editLayer c = 0xFFFF then 0 else editLayer c)) 0 0
  | none => zeros 24

/-! ## BIND (R264, R265) -/

def bindAt (c : Ctx) : Binding :=
  { geometry := geoWord (c.be 32 4), layers := c.be 36 2, layout := c.be 38 1, basePos := c.be 40 8,
    frameTokens := c.be 48 4, rowTokens := c.be 52 2, staging := c.be 56 8, stagingOffset := c.be 64 8,
    tables := List.replicate (c.be 36 2) Layer.fresh }

def bindFieldsBad (b : Binding) : Bool :=
  !geoOk b.geometry || b.layers = 0 || decide (512 < b.layers) || decide (2 ≤ b.layout)
    || (if b.layout = 0 then b.basePos ≠ 0 || b.frameTokens ≠ 0 || b.rowTokens ≠ 0
        else b.frameTokens = 0 || b.rowTokens = 0 || b.frameTokens % b.rowTokens ≠ 0 || decide (2 ^ 40 ≤ b.basePos))
    || b.stagingOffset % 4096 ≠ 0

def bindCheck (c : Ctx) (s : State) : Option Bad :=
  let b := bindAt c
  firstBad [
    badIf (decide (c.params.length < 72)) 2,
    badIf (decide (7 ≤ c.be 10 1)) 7,
    badIf (editSeq c s).isNone 5,
    badIf ((editSeq c s).any fun q => q.state ≠ .opened || q.binding.isSome) 15,
    badIf (bindFieldsBad b) 7,
    badIf (s.alloc? c.part b.staging).isNone 5,
    badIf ((s.alloc? c.part b.staging).any fun a => decide (a.bytes < b.stagingOffset + b.layers * b.stageStride)) 6 ]

def execBindSeq (p : Packet) (s : State) : Host.Outcome State Fault Refusal :=
  .next (replyOp opPtEdit bindCheck never nothing
    (fun c s => (s.modSeq (c.be 0 8) fun q => { q with binding := some (bindAt c) }, editReply Layer.fresh 0 0)) p s)

/-! ## APPEND and REPLACE (R291) -/

/-- A body entry: the frame, its PAGE_SCALE, and the page it is for. -/
structure EditEntry where
  frame : Nat
  scale : Nat
  page : Nat
  deriving DecidableEq, Repr

def editEntries (c : Ctx) (first : Nat) : List EditEntry :=
  (List.range (editCount c)).map fun i =>
    { frame := c.be (32 + 16 * i) 4, scale := c.be (36 + 16 * i) 4, page := first + i }

/-- The tag that page `k` of a binding has. -/
def Binding.pageTag (b : Binding) (k : Nat) : Tag := b.tag (k * geoP b.geometry) (geoP b.geometry)

/-- A shared frame's tag differs from that of the new page; a frame named by an earlier entry is shared with its page. -/
def tagsBad (s : State) (b : Binding) : List EditEntry → List (Nat × Tag) → Bool
  | [], _ => false
  | e :: es, seen =>
    let tag := b.pageTag e.page
    let has := (seen.find? (·.1 = e.frame)).map Prod.snd
    let has := if has.isSome then has else
      (s.frame? e.frame).bind fun f => if f.state = .used then some f.tag else none
    (has.any fun t => t ≠ tag) || tagsBad s b es ((e.frame, tag) :: seen)

/-- What the entries of an edit of partition `q` are refused for, in the table's order. -/
def State.entriesBad (s : State) (q : Nat) (b : Binding) (l : Layer) (append : Bool) (es : List EditEntry) : Option Bad :=
  let frames := es.map fun e => s.frame? e.frame
  let total := l.pages.length + es.length
  firstBad [
    badIf (frames.any fun f => !(f.any fun f => f.partition = q)) 5,
    badIf ((frames.any fun f => f.any fun f => f.geometry ≠ b.geometry) || tagsBad s b es []) 7,
    badIf ((!append && es.any fun e => decide (l.pages.length ≤ e.page))
      || es.any fun e => ((s.frame? e.frame).any fun f => f.state = .free) && !scaleWordOk e.scale) 7,
    badIf ((append && l.fill ≠ 0) || (frames.any fun f => f.any fun f => f.state = .ash)
      || (append && decide (65536 < s.kv.boughsUsed + (boughsFor total - l.boughs)))) 15,
    badIf (append && decide (b.cap < total * geoP b.geometry)) 7 ]

/-- Name frames: a FREE one becomes IN_USE with its scale and tag, an IN_USE one gains a reference. -/
def nameFrame (b : Binding) (fs : List PageFrame) (e : EditEntry) : List PageFrame :=
  mapIf (·.num = e.frame) (fun f =>
    if f.state = .free then { f.withTag (b.pageTag e.page) with state := .used, refcount := 1, pageScale := e.scale }
    else { f with refcount := f.refcount + 1 }) fs

def appendMore (c : Ctx) (s : State) (b : Binding) : Option Bad :=
  let l := b.layer (editLayer c)
  s.entriesBad c.part b l true (editEntries c l.pages.length)

def replaceMore (c : Ctx) (s : State) (b : Binding) : Option Bad :=
  s.entriesBad c.part b (b.layer (editLayer c)) false (editEntries c (editArg c))

/-- The body holds all its entries. -/
def bodyShort (c : Ctx) : Bool := decide (c.params.length < 32 + 16 * editCount c)

/-- Apply an APPEND or REPLACE to its layer. -/
def State.applyEntries (s : State) (h lay : Nat) (b : Binding) (append : Bool) (es : List EditEntry) : State :=
  let l := b.layer lay
  let displaced := if append then [] else es.map fun e => l.pages.getD e.page 0
  let pages := if append then l.pages ++ es.map (·.frame)
    else es.foldl (fun ps e => ps.set e.page e.frame) l.pages
  let named := es.foldl (nameFrame b) s.kv.frames
  let s := { s with kv.frames := named.map (unname s.walked displaced)
                    kv.boughsUsed := s.kv.boughsUsed + (boughsFor pages.length - l.boughs) }
  s.editTables h [lay] fun t =>
    { t with pages := pages, boughs := boughsFor pages.length, length := pages.length * geoP b.geometry + t.fill }

def entriesEdit (append : Bool) (first : Ctx → Layer → Nat) (c : Ctx) (s : State) : State × List Byte :=
  match editSeq c s with
  | none => (s, [])
  | some q =>
    match q.binding with
    | none => (s, [])
    | some b =>
      let s := s.applyEntries q.handle (editLayer c) b append (editEntries c (first c (b.layer (editLayer c))))
      (s, s.editData c)

def execAppendPages (p : Packet) (s : State) : Host.Outcome State Fault Refusal :=
  .next (replyOp opPtEdit
    (fun c s => firstBad [badIf (bodyShort c) 2, editBad false (fun _ b => appendMore c s b) c s])
    never nothing (entriesEdit true fun _ l => l.pages.length) p s)

def execReplacePages (p : Packet) (s : State) : Host.Outcome State Fault Refusal :=
  .next (replyOp opPtEdit
    (fun c s => firstBad [badIf (bodyShort c) 2, editBad false (fun _ b => replaceMore c s b) c s])
    never nothing (entriesEdit false fun c _ => editArg c) p s)

/-! ## TRUNCATE, FREE and STATE (R290, R292) -/

/-- A NEW_LENGTH that R292 allows for a layer. -/
def lengthOk (p : Nat) (l : Layer) (n : Nat) : Bool :=
  (n % p = 0 && decide (n ≤ l.pages.length * p)) || (decide (l.pages.length * p ≤ n) && decide (n ≤ l.length))

/-- The layer after TRUNCATE. -/
def Layer.cut (p n : Nat) (l : Layer) : Layer :=
  if n ≤ l.pages.length * p then
    let pages := l.pages.take (n / p)
    { l with pages := pages, boughs := boughsFor pages.length, fill := 0, length := n }
  else { l with fill := n - l.pages.length * p, length := n }

/-- Cut every layer an edit names to a length. -/
def State.cutLayers (s : State) (h : Nat) (b : Binding) (ls : List Nat) (n : Nat) : State :=
  let p := geoP b.geometry
  let gone := (ls.map fun l => (b.layer l).pages.drop ((b.layer l).cut p n).pages.length).flatten
  let boughs := sumOf (fun l => (b.layer l).boughs - ((b.layer l).cut p n).boughs) ls
  { s with kv.frames := s.kv.frames.map (unname s.walked gone), kv.boughsUsed := s.kv.boughsUsed - boughs }.editTables h ls
    (Layer.cut p n)

def cutEffect (length : Ctx → Nat) (c : Ctx) (s : State) : State × List Byte :=
  match editSeq c s with
  | none => (s, [])
  | some q =>
    match q.binding with
    | none => (s, [])
    | some b =>
      let s := s.cutLayers q.handle b (editLayers c b) (length c)
      (s, s.editData c)

def execTruncate (p : Packet) (s : State) : Host.Outcome State Fault Refusal :=
  .next (replyOp opPtEdit
    (fun c s => editBad true (fun _ b =>
      badIf ((editLayers c b).any fun l => !lengthOk (geoP b.geometry) (b.layer l) (editArg c)) 7) c s)
    never nothing (cutEffect editArg) p s)

def execPtFree (p : Packet) (s : State) : Host.Outcome State Fault Refusal :=
  .next (replyOp opPtEdit (editBad true fun _ _ => none) never nothing (cutEffect fun _ => 0) p s)

def execPtState (p : Packet) (s : State) : Host.Outcome State Fault Refusal :=
  .next (replyOp opPtEdit (editBad false fun _ _ => none) never nothing (fun c s => (s, s.editData c)) p s)

/-! ## CARVE (R263) -/

/-- `n` frames of a geometry fit in so many bytes. -/
def carveFits (g bytes n : Nat) : Bool := decide (roundUp (n * dataBytes g) 4096 + n * sidecarBytes g ≤ bytes)

/-- The most frames that fit. -/
def carveMost (g bytes : Nat) : Nat :=
  let n := bytes / (dataBytes g + sidecarBytes g)
  if carveFits g bytes n then n else n - 1

def carveCount (c : Ctx) (bytes : Nat) : Nat := if c.be 44 4 = 0 then carveMost (c.be 40 4) bytes else c.be 44 4

/-- The lowest run of `n` numbers below 2,097,152 that a rising list leaves free. -/
def lowestRun (n : Nat) : List Nat → Nat → Option Nat
  | [], at_ => if at_ + n ≤ 2097152 then some at_ else none
  | k :: ks, at_ => if at_ + n ≤ k then some at_ else lowestRun n ks (max at_ (k + 1))

def State.carveRun (s : State) (n : Nat) : Option Nat :=
  lowestRun n (sortBy (fun a b => decide (a < b)) (s.kv.frames.map (·.num))) 0

def carveCheck (c : Ctx) (s : State) : Option Bad :=
  let a := s.alloc? c.part (c.be 32 8)
  firstBad [
    badIf (decide (c.params.length < 48)) 2,
    badIf (decide (7 ≤ c.be 10 1)) 7,
    badIf a.isNone 5,
    badIf (!geoOk (c.be 40 4) || a.any fun a => !a.kv) 7,
    badIf (a.any (·.carved)) 15,
    badIf (a.any fun a => carveCount c a.bytes = 0 || !carveFits (c.be 40 4) a.bytes (carveCount c a.bytes)) 6 ]

def carveQuota (c : Ctx) (s : State) : Option Bad :=
  match s.alloc? c.part (c.be 32 8) with
  | some a => refuseIf (s.carveRun (carveCount c a.bytes)).isNone 0x0103 6
  | none => none

def carveEffect (c : Ctx) (s : State) : State × List Byte :=
  match s.alloc? c.part (c.be 32 8) with
  | none => (s, [])
  | some a =>
    let g := geoWord (c.be 40 4)
    let n := carveCount c a.bytes
    let first := (s.carveRun n).getD 0
    let side := roundUp (n * dataBytes g) 4096
    let frames := (List.range n).map fun j : Nat =>
      { num := first + j, dataVa := a.base + j * dataBytes g, sidecarVa := a.base + side + j * sidecarBytes g,
        refcount := 0, partition := c.part, state := .free, geometry := g, pageScale := 0, tagFlags := 0, t0 := 0,
        t1 := 0, y0 := 0, y1 := 0, x0 := 0, x1 := 0, listOwner := if a.evictable then a.owner else 0,
        alloc := a.handle : PageFrame }
    ({ s with kv.frames := s.kv.frames ++ frames }.modAlloc a.handle fun a => { a with carved := true },
     editReply Layer.fresh first n)

def execCarve (p : Packet) (s : State) : Host.Outcome State Fault Refusal :=
  .next (replyOp opPtEdit carveCheck carveQuota nothing carveEffect p s)

end Sys2Proof.Machine
end

