-- ==== Sys2Proof/Machine/Cores.lean ====
section
/-! DEFINITION. Hearth cores: decoding and issue with hazards, units and table banks; messages, waits and fences; and
retirement (04 R129 to R140, 05 R166, R184, 11 R370, 19 R583). -/

namespace Sys2Proof.Machine

/-! ## Hazards (04 R130) -/

def meets (xs ys : List Span) : Bool := xs.any fun x => ys.any fun y => decide (x.1 < y.2) && decide (y.1 < x.2)

/-- An unretired macro-instruction writes what a new one reads or writes, or reads what it writes. -/
def hazard (ms : List Macro) (reads writes : List Span) : Bool :=
  ms.any fun m => meets m.writes (reads ++ writes) || meets m.reads writes

/-! ## Stalls (04 R140) -/

def Macro.waits (m : Macro) : Bool :=
  match m.pending with
  | .sending _ | .receiving _ => true
  | _ => false

/-- A macro-instruction waits on a slot, a message, a barrier or an event counter, and no other works. -/
def CoreSt.stalled (c : CoreSt) : Bool :=
  let waits := match c.hold with
    | .counter _ _ | .barrier _ | .mailbox _ _ => true
    | _ => false
  (waits || c.unretired.any Macro.waits)
    && !(c.unretired.any fun m => !m.waits && !(c.hold ≠ .none && m.index = c.holdIndex))

/-- Note whether a core is stalled; `moved` says that it has moved data, which restarts the timer. -/
def State.restall (s : State) (core : Nat) (moved : Bool) : State :=
  s.modCore core fun c => { c with
    stalledSince := if c.stalled then (if moved then some s.clock.steady else some (c.stalledSince.getD s.clock.steady))
                    else none }

/-! ## Kinds -/

/-- A kind of macro-instruction: the entries it takes, how one is read and checked at issue, the hob ranges it reads
and writes beside its descriptors, the entries it stands for, whether it holds a DMA engine, when a unit it needs is
not free, the custom tables it looks up in, and what it does once issued. -/
structure Kind (P : Type) where
  mine : Hob → Entry → Bool
  read : Hob → State → Job → Rd P
  reads : P → List Span
  writes : P → List Span
  span : P → Nat
  dma : Bool
  blocked : P → CoreSt → Bool
  table : P → List (Nat × Nat)
  run : P → Job → Macro → State → State × Macro

/-! ## Decoding (05 R184) -/

/-- Index of the oldest unretired macro-instruction. -/
def CoreSt.oldest (c : CoreSt) : Nat := (c.unretired.map (·.index)).foldl min c.next

/-- The run whose next entry a core may bring to issue now: it runs, nothing holds issue (04 R136, R138, R155, 09 R325, 11
R370), an entry is left within the decode window, and the die's clock runs. -/
def State.front (s : State) (core : Nat) : Option Run :=
  let c := s.coreAt core
  if c.run = 0 || c.halting || c.hold ≠ .none || c.skip ≠ 0 || decide (c.progLen ≤ c.next)
      || decide (c.oldest + 32 < c.next) || s.dieMhz (coreDie core) = 0
      || c.unretired.any (fun m => match m.pending with | .table _ => true | _ => false) then none
  else (s.run? c.run).filter (·.started)

/-- The next entry as it was decoded, or as it is now. -/
def State.decodeNext (s : State) (core : Nat) : State × List Byte :=
  let c := s.coreAt core
  match c.decoded with
  | some d => (s, d.1)
  | none =>
    let b := s.hobRead core (c.progBase + 32 * c.next) 32
    (s.modCore core fun c => { c with decoded := some (b, (s.dieAt (coreDie core)).ticks) }, b)

/-! ## Table banks (11 R369 to R372) -/

def Bank.holds (b : Bank) (q : Nat) (key : Nat × Nat) : Bool :=
  b.valid && b.partition = q && b.va = key.1 && b.version = key.2

/-- A bank for each of some keys, each with whether it must be loaded: the bank that holds the key, or else a bank that is
free, or none when the macro-instruction has to wait. -/
def CoreSt.bind (c : CoreSt) (q : Nat) (keys : List (Nat × Nat)) : Option (List (Nat × Bool)) :=
  let held := keys.filterMap fun k => c.banks.findIdx? (·.holds q k)
  keys.foldlM (fun got k =>
    match c.banks.findIdx? (·.holds q k) with
    | some i => some (got ++ [(i, false)])
    | none =>
      ((List.range 2).find? fun i => !(c.unretired.any fun m => m.banks.contains i) && !held.contains i
        && !got.any fun g => g.1 = i).map fun i => got ++ [(i, true)]) []

def CoreSt.setBank (c : CoreSt) (i : Nat) (b : Bank) : CoreSt := { c with banks := c.banks.set i b }

/-- Begin a load: header and segments are read once, now (R371). -/
def State.loadBank (s : State) (j : Job) (i : Nat) (key : Nat × Nat) : State :=
  let there := fun n => (s.placeOf j.q j.opId key.1 n).isSome
  let head := if there 64 then s.spaceRead j true key.1 64 else []
  let n := 64 + min (leAt head 28 4) 65536
  let n := if head.isEmpty then 0 else if there n then n else 64
  let b : Bank :=
    { valid := false, partition := j.q, va := key.1, version := key.2, table := s.spaceRead j true key.1 n,
      poisoned := s.spaceBad j true key.1 n, loading := true }
  let s := s.demand j (sectorsOf key.1 n)
  s.modCore j.core fun c => { c.setBank i b with tableLoads := satAdd 16 c.tableLoads 1 }

/-! ## Issue (04 R129 to R131, 05 R166) -/

def State.waitIssue (s : State) (core : Nat) (hazard : Bool) : State :=
  s.modCore core fun c => { c with issueWait := hazard }

def Macro.start (j : Job) (bytes : List Byte) (decoded now : Nat) : Macro :=
  { index := j.index, span := 1, entry := bytes, opId := j.opId, desc := [], reads := [], writes := [], dma := false,
    pending := .none, status := [], late := [], poisoned := false, failed := false, decodeTick := decoded,
    issueTick := now, attnSeq := 0, attnLayer := 0, attnHalf := 0, attnFill := 0, frames := [], commit := none, banks := [] }

/-- What has just been written is this macro-instruction's output. -/
def State.claim (s : State) (core : Nat) (m : Macro) : State :=
  s.modCore core fun c => { c with outputs := mapIf (·.op = 0) (fun o => { o with op := m.opId }) c.outputs }

def State.pushMacro (s : State) (core : Nat) (m : Macro) : State :=
  ((s.modCore core fun c => { c with unretired := c.unretired ++ [m] }).claim core m).restall core true

/-- A macro-instruction's launch takes note of what it reads poisoned. -/
def State.modMacro (s : State) (core index : Nat) (f : Macro → Macro) : State :=
  s.modCore core fun c => { c with unretired := mapIf (·.index = index) f c.unretired }

/-- Engines held by MOVE, SEND and RECV (R129). -/
def CoreSt.enginesHeld (c : CoreSt) : Nat := (c.unretired.filter (·.dma)).length

/-- What R131 finds when an entry is decoded. -/
def State.decodeStop (s : State) (e : Entry) : Option Stop :=
  if !opCodes.contains e.op then some .field
  else if e.op = 7 && !s.unitPresent 0 then some (.unit 0)
  else if e.op = 8 && !s.unitPresent 1 then some (.unit 1)
  else none

/-- What a macro-instruction reads at issue: hob memory, and module memory above `moduleMark`. -/
def State.issueHob (s : State) (core : Nat) (r : Run) : Hob := fun a n =>
  if a < moduleMark then s.hobRead core a n
  else s.readMem { core := some core, journal := s.runJournal r } r.partition (a - moduleMark) n

/-- Some of it is poisoned. -/
def State.issueBad (s : State) (core : Nat) (r : Run) (x : Span) : Bool :=
  if x.1 < moduleMark then s.hobPoisoned core x.1 (x.2 - x.1)
  else s.rangePoison { core := some core, journal := s.runJournal r } r.partition (x.1 - moduleMark) (x.2 - x.1)

/-- The macro-instruction issues: it leaves the program table, binds its bank, and is carried out. -/
def State.startMacro {P : Type} (k : Kind P) (s : State) (j : Job) (p : P) (bytes : List Byte) (tr : Trace) : State :=
  let c := s.coreAt j.core
  let ticks := (s.dieAt (coreDie j.core)).ticks
  let spans := tr.descs ++ tr.peeks
  let m := { Macro.start j bytes ((c.decoded.map (·.2)).getD ticks) ticks with
    span := k.span p, reads := tr.descs ++ k.reads p, writes := k.writes p, dma := k.dma,
    desc := spans.map fun (x : Span) => (x.1, s.issueHob j.core j.run x.1 (x.2 - x.1)) }
  let s := { s with mem.nextOp := s.mem.nextOp + 1 }.modCore j.core fun c =>
    { c with next := c.next + k.span p, decoded := none, issueWait := false }.count 0x02 1 j.entry.op
  let bound := (c.bind j.q (k.table p)).getD []
  let m := { m with banks := bound.map Prod.fst }
  match bound.find? (·.2) with
  | none =>
    let (s, m) := k.run p j m s
    s.pushMacro j.core m
  | some first =>
    let s := ((k.table p).zip bound).foldl (fun s x => if x.2.2 then s.loadBank j x.2.1 x.1 else s) s
    s.pushMacro j.core { m with pending := .table first.1 }

/-- Bring the next entry of a core to issue, if it is one of kind `k` (R166). -/
def State.issue {P : Type} (k : Kind P) (core : Nat) (s : State) : State :=
  match s.front core with
  | none => s
  | some r =>
    let (s, bytes) := s.decodeNext core
    let e := macroEntry bytes
    let c := s.coreAt core
    let fail := fun x : Stop => s.failRun r.id x.status x.cause c.rel c.next
    match s.decodeStop e with
    | some x => fail x
    | none =>
      if !k.mine (s.issueHob core r) e then s
      else
        let j : Job := { core := core, run := r, index := c.next, entry := e, opId := s.mem.nextOp, bad := false }
        let (res, tr) := (k.read (s.issueHob core r) s j).run.run { descs := [], peeks := [] }
        if !e.noHazard && hazard c.unretired tr.descs [] then s.waitIssue core true
        else
          match res with
          | .error x => fail x
          | .ok p =>
            if !e.noHazard && hazard c.unretired (tr.descs ++ k.reads p) (k.writes p) then s.waitIssue core true
            else if (k.dma && decide (4 ≤ c.enginesHeld)) || k.blocked p c
                || (c.bind j.q (k.table p)).isNone then s.waitIssue core false
            else
              let bad := tr.descs.any (s.issueBad core r)
              s.startMacro k { j with bad := bad } p bytes tr

/-! ## Carrying out what has waited -/

/-- Hob memory as a macro-instruction copied it at issue. -/
def Macro.hob (m : Macro) : Hob := fun a n =>
  match m.desc.find? fun d => decide (d.1 ≤ a) && decide (a + n ≤ d.1 + d.2.length) with
  | some d => (d.2.drop (a - d.1)).take n
  | none => zeros n

def Macro.job (core : Nat) (r : Run) (bad : Bool) (m : Macro) : Job :=
  { core := core, run := r, index := m.index, entry := macroEntry m.entry, opId := m.opId, bad := bad }

/-- Carry out a macro-instruction that has waited since its issue, on what it copied then. -/
def State.resume {P : Type} (k : Kind P) (core : Nat) (r : Run) (m : Macro) (s : State) : State :=
  let bad := m.reads.any fun x => m.desc.any fun d => d.1 = x.1 && s.issueBad core r x
  let j := m.job core r bad
  match (k.read m.hob s j).run.run { descs := [], peeks := [] } with
  | (.ok p, _) =>
    let (s, m') := k.run p j { m with pending := .none } s
    ((s.modMacro core m.index fun _ => m').claim core m).restall core true
  | (.error _, _) => (s.modMacro core m.index fun m => { m with pending := .none }).restall core true

/-! ## Messages (04 R132 to R135, R139) -/

/-- A SEND as read: destination, tag, source address and length. -/
structure SendPlan where
  dest : Nat
  tag : Nat
  src : Nat
  length : Nat
  deriving DecidableEq, Repr

/-- Fragments of a message. -/
def fragments (length : Nat) : Nat := max 1 (ceilDiv length 256)

def sendFields (e : Entry) : SendPlan :=
  { dest := bitsOf e.imm 22 16, tag := e.imm % 65536, src := e.opnd 0, length := e.opnd 1 }

def readSend (_ : Hob) (_ : State) (j : Job) : Rd SendPlan := do
  let p := sendFields j.entry
  stopIf (j.entry.reservedBad || decide (2 ^ 23 ≤ j.entry.imm) || decide (j.run.cores.length ≤ p.dest)
    || decide (65536 < p.length)) .field
  stopIf (decide (hobTop ≤ p.src) || decide (hobTop < p.src + p.length)) .bounds
  pure p

/-- The request for the slot of fragment `k` of a message (R135). -/
def State.fragment (s : State) (core opId rel message k : Nat) (p : SendPlan) : SlotRequest :=
  let n := min 256 (p.length - 256 * k)
  { sender := core, opId := opId, message := message, source := rel, tag := p.tag, length := p.length,
    bytes := s.hobRead core (p.src + 256 * k) n, poison := s.hobPoisoned core (p.src + 256 * k) n,
    last := decide (k + 1 = fragments p.length) }

def runSend (p : SendPlan) (j : Job) (m : Macro) (s : State) : State × Macro :=
  let dest := j.run.cores.getD p.dest 0
  let d := s.coreAt dest
  let m := { m with poisoned := s.hobPoisoned j.core p.src p.length }
  if d.finished || d.run ≠ j.run.id then (s.modCore dest fun c => { c with dropped := satAdd 16 c.dropped 1 }, m)
  else
    let f := s.fragment j.core j.opId (s.coreAt j.core).rel d.nextMessage 0 p
    (s.modCore dest fun c => { c with requests := c.requests ++ [f], nextMessage := c.nextMessage + 1 },
     { m with pending := .sending (fragments p.length) })

def kindSend : Kind SendPlan :=
  { mine := fun _ e => e.op = 0x11, read := readSend, reads := fun p => [(p.src, p.src + p.length)], writes := fun _ => [],
    span := fun _ => 1, dma := true, blocked := fun _ _ => false, table := fun _ => [], run := runSend }

/-- SEND (R133). -/
def execSendMsg (e : Env) (core : Nat) (s : State) : Host.Outcome State Fault Refusal :=
  .next ((enter e s).issue kindSend core)

/-- A RECV as read. -/
structure RecvPlan where
  tag : Nat
  source : Nat
  anySource : Bool
  anyTag : Bool
  dst : Nat
  maxLength : Nat
  receipt : Nat
  deriving DecidableEq, Repr

def recvFields (e : Entry) : RecvPlan :=
  { tag := e.imm % 65536, source := bitsOf e.imm 22 16, anySource := e.imm.testBit 23, anyTag := e.imm.testBit 24,
    dst := e.opnd 0, maxLength := e.opnd 1, receipt := e.opnd 2 }

def readRecv (_ : Hob) (_ : State) (j : Job) : Rd RecvPlan := do
  let p := recvFields j.entry
  stopIf (j.entry.reservedBad || decide (2 ^ 25 ≤ j.entry.imm) || decide (65536 < p.maxLength)) .field
  stopIf (decide (hobTop ≤ p.dst) || decide (hobTop < p.dst + p.maxLength)
    || (p.receipt ≠ absent && decide (hobTop < p.receipt + 8))) .bounds
  pure p

def RecvPlan.wants (p : RecvPlan) (m : Message) : Bool :=
  (p.anySource || m.source = p.source) && (p.anyTag || m.tag = p.tag)

/-- Messages that a RECV of the core drains. -/
def CoreSt.taken (c : CoreSt) : List Nat := c.unretired.filterMap fun m =>
  match m.pending with
  | .receiving (some k) => some k
  | _ => none

/-- The 8-byte receipt (R134). -/
def receiptBytes (p : RecvPlan) (m : Message) : List Byte :=
  leBytes 4 m.length ++ leBytes 1 m.source ++ leBytes 1 (b2n (decide (p.maxLength < m.length))) ++ leBytes 2 m.tag

/-- Copy one fragment of a message into hob memory, as far as MAX_LENGTH lets it. -/
def State.copyFragment (s : State) (core : Nat) (p : RecvPlan) (k : Nat) (f : List Byte × Bool) : State :=
  let bs := f.1.take (p.maxLength - 256 * k)
  if bs.isEmpty then s
  else
    let s := s.hobWrite core (p.dst + 256 * k) bs
    if f.2 then s.hobMark core (sectorsOf (p.dst + 256 * k) bs.length) else s

/-- A RECV drains what its message holds: every slot is freed as it is copied, and after the last fragment the receipt is
written and the message is gone. -/
def State.drainInto (s : State) (core : Nat) (m : Macro) (g : Message) : State × Macro :=
  let p := recvFields (macroEntry m.entry)
  let n := g.frags.length
  let s := (List.range n).foldl (fun s i => s.copyFragment core p (g.drained + i) (g.frags.getD i ([], false))) s
  let bad := m.poisoned || g.frags.any (·.2)
  let done := decide (g.drained + n = fragments g.length)
  let s := if done ∧ p.receipt ≠ absent then s.hobWrite core p.receipt (receiptBytes p g) else s
  let keep := fun c : CoreSt => if done then c.mailbox.filter (·.id ≠ g.id)
    else mapIf (·.id = g.id) (fun g => { g with frags := [], drained := g.drained + n }) c.mailbox
  ((s.claim core m).modCore core fun c => { c with mailbox := keep c, slotsUsed := c.slotsUsed - n },
   { m with poisoned := bad, pending := if done then .none else .receiving (some g.id) })

/-- A RECV takes the earliest-arriving message that matches it, and drains what has arrived. -/
def State.serveRecv (s : State) (core : Nat) (m : Macro) : State × Macro :=
  let c := s.coreAt core
  match m.pending with
  | .receiving (some k) =>
    match c.mailbox.find? (·.id = k) with
    | some g => s.drainInto core m g
    | none => (s, m)
  | .receiving none =>
    match c.mailbox.find? fun g => !c.taken.contains g.id && (recvFields (macroEntry m.entry)).wants g with
    | some g => s.drainInto core m g
    | none => (s, m)
  | _ => (s, m)

def runRecv (_ : RecvPlan) (j : Job) (m : Macro) (s : State) : State × Macro :=
  s.serveRecv j.core { m with pending := .receiving none }

def kindRecv : Kind RecvPlan :=
  { mine := fun _ e => e.op = 0x12, read := readRecv, reads := fun _ => [],
    writes := fun p => (p.dst, p.dst + p.maxLength) :: (if p.receipt = absent then [] else [(p.receipt, p.receipt + 8)]),
    span := fun _ => 1, dma := true, blocked := fun _ _ => false, table := fun _ => [], run := runRecv }

/-- RECV (R134). -/
def execRecv (e : Env) (core : Nat) (s : State) : Host.Outcome State Fault Refusal :=
  .next ((enter e s).issue kindRecv core)

/-- Let the RECVs of a core, oldest first, take what its mailbox now holds. -/
def State.serveRecvs (s : State) (core : Nat) : State :=
  ((s.coreAt core).unretired.filter Macro.waits).foldl (fun s m =>
    match (s.coreAt core).unretired.find? (·.index = m.index) with
    | some m =>
      let (s, m') := s.serveRecv core m
      s.modMacro core m.index fun _ => m'
    | none => s) s

/-- The fragment at the head of a mailbox's requests enters it, and its sender asks for the next. -/
def State.grantSlot (s : State) (core : Nat) (f : SlotRequest) : State :=
  let g : Message := { id := f.message, source := f.source, tag := f.tag, length := f.length, frags := [], arrived := 0, drained := 0 }
  let s := s.modCore core fun c =>
    let box := if c.mailbox.any (·.id = f.message) then c.mailbox else c.mailbox ++ [g]
    { c with
      requests := c.requests.drop 1, slotsUsed := c.slotsUsed + 1
      mailbox := mapIf (·.id = f.message)
        (fun g => { g with frags := g.frags ++ [(f.bytes, f.poison)], arrived := g.arrived + 1 }) box }
  match (s.coreAt f.sender).unretired.find? (·.opId = f.opId) with
  | none => s
  | some m =>
    let p := sendFields (macroEntry m.entry)
    let left := match m.pending with | .sending n => n - 1 | _ => 0
    let s := s.modMacro f.sender m.index fun m => { m with pending := if left = 0 then .none else .sending left }
    let s := if left = 0 then s
      else
        let next := s.fragment f.sender f.opId f.source f.message (fragments p.length - left) p
        s.modCore core fun c => { c with requests := c.requests ++ [next] }
    s.restall f.sender true

/-- MAILBOX_SLOT_GRANT (R135): the oldest request is granted while a slot is free. -/
def execMailboxSlotGrant (e : Env) (core : Nat) (s : State) : Host.Outcome State Fault Refusal :=
  let s := enter e s
  let c := s.coreAt core
  .next (match c.requests with
    | f :: _ =>
      if c.slotsUsed < 64 ∧ s.dieMhz (coreDie f.sender) ≠ 0 then
        ((s.grantSlot core f).serveRecvs core).restall core true
      else s
    | [] => s)

/-! ## WAIT (04 R136, R137) -/

def readWait (kind : Nat) (_ : Hob) (_ : State) (j : Job) : Rd Unit := do
  let _ := kind
  let e := j.entry
  stopIf (e.reservedBad || decide (3 ≤ e.imm % 16) || bitsOf e.imm 15 9 ≠ 0) .field

/-- Complete messages of a tag that a mailbox holds. -/
def CoreSt.heldMessages (c : CoreSt) (tag : Nat) : Nat :=
  (c.mailbox.filter fun g => g.tag = tag && g.arrived = fragments g.length && !c.taken.contains g.id).length

/-- The condition of a WAIT holds. -/
def State.waitHolds (s : State) (core : Nat) (r : Run) : Bool :=
  let c := s.coreAt core
  match c.hold with
  | .counter k n => decide (n ≤ c.events.getD k 0)
  | .barrier n => r.cores.all fun m => coreCluster m ≠ coreCluster core || decide (n ≤ (s.coreAt m).barriers)
  | .mailbox tag n => decide (n ≤ c.heldMessages tag)
  | _ => false

/-- A WAIT is entered: it holds issue unless its condition holds already. -/
def runWait (_ : Unit) (j : Job) (m : Macro) (s : State) : State × Macro :=
  let e := j.entry
  let n := e.opnd 0
  let kind := e.imm % 16
  let s := s.modCore j.core fun c => { c with
    barriers := if kind = 1 then c.barriers + 1 else c.barriers
    holdIndex := j.index
    hold := if kind = 0 then .counter (bitsOf e.imm 8 4) n else if kind = 1 then .barrier (c.barriers + 1)
            else .mailbox (bitsOf e.imm 31 16) n }
  (if s.waitHolds j.core j.run then s.modCore j.core fun c => { c with hold := .none } else s, m)

/-- WAIT of one KIND; an entry of a reserved KIND is taken too, and ends the launch. -/
def kindWait (kind : Nat) : Kind Unit :=
  { mine := fun _ e => e.op = 0x20 && (e.imm % 16 = kind || decide (3 ≤ e.imm % 16)), read := readWait kind,
    reads := fun _ => [], writes := fun _ => [], span := fun _ => 1, dma := false, blocked := fun _ _ => false,
    table := fun _ => [], run := runWait }

def execWaitCounter (e : Env) (core : Nat) (s : State) : Host.Outcome State Fault Refusal :=
  .next ((enter e s).issue (kindWait 0) core)

def execClusterBarrier (e : Env) (core : Nat) (s : State) : Host.Outcome State Fault Refusal :=
  .next ((enter e s).issue (kindWait 1) core)

def execWaitMailbox (e : Env) (core : Nat) (s : State) : Host.Outcome State Fault Refusal :=
  .next ((enter e s).issue (kindWait 2) core)

/-- WAIT_SATISFIED: a WAIT whose condition holds lets issue go on (R136). -/
def execWaitSatisfied (e : Env) (core : Nat) (s : State) : Host.Outcome State Fault Refusal :=
  let s := enter e s
  .next (match s.run? (s.coreAt core).run with
    | some r => if s.waitHolds core r then (s.modCore core fun c => { c with hold := .none }).restall core true else s
    | none => s)

/-! ## FENCE (04 R138, 07 R237) -/

def readFence (_ : Hob) (_ : State) (j : Job) : Rd Unit :=
  stopIf (j.entry.reservedBad || decide (3 ≤ j.entry.imm)) .field

/-- A fence is over once every earlier macro-instruction has retired; with scope MODULE the core's writes then leave the
write stage of its die. -/
def State.settleFence (s : State) (core : Nat) : State :=
  let c := s.coreAt core
  match c.hold with
  | .fence scope =>
    if c.unretired.all fun m => decide (c.holdIndex ≤ m.index) then
      let s := if scope = 2 then s.drainStage (coreDie core) (fun w => w.core = core) else s
      s.modCore core fun c => { c with hold := .none }
    else s
  | _ => s

def runFence (_ : Unit) (j : Job) (m : Macro) (s : State) : State × Macro :=
  ((s.modCore j.core fun c => { c with hold := .fence j.entry.imm, holdIndex := j.index }).settleFence j.core, m)

/-- FENCE of one SCOPE; an entry of the reserved SCOPE is taken too, and ends the launch. -/
def kindFence (scope : Nat) : Kind Unit :=
  { mine := fun _ e => e.op = 0x21 && (e.imm = scope || decide (3 ≤ e.imm)), read := readFence, reads := fun _ => [],
    writes := fun _ => [], span := fun _ => 1, dma := false, blocked := fun _ _ => false, table := fun _ => [],
    run := runFence }

def execFenceCore (e : Env) (core : Nat) (s : State) : Host.Outcome State Fault Refusal :=
  .next ((enter e s).issue (kindFence 0) core)

def execFenceDie (e : Env) (core : Nat) (s : State) : Host.Outcome State Fault Refusal :=
  .next ((enter e s).issue (kindFence 1) core)

def execFenceModule (e : Env) (core : Nat) (s : State) : Host.Outcome State Fault Refusal :=
  .next ((enter e s).issue (kindFence 2) core)

/-! ## Retirement (04 R129, R137, R139, 19 R578, R583, R584) -/

/-- What retirement tells of a macro-instruction in a sample record. -/
structure Retired where
  index : Nat
  entry : List Byte
  skipped : Bool
  failed : Bool
  poisoned : Bool
  wait : Nat
  exec : Nat
  deriving DecidableEq, Repr

/-- A sample record (R584). -/
def State.sampleBytes (s : State) (core : Nat) (r : Run) (x : Retired) : List Byte :=
  let c := s.coreAt core
  let cmd := (s.runCmds r).head?.bind s.cmd?
  let build := ((s.mem.images.find? (·.handle = r.image)).map fun i => imgBuild i.bytes).getD 0
  leBytes 2 core ++ leBytes 1 (leAt x.entry 0 1)
    ++ leBytes 1 (b2n x.skipped + 2 * b2n x.failed + 4 * b2n x.poisoned + 8 * b2n (decide (0 < s.attemptOf r)))
    ++ leBytes 4 x.index ++ leBytes 4 (c.progBase + 32 * x.index) ++ leBytes 4 (min x.wait 0xFFFFFFFF)
    ++ leBytes 4 (min x.exec 0xFFFFFFFF) ++ leBytes 4 ((cmd.map (·.jobTag)).getD 0) ++ leBytes 8 s.clock.mt
    ++ leBytes 8 ((cmd.map (·.costId)).getD 0) ++ leBytes 8 build ++ leBytes 4 ((cmd.map (·.seq)).getD 0) ++ zeros 12

/-- Count a retirement toward the core's next sample, and take it (R583). -/
def State.sample (s : State) (core : Nat) (r : Run) (x : Retired) : State :=
  let c := s.coreAt core
  if c.countdown = 0 then s
  else if 1 < c.countdown then s.modCore core fun c => { c with countdown := c.countdown - 1 }
  else
    let k := s.ctrOf r.partition
    let s := s.modCore core fun c => { c with countdown := samplePeriod k.shift }
    if 32 ≤ c.samples.length then s.setCtr { k with lost := satAdd 32 k.lost 1 }
    else s.modCore core fun c => { c with samples := c.samples ++ [s.sampleBytes core r x] }

/-- One entry has retired: its SIGNAL, its counters, its sample. -/
def State.entryRetired (s : State) (core : Nat) (r : Run) (x : Retired) : State :=
  let e := macroEntry x.entry
  let k := e.ctr % 32
  let s := s.modCore core fun c =>
    let c := if e.signal then { c with events := c.events.set k (satAdd 32 (c.events.getD k 0) 1) } else c
    let c := c.count 0x03 1 e.op
    if x.skipped then c.count 0x04 1 e.op else c
  s.sample core r x

/-- A core that retires its last macro-instruction discards its messages, and senders to it go on (R139). -/
def State.settleCore (s : State) (core : Nat) (r : Run) : State :=
  let c := s.coreAt core
  if c.unretired.isEmpty && c.skip = 0 && (c.halting || decide (c.progLen ≤ c.next)) then
    let s := (s.clearMailbox core).modCore core fun c => { c with finished := true, stalledSince := none }
    r.cores.foldl (fun s n =>
      let gone := fun m : Macro => (match m.pending with | .sending _ => true | _ => false)
        && r.cores.getD (sendFields (macroEntry m.entry)).dest 0 = core
      if (s.coreAt n).unretired.any gone then
        (s.modCore n fun c => { c with unretired := mapIf gone (fun m => { m with pending := .none }) c.unretired }).restall n true
      else s) s
  else s

/-- What an ATTN with COMMIT set publishes (08 R280): one new generation, unless it appended nothing. -/
def State.publishAppend (s : State) (m : Macro) : State :=
  match m.commit with
  | none => s
  | some k =>
    match (s.seqs.table.find? (·.handle = m.attnSeq)).bind (·.binding) with
    | none =>
      { s with kv.frames := mapIf (fun f => k.pages.contains f.num) (fun f => { f with state := .free, refcount := 0 }) s.kv.frames
               kv.boughsUsed := s.kv.boughsUsed - k.boughs }
    | some b =>
      if (b.layer m.attnLayer).length = k.length then s
      else s.editTables m.attnSeq [m.attnLayer] fun t =>
        { t with pages := t.pages ++ k.pages, boughs := t.boughs + k.boughs, half := k.half, fill := k.fill, length := k.length }

/-- An ATTN with COMMIT set and tokens to append retires (12 R404). -/
def Macro.appended (s : State) (m : Macro) : Bool :=
  m.commit.any fun k => (((s.seqs.table.find? (·.handle = m.attnSeq)).bind (·.binding)).map fun b =>
    decide ((b.layer m.attnLayer).length ≠ k.length)).getD false

/-- The effects of retirement of an issued macro-instruction. -/
def State.retire (s : State) (core : Nat) (r : Run) (m : Macro) : State :=
  let now := (s.dieAt (coreDie core)).ticks
  let s := m.late.foldl (fun s w => s.hobWrite core w.1 w.2) s
  let s := (m.status.foldl (fun s w => s.addStatus core w.1 w.2) s).claim core m
  let s := s.modRun r.id fun r => { r with poisoned := r.poisoned || m.poisoned, committed := r.committed || m.appended s }
  let s := s.publishAppend m
  let s := (s.modCore core fun c => { c with
    unretired := c.unretired.filter (·.index ≠ m.index), lastTick := now
    updates := if leAt m.entry 0 1 = 7 then satAdd 16 c.updates 1 else c.updates }).releaseAsh
  let c := s.coreAt core
  let s := (List.range m.span).foldl (fun s i =>
    s.entryRetired core r
      { index := m.index + i, entry := if i = 0 then m.entry else m.hob (c.progBase + 32 * (m.index + i)) 32, skipped := false,
        failed := m.failed, poisoned := m.poisoned, wait := (m.issueTick - m.decodeTick) / 1000,
        exec := (now - m.issueTick) / 1000 }) s
  ((s.settleFence core).settleCore core r).restall core true

/-- A SEND or RECV that waits on a core whose run has stopped: the messages it waits for are discarded (R139, R155), so it
may retire as it stands (DEDUCED, log entry 42). -/
def Macro.adrift (m : Macro) (c : CoreSt) : Bool :=
  c.halting && (match m.pending with | .sending _ => true | .receiving _ => true | _ => false)

/-- An issued macro-instruction may retire: nothing holds it back, and no Damper holds a request of it. -/
def State.mayRetire (s : State) (core : Nat) (r : Run) (m : Macro) : Bool :=
  let c := s.coreAt core
  (m.pending = .none || m.adrift c) && (c.hold = .none || c.holdIndex ≠ m.index) && !s.damperHolds r.partition (.core core m.opId)

/-- The next entry retires unissued (09 R325). -/
def State.retireSkipped (s : State) (core : Nat) (r : Run) : State :=
  let c := s.coreAt core
  let x : Retired :=
    { index := c.next, entry := s.hobRead core (c.progBase + 32 * c.next) 32, skipped := true, failed := false,
      poisoned := false, wait := 0, exec := 0 }
  let s := s.modCore core fun c => { c with next := c.next + 1, skip := c.skip - 1, lastTick := (s.dieAt (coreDie core)).ticks }
  ((s.entryRetired core r x).settleCore core r).restall core true

/-- MACRO_RETIRE. -/
def execMacroRetire (e : Env) (core index : Nat) (s : State) : Host.Outcome State Fault Refusal :=
  let s := enter e s
  let c := s.coreAt core
  .next (match s.run? c.run with
    | none => s
    | some r =>
      if s.dieMhz (coreDie core) = 0 then s
      else match c.unretired.find? (·.index = index) with
      | some m => if s.mayRetire core r m then s.retire core r m else s
      | none => if c.skip ≠ 0 ∧ c.next = index then s.retireSkipped core r else s)

end Sys2Proof.Machine
end

