-- ==== Sys2Proof/Machine/Flame.lean ====
section
/-! DEFINITION. The functions of the Flame unit: the built-in codes within the bounds of 11 R361, and custom tables with
their checks (11 R360 to R363, R367 to R369). -/

namespace Sys2Proof.Machine

/-! ## Exact results, to far more bits than FP32 holds -/

/-- Fixed point of 512 fraction bits. -/
def fixOne : Int := 2 ^ 512
def toFix (x : Rat) : Int := x.num * fixOne / (x.den : Int)
def ofFix (n : Int) : Rat := mkRat n (2 ^ 512)
def fixMul (a b : Int) : Int := a * b / fixOne

/-- Sum of x^k ÷ k! from term `k` on, `n` terms. -/
def expTerms (x : Int) : Nat → Nat → Int → Int
  | 0, _, _ => 0
  | n + 1, k, t => t + expTerms x n (k + 1) (fixMul t x / ((k : Int) + 1))

/-- Sum of z^(2k+1) ÷ (2k+1), `n` terms: z2 is z², alternating with `sign` -1. -/
def atanTerms (z2 sign : Int) : Nat → Nat → Int → Int
  | 0, _, _ => 0
  | n + 1, k, t => t / (2 * (k : Int) + 1) + atanTerms z2 sign n (k + 1) (sign * fixMul t z2)

/-- ln of a number from 1 to 2. -/
def lnFix (m : Rat) : Int :=
  let z := toFix ((m - 1) / (m + 1))
  2 * atanTerms (fixMul z z) 1 170 0 z

def ln2Fix : Int := lnFix 2

/-- arctan(1 ÷ n). -/
def atanInv (n : Nat) : Int :=
  let z := toFix (1 / (n : Rat))
  atanTerms (fixMul z z) (-1) 120 0 z

def piFix : Int := 16 * atanInv 5 - 4 * atanInv 239

def sqrtFix (n : Int) : Int := isqrt (n.toNat * 2 ^ 512)

/-- e^x. -/
def expRat (x : Rat) : Rat :=
  let f := toFix x
  let n := f / ln2Fix
  ofFix (expTerms (f - n * ln2Fix) 110 0 fixOne) * pow2 n

/-- 2^x. -/
def exp2Rat (x : Rat) : Rat :=
  let n := x.floor
  ofFix (expTerms (fixMul (toFix (x - n)) ln2Fix) 110 0 fixOne) * pow2 n

/-- ln x of a positive number. -/
def lnRat (x : Rat) : Rat :=
  let e := log2Floor x
  ofFix (lnFix (x / pow2 e) + e * ln2Fix)

/-- Sum of the series of erf: (-1)^k z^(2k+1) ÷ (k! (2k+1)). -/
def erfTerms (z2 : Int) : Nat → Nat → Int → Int
  | 0, _, _ => 0
  | n + 1, k, t => t / (2 * (k : Int) + 1) + erfTerms z2 n (k + 1) (-(fixMul t z2 / ((k : Int) + 1)))

/-- erf(x ÷ √2). -/
def erfHalf (x : Rat) : Rat :=
  let z := toFix x * fixOne / sqrtFix (2 * fixOne)
  ofFix (2 * erfTerms (fixMul z z) 700 0 z * fixOne / sqrtFix piFix)

def sigmoidRat (x : Rat) : Rat := 1 / (1 + expRat (-x))
def tanhRat (x : Rat) : Rat := 2 * sigmoidRat (2 * x) - 1
def geluTanhRat (x : Rat) : Rat :=
  let u := ofFix (fixMul (sqrtFix (2 * fixOne * fixOne / piFix)) (toFix (x + mkRat 44715 1000000 * x * x * x)))
  x * sigmoidRat (2 * u)
def geluErfRat (x : Rat) : Rat := x / 2 * (1 + erfHalf x)
def siluRat (x : Rat) : Rat := x * sigmoidRat x

/-! ## Results within the bounds (R361) -/

/-- One of the FP32 values that lie within one unit in the last place of `v`: the values on either side of it, or `v` and
its neighbours when FP32 holds it; `n` chooses. -/
def nearOne (n : Nat) (v : Rat) : FVal :=
  let m := if v < 0 then -v else v
  let q := if m = 0 then pow2 (-149) else pow2 (max (log2Floor m) (-126) - 23)
  let k := (m / q).floor.toNat
  let c := if (k : Rat) * q = m ∧ k ≠ 0 then k - 1 + n % 3 else k + n % 2
  rne32 (.fin (decide (v < 0)) ((c : Rat) * q))

/-- A value within an absolute bound of `v`. -/
def nearAbs (n : Nat) (bound v : Rat) : FVal :=
  rne32 (.ofRat (v + bound * (((n % 65537 : Nat) : Rat) - 32768) / 32768))

/-- Codes of R360 in use. -/
def funcOk (c : Nat) : Bool := decide (c ≤ 0x0B) || c = 0x0F

/-- A built-in function at a finite FP32 value (R360, R361). -/
def flameFinite (code : Nat) (neg : Bool) (m : Rat) : FVal :=
  let v := FVal.fin neg m
  let x := v.rat
  let n := Config.flame code (enc32 v)
  let one := nearOne n
  match code with
  | 0x01 => if mkRat 8872284 100000 < x then .inf false
    else if x < -104 then .zero
    else let y := expRat x; if y < pow2 (-149) then .zero else one y
  | 0x02 => if 128 ≤ x then .inf false else if x < -149 then .zero else one (exp2Rat x)
  | 0x03 => if m = 0 then .inf true else if neg then .nan
    else if m < 1 ∧ 1 / 2 ≤ m then nearAbs n (pow2 (-24)) (lnRat m) else one (lnRat m)
  | 0x04 => if m = 0 then .inf true else if neg then .nan
    else if m < 1 ∧ 1 / 2 ≤ m then nearAbs n (pow2 (-24)) (lnRat m / ofFix ln2Fix)
    else if m = pow2 (log2Floor m) then one (log2Floor m) else one (lnRat m / ofFix ln2Fix)
  | 0x05 => if m = 0 then .inf neg else one (1 / x)
  | 0x06 => if m = 0 then .inf neg else if neg then .nan else one (sqrtSticky (1 / m))
  | 0x07 => if m < pow2 (-24) then rne32 (.ofRat (1 / 2 + x / 4))
    else if 32 ≤ m then (if neg then .zero else .fin false 1) else one (sigmoidRat x)
  | 0x08 => if m < pow2 (-12) then v else if 16 ≤ m then .fin neg 1 else one (tanhRat x)
  | 0x09 => if m < pow2 (-24) then rne32 (.fin neg (m / 2)) else if 16 ≤ m then (if neg then .fin true 0 else v)
    else if x ≤ -8 then nearAbs n (pow2 (-30)) (geluTanhRat x) else one (geluTanhRat x)
  | 0x0A => if m < pow2 (-24) then rne32 (.fin neg (m / 2)) else if 16 ≤ m then (if neg then .fin true 0 else v)
    else if x ≤ -8 then nearAbs n (pow2 (-30)) (geluErfRat x) else one (geluErfRat x)
  | 0x0B => if m < pow2 (-24) then rne32 (.fin neg (m / 2)) else if 16 ≤ m then (if neg then .fin true 0 else v)
    else if x ≤ -8 then nearAbs n (pow2 (-30)) (siluRat x) else one (siluRat x)
  | _ => v

/-- A built-in function at an infinity (R360). -/
def flameInf (code : Nat) (neg : Bool) : FVal :=
  match code, neg with
  | 0x01, true | 0x02, true | 0x07, true => .zero
  | 0x01, false | 0x02, false | 0x03, false | 0x04, false | 0x09, false | 0x0A, false | 0x0B, false => .inf false
  | 0x03, true | 0x04, true | 0x06, true => .nan
  | 0x05, s => .fin s 0
  | 0x06, false => .zero
  | 0x07, false => .fin false 1
  | 0x08, s => .fin s 1
  | 0x09, true | 0x0A, true | 0x0B, true => .fin true 0
  | _, s => .inf s

/-- EXP and its kin as the softmax and the norm use them. -/
def flameFn (code : Nat) (x : FVal) : FVal :=
  match x with
  | .nan => .nan
  | .inf s => if code = 0 then .inf s else flameInf code s
  | .fin s m => if code = 0 then .fin s m else flameFinite code s m

def flameExp (x : FVal) : FVal := flameFn 0x01 x

/-! ## Custom tables (R367, R368) -/

structure Table where
  symmetry : Nat
  monotone : Nat
  eMin : Int
  binades : Nat
  low0 : FVal
  low1 : FVal
  highPos : FVal
  highNeg : FVal
  segments : List Byte
  deriving DecidableEq, Repr

def tableOf (b : List Byte) : Table :=
  { symmetry := leAt b 6 1, monotone := leAt b 7 1, eMin := toSigned 8 (leAt b 8 1), binades := leAt b 9 1,
    low0 := dec32 (leAt b 12 4), low1 := dec32 (leAt b 16 4), highPos := dec32 (leAt b 20 4),
    highNeg := dec32 (leAt b 24 4), segments := b.drop 64 }

/-- Coefficient `c` of segment `k`, the positive side first. -/
def Table.coeff (t : Table) (k c : Nat) : FVal := dec32 (leAt t.segments (16 * k + 4 * c) 4)

/-- Segments of one side. -/
def Table.side (t : Table) : Nat := 64 * t.binades

/-- Clamp to the closed interval between two anchors (R363). -/
def clampTo (a b x : FVal) : FVal := FVal.max (FVal.min a b) (FVal.min (FVal.max a b) x)

/-- The value of a magnitude on one side: the low piece, a segment, or the value beyond the table; the clamp of R363 for
a monotone table. -/
def Table.at_ (t : Table) (side : Nat) (neg : Bool) (m : Rat) : FVal :=
  let high := if neg then t.highNeg else t.highPos
  if m < pow2 t.eMin then
    let y := add32 t.low0 (mul32 t.low1 (.fin neg m))
    if t.monotone = 0 then y else clampTo t.low0 (t.coeff (side * t.side) 0) y
  else if pow2 (t.eMin + t.binades) ≤ m then high
  else
    let e := log2Floor m
    let frac := ((m / pow2 e - 1) * pow2 23).floor.toNat
    let k := (e - t.eMin).toNat * 64 + frac / 2 ^ 17
    let u := FVal.fin false (((frac % 2 ^ 17 : Nat) : Rat) * pow2 (-17))
    let c := t.coeff (side * t.side + k)
    let y := add32 (mul32 (add32 (mul32 (add32 (mul32 (c 3) u) (c 2)) u) (c 1)) u) (c 0)
    let next := if k + 1 = t.side then high else t.coeff (side * t.side + k + 1) 0
    if t.monotone = 0 then y else clampTo (c 0) next y

/-- The custom function (R368): on |x|, with the symmetry's rule for the negative side. -/
def Table.eval (t : Table) (x : FVal) : FVal :=
  let on := fun (neg : Bool) (m : Option Rat) =>
    match t.symmetry, m with
    | 0, some m => t.at_ (b2n neg) neg m
    | 0, none => if neg then t.highNeg else t.highPos
    | 1, some m => let y := t.at_ 0 false m; if neg then y.neg else y
    | 1, none => if neg then t.highPos.neg else t.highPos
    | _, some m => t.at_ 0 false m
    | _, none => t.highPos
  match x with
  | .nan => .nan
  | .inf s => on s none
  | .fin s m => on s (some m)

/-! ## The checks of a load (R369) -/

def tableFieldsOk (b : List Byte) : Bool :=
  let e := toSigned 8 (leAt b 8 1)
  let n := leAt b 9 1
  leAt b 0 4 = 0x4C425446 && leAt b 4 2 = 1 && decide (leAt b 6 1 < 3) && decide (leAt b 7 1 < 3)
    && decide (-126 ≤ e) && decide (1 ≤ n) && decide (n ≤ 32) && decide (e + n ≤ 128) && leAt b 10 2 = 0
    && leAt b 28 4 = 1024 * n * (if leAt b 6 1 = 0 then 2 else 1) && zeroBytes b 36 64

def Table.finite (t : Table) : Bool :=
  [t.low0, t.low1, t.highPos, t.highNeg].all FVal.isFin
    && (List.range (t.segments.length / 4)).all fun k => (dec32 (leAt t.segments (4 * k) 4)).isFin

/-- The cubic of segment `k` does not fall on [0, 1], or with `down` does not rise. -/
def Table.cubicOk (t : Table) (k : Nat) (down : Bool) : Bool :=
  let s : Rat := if down then -1 else 1
  let c1 := s * (t.coeff k 1).rat
  let c2 := s * (t.coeff k 2).rat
  let c3 := s * (t.coeff k 3).rat
  let slope := fun u : Rat => c1 + 2 * c2 * u + 3 * c3 * u * u
  let turn := if c3 = 0 then 0 else -c2 / (3 * c3)
  decide (0 ≤ slope 0) && decide (0 ≤ slope 1) && (!(decide (0 < turn) && decide (turn < 1)) || decide (0 ≤ slope turn))

/-- Numbers that never fall. -/
def rising : List Rat → Bool
  | a :: b :: rest => decide (a ≤ b) && rising (b :: rest)
  | _ => true

/-- Check 4: cubics and anchors run in the declared direction along x. -/
def Table.monotoneOk (t : Table) : Bool :=
  let down := decide (t.monotone = 2)
  let n := t.side
  let edge := pow2 t.eMin * t.low1.rat
  let pos := (t.low0.rat + edge) :: (List.range n).map (fun k => (t.coeff k 0).rat) ++ [t.highPos.rat]
  let neg := match t.symmetry with
    | 0 => (t.low0.rat - edge) :: (List.range n).map (fun k => (t.coeff (n + k) 0).rat) ++ [t.highNeg.rat]
    | _ => pos.map fun y => -y
  let along := neg.reverse ++ pos
  (List.range n).all (fun k => t.cubicOk k down)
    && (t.symmetry ≠ 0 || (List.range n).all fun k => t.cubicOk (n + k) (!down))
    && rising (if down then along.map fun y => -y else along)

/-- The checks of a load, in their order; none when the table is good. A load reads no bytes beyond the one allocation
that holds the table's address. -/
def tableStop (b : List Byte) : Option Stop :=
  let t := tableOf b
  if b.length < 64 then some .bounds
  else if !tableFieldsOk b then some .field
  else if b.length < 64 + leAt b 28 4 then some .bounds
  else if crc32c t.segments ≠ leAt b 32 4 || !t.finite then some .field
  else if (t.symmetry = 1 && !t.low0.isZero) || (t.symmetry = 2 && (!t.low1.isZero || t.monotone ≠ 0)) then some .field
  else if t.monotone ≠ 0 && !t.monotoneOk then some { status := 0x0203, cause := 0 }
  else none

/-- A function with the bank that serves it. -/
def CoreSt.evalFn (c : CoreSt) (bank code : Nat) (x : FVal) : FVal :=
  if code = 0x0F then (tableOf (c.banks.getD bank Bank.reset).table).eval x else flameFn code x

/-- A lookup in a poisoned bank poisons its results (R381). -/
def CoreSt.bankBad (c : CoreSt) (bank code : Nat) : Bool := code = 0x0F && (c.banks.getD bank Bank.reset).poisoned

end Sys2Proof.Machine
end

