-- ==== Sys2Proof/Machine/Elementwise.lean ====
section
/-! DEFINITION. The Flame kinds: ELTWISE and its PRELOAD, ROWSTAT with the softmax, and NORM (11 R359, R364 to R366, R375 to
R379). -/

namespace Sys2Proof.Machine

/-! ## Shared by the kinds that walk rows -/

/-- What the compute kinds, MOVE and BANKCHK check in every entry (04 R127). -/
def entryStop (e : Entry) (more : Bool) : Rd Unit := stopIf (e.reservedBad || e.hintsBad || more) .field

/-- Rows of a tensor, dimension 1 innermost. -/
def Tensor.rows (t : Tensor) : List (Nat × Nat × Nat) :=
  if t.empty then []
  else ((List.range (t.e 3)).map fun i3 => ((List.range (t.e 2)).map fun i2 =>
    (List.range (t.e 1)).map fun i1 => (i1, i2, i3)).flatten).flatten

/-- An index into a dimension that may be broadcast. -/
def Tensor.at_ (t : Tensor) (k i : Nat) : Nat := if t.e k = 1 then 0 else i

/-- Chunks [lo, hi) of `w` elements of a row of `n`. -/
def chunksOf (w n : Nat) : List (Nat × Nat) := (List.range (ceilDiv n w)).map fun k => (k * w, min n ((k + 1) * w))

/-- An element of elements [lo, hi) of a row is poisoned. -/
def Row.badIn (r : Row) (lo hi : Nat) : Bool := ((r.elems.drop lo).take (hi - lo)).any (·.bad)

/-- Fetch elements [lo, hi) of a row. -/
def State.fetchRow (s : State) (j : Job) (t : Tensor) (i1 i2 i3 : Nat) (row : Row) (lo hi : Nat) : State :=
  let x := t.sectors i1 i2 i3 row lo hi
  s.demand j (x.1 ++ x.2)

/-- Flame clocks of a kind for which no rule states them. -/
def State.flameFree (s : State) (j : Job) : State :=
  let (n, s) := s.take
  s.modCore j.core fun c => c.count 0x06 (Config.freeNat n) j.entry.op

/-- What a kind that writes one output comes to. -/
def State.finish (s : State) (j : Job) (m : Macro) (watched : Bool) (out : Tensor) (rows : List OutRow) : State × Macro :=
  let (s, tally, bad) := s.storeRows j watched out rows
  (s, { m with status := m.status ++ out.gains tally, poisoned := m.poisoned || bad })

/-! ## ELTWISE (R364 to R366) -/

structure FnDesc where
  func : Nat
  pre : Nat
  post : Nat
  preload : Bool
  inScale : FVal
  postScale : FVal
  table : Nat
  version : Nat
  deriving DecidableEq, Repr

/-- The fields of a function descriptor; none when one is reserved or out of its range. -/
def fnFields (d : List Byte) : Option FnDesc :=
  let f : FnDesc :=
    { func := leAt d 1 1, pre := leAt d 2 1, post := leAt d 3 1, preload := (leAt d 4 1).testBit 0,
      inScale := dec32 (leAt d 8 4), postScale := dec32 (leAt d 12 4), table := leAt d 16 8, version := leAt d 24 4 }
  if leAt d 0 1 = 0x0A && funcOk f.func && decide (f.pre < 7) && decide (f.post < 2) && decide (leAt d 4 1 < 2)
      && zeroBytes d 5 8 && zeroBytes d 28 64 && f.inScale.isFin && f.postScale.isFin
      && (f.func = 0x0F || (f.table = 0 && f.version = 0)) && f.table % 64 = 0 then some f
  else none

structure EltPlan where
  fn : FnDesc
  ins : List (Option Tensor)
  out : Tensor
  deriving DecidableEq, Repr

/-- PRE or MUL_B needs input `k`. -/
def FnDesc.needs (f : FnDesc) (k : Nat) : Bool :=
  k = 0 || (k = 1 && (decide (1 ≤ f.pre) || f.post = 1)) || (k = 2 && f.pre = 6)

/-- Each extent of an input equals the output's or is 1. -/
def broadcasts (t out : Tensor) : Bool := (List.range 4).all fun k => t.e k = out.e k || t.e k = 1

/-- The PRELOAD flag of the descriptor an ELTWISE names. -/
def preloads (h : Hob) (e : Entry) : Bool :=
  let a := e.opnd 4
  a % 64 = 0 && decide (a + 64 ≤ hobTop) && (leAt (h a 64) 4 1).testBit 0

def readFn (h : Hob) (j : Job) : Rd FnDesc := do
  entryStop j.entry (j.entry.imm ≠ 0)
  match fnFields (← descriptor h (j.entry.opnd 4) 64) with
  | none => throw Stop.field
  | some f => pure f

def readElt (h : Hob) (s : State) (j : Job) : Rd EltPlan := do
  let f ← readFn h j
  stopIf (f.post = 1 && f.pre ≠ 0) .field
  stopIf ((List.range 3).any fun k => f.needs k && j.entry.opnd k = absent) .field
  let ins ← (List.range 3).mapM fun k =>
    if f.needs k then do return some (← tensorAt h s j (j.entry.opnd k) true false) else pure none
  let out ← tensorAt h s j (j.entry.opnd 3) true true
  stopIf (ins.any fun t => t.any fun t => !broadcasts t out) .field
  frcUnit s (ins.filterMap id ++ [out])
  pure { fn := f, ins := ins, out := out }

/-- PRE of R364; each result is rounded to FP32, FMA once. -/
def FnDesc.preOf (f : FnDesc) (a b c : FVal) : FVal :=
  match f.pre with
  | 1 => add32 a b
  | 2 => sub32 a b
  | 3 => mul32 a b
  | 4 => FVal.max a b
  | 5 => FVal.min a b
  | 6 => rne32 ((a.mul b).add c)
  | _ => a

/-- One element (R365). -/
def FnDesc.apply (f : FnDesc) (fn : FVal → FVal) (a b c : FVal) : FVal :=
  let y := mul32 (fn (mul32 f.inScale (f.preOf a b c))) f.postScale
  if f.post = 1 then mul32 y b else y

/-- Element `e` of an input row, broadcast where its extent is 1, under R208. -/
def inputAt (x : Option (Tensor × Row)) (e : Nat) : FVal :=
  match x with
  | some (t, r) => t.flame (r.elems.getD (t.at_ 0 e) Elem.zero)
  | none => .zero

/-- The part of an input row that chunk [lo, hi) of the output uses. -/
def Tensor.chunk (t : Tensor) (lo hi : Nat) : Nat × Nat := if t.e 0 = 1 then (0, 1) else (lo, hi)

def runElt (p : EltPlan) (j : Job) (m : Macro) (s : State) : State × Macro :=
  let c := s.coreAt j.core
  let fn := c.evalFn (m.banks.headD 0) p.fn.func
  let tableBad := c.bankBad (m.banks.headD 0) p.fn.func
  let inputs := fun (i : Nat × Nat × Nat) => p.ins.map fun o => o.map fun t =>
    (t, s.readRow j t (t.at_ 1 i.1) (t.at_ 2 i.2.1) (t.at_ 3 i.2.2))
  let n := p.out.e 0
  let row := fun (i : Nat × Nat × Nat) =>
    let xs := inputs i
    let x := fun k => (xs.getD k none)
    let bads := (chunksOf 256 n).map fun ch => tableBad || xs.any fun o => o.any fun y =>
      y.2.badIn (y.1.chunk ch.1 ch.2).1 (y.1.chunk ch.1 ch.2).2
    { i1 := i.1, i2 := i.2.1, i3 := i.2.2
      vals := (List.range n).map fun e => p.fn.apply fn (inputAt (x 0) e) (inputAt (x 1) e) (inputAt (x 2) e)
      bad := (List.range n).map fun e => bads.getD (e / 256) false : OutRow }
  let rows := p.out.rows.map row
  let s' := p.out.rows.foldl (fun s i => (chunksOf 256 n).foldl (fun s ch => (inputs i).foldl (fun s o =>
    match o with
    | some y => s.fetchRow j y.1 (y.1.at_ 1 i.1) (y.1.at_ 2 i.2.1) (y.1.at_ 3 i.2.2) y.2 (y.1.chunk ch.1 ch.2).1
        (y.1.chunk ch.1 ch.2).2
    | none => s) s) s) s
  (if p.out.empty then s' else s'.flameFree j).finish j m true p.out rows

def fnTable (f : FnDesc) : List (Nat × Nat) := if f.func = 0x0F then [(f.table, f.version)] else []

def kindElt : Kind EltPlan :=
  { mine := fun h e => e.op = 0x04 && !preloads h e, read := readElt,
    reads := fun p => (p.ins.map fun o => (o.map Tensor.hobSpans).getD []).flatten, writes := fun p => p.out.outSpans,
    span := fun _ => 1, dma := false, blocked := fun _ _ => false, table := fun p => if p.out.empty then [] else fnTable p.fn,
    run := runElt }

/-- ELTWISE (R365). -/
def execEltwise (e : Env) (core : Nat) (s : State) : Host.Outcome State Fault Refusal :=
  .next ((enter e s).issue kindElt core)

def readPreload (h : Hob) (_ : State) (j : Job) : Rd FnDesc := do
  let f ← readFn h j
  stopIf (f.func ≠ 0x0F || (List.range 4).any fun k => j.entry.opnd k ≠ absent) .field
  pure f

def kindPreload : Kind FnDesc :=
  { mine := fun h e => e.op = 0x04 && preloads h e, read := readPreload, reads := fun _ => [], writes := fun _ => [],
    span := fun _ => 1, dma := false, blocked := fun _ _ => false, table := fnTable, run := fun _ _ m s => (s, m) }

/-- ELTWISE with PRELOAD set (R366). -/
def execPreload (e : Env) (core : Nat) (s : State) : Host.Outcome State Fault Refusal :=
  .next ((enter e s).issue kindPreload core)

/-! ## Sums over a row (R376) -/

/-- Combine neighbours pairwise until one value is left. -/
def pairwise : Nat → List FVal → FVal
  | 0, xs => xs.headD .zero
  | n + 1, xs =>
    match xs with
    | [] => .zero
    | [x] => x
    | xs => pairwise n ((pieces 2 xs).map fun p => match p with | [a, b] => add32 a b | p => p.headD .zero)

/-- Lane j of 256 adds elements j, j + 256, ... in ascending order; the lanes combine in a pairwise tree. -/
def laneSum (xs : List FVal) : FVal :=
  let lane := fun j => ((List.range (ceilDiv (xs.length - j) 256)).map fun k => xs.getD (j + 256 * k) .zero).foldl add32 .zero
  pairwise 8 ((List.range 256).map fun j => if j < xs.length then lane j else .zero)

/-! ## ROWSTAT (R375 to R377) -/

structure StatPlan where
  input : Tensor
  out : Tensor
  stat : Nat
  inScale : FVal
  deriving DecidableEq, Repr

def readStat (h : Hob) (s : State) (j : Job) : Rd StatPlan := do
  entryStop j.entry (j.entry.imm ≠ 0)
  let input ← tensorAt h s j (j.entry.opnd 0) true false
  let out ← tensorAt h s j (j.entry.opnd 1) true true
  let d ← descriptor h (j.entry.opnd 2) 64
  let stat := leAt d 1 1
  stopIf (leAt d 0 1 ≠ 0x0C || decide (7 ≤ stat) || !zeroBytes d 2 4 || !zeroBytes d 8 64 || !scaleWordOk (leAt d 4 4)) .field
  stopIf (out.e 0 ≠ (if stat = 6 then input.e 0 else 1) || out.ext.drop 1 ≠ input.ext.drop 1) .field
  stopIf (stat = 4 && (out.fmt ≠ .fp32 || decide (2 ^ 24 < input.e 0))) .field
  frcUnit s [input, out]
  pure { input := input, out := out, stat := stat, inScale := dec32 (leAt d 4 4) }

/-- m and l of the online softmax over blocks of 256 elements (R377). -/
def softParts (xs : List FVal) : FVal × FVal :=
  (pieces 256 xs).foldl (fun a b =>
    let mn := b.foldl FVal.max a.1
    let c := if a.1 = .inf true then .zero else flameExp (sub32 a.1 mn)
    (mn, add32 (mul32 a.2 c) (laneSum (b.map fun x => flameExp (sub32 x mn))))) (.inf true, .zero)

/-- Lowest index of the first NaN, or of the largest element. -/
def argMax (xs : List FVal) : Nat :=
  match xs.findIdx? FVal.isNan with
  | some i => i
  | none => ((List.range xs.length).find? fun i => xs.all fun y => !(xs.getD i .zero).lt y).getD 0

/-- The statistic of a row, already scaled; over no elements MAX, MIN and ARGMAX have no stated result, and `n` names a
free value. -/
def statOf (stat n : Nat) (xs : List FVal) : List FVal :=
  let open_ := dec32 (Config.freeNat n % 2 ^ 32)
  match stat with
  | 0 => [laneSum xs]
  | 1 => [laneSum (xs.map fun x => mul32 x x)]
  | 2 => [if xs.isEmpty then open_ else xs.foldl FVal.max (.inf true)]
  | 3 => [if xs.isEmpty then open_ else xs.foldl FVal.min (.inf false)]
  | 4 => [if xs.isEmpty then open_ else FVal.ofNat (argMax xs)]
  | 5 => let (m, l) := softParts xs; [add32 m (flameFn 0x03 l)]
  | _ => let (m, l) := softParts xs
         let r := flameFn 0x05 l
         xs.map fun x => mul32 (flameExp (sub32 x m)) r

def runStat (p : StatPlan) (j : Job) (m : Macro) (s : State) : State × Macro :=
  let (n, s) := s.take
  let row := fun (i : Nat × Nat × Nat) =>
    let xs := s.readFlame j p.input i.1 i.2.1 i.2.2
    let vals := statOf p.stat n (xs.map fun x => mul32 x.1 p.inScale)
    { i1 := i.1, i2 := i.2.1, i3 := i.2.2, vals := vals, bad := List.replicate vals.length (xs.any (·.2)) : OutRow }
  let rows := p.out.rows.map row
  let passes := if p.stat = 6 then [0, 1] else [0]
  let s' := p.out.rows.foldl (fun s i => passes.foldl (fun s _ => (chunksOf 256 (p.input.e 0)).foldl (fun s ch =>
    s.fetchRow j p.input i.1 i.2.1 i.2.2 (s.readRow j p.input i.1 i.2.1 i.2.2) ch.1 ch.2) s) s) s
  (if p.out.empty then s' else s'.flameFree j).finish j m false p.out rows

def kindStat : Kind StatPlan :=
  { mine := fun _ e => e.op = 0x05, read := readStat, reads := fun p => p.input.hobSpans, writes := fun p => p.out.outSpans,
    span := fun _ => 1, dma := false, blocked := fun _ _ => false, table := fun _ => [], run := runStat }

/-- ROWSTAT (R375). -/
def execRowstat (e : Env) (core : Nat) (s : State) : Host.Outcome State Fault Refusal :=
  .next ((enter e s).issue kindStat core)

/-! ## NORM (R378, R379) -/

structure NormPlan where
  input : Tensor
  weights : Option Tensor
  out : Tensor
  plusOne : Bool
  /-- elements per group: the row where NORM_GROUP is 0 -/
  group : Nat
  epsilon : FVal
  deriving DecidableEq, Repr

def readNorm (h : Hob) (s : State) (j : Job) : Rd NormPlan := do
  entryStop j.entry (j.entry.imm ≠ 0)
  let input ← tensorAt h s j (j.entry.opnd 0) true false
  let weights ← optionally (j.entry.opnd 1) (tensorAt h s j (j.entry.opnd 1) true false)
  let out ← tensorAt h s j (j.entry.opnd 2) true true
  let d ← descriptor h (j.entry.opnd 3) 64
  let g := leAt d 2 2
  let eps := dec32 (leAt d 4 4)
  stopIf (leAt d 0 1 ≠ 0x0D || decide (2 ≤ leAt d 1 1) || !zeroBytes d 8 64 || !eps.isFin || eps.lt .zero) .field
  stopIf (g ≠ 0 && input.e 0 % g ≠ 0) .field
  let group := if g = 0 then input.e 0 else g
  stopIf (out.ext ≠ input.ext || weights.any fun w => w.ext ≠ [group, 1, 1, 1]) .field
  frcUnit s ([input, out] ++ weights.toList)
  pure { input := input, weights := weights, out := out, plusOne := (leAt d 1 1).testBit 0, group := group, epsilon := eps }

/-- One group (R379). -/
def normGroup (eps : FVal) (xs ws : List FVal) : List FVal :=
  let ms := div32 (laneSum (xs.map fun x => mul32 x x)) (FVal.ofNat xs.length)
  let d := add32 ms eps
  if d.isZero then xs.map fun _ => .zero
  else
    let r := flameFn 0x06 d
    (xs.zip ws).map fun p => mul32 (mul32 p.1 r) p.2

def runNorm (p : NormPlan) (j : Job) (m : Macro) (s : State) : State × Macro :=
  let n := p.input.e 0
  let wrow := p.weights.map fun t => (t, s.readRow j t 0 0 0)
  let w := fun k => match wrow with
    | some (t, r) => let x := t.flame (r.elems.getD k Elem.zero); if p.plusOne then add32 (.fin false 1) x else x
    | none => FVal.fin false (if p.plusOne then 2 else 1)
  let ws := (List.range p.group).map w
  let wbad := wrow.any fun x => x.2.bad
  let row := fun (i : Nat × Nat × Nat) =>
    let xs := s.readFlame j p.input i.1 i.2.1 i.2.2
    let groups := pieces p.group xs
    { i1 := i.1, i2 := i.2.1, i3 := i.2.2
      vals := (groups.map fun g => normGroup p.epsilon (g.map Prod.fst) ws).flatten
      bad := (groups.map fun g => List.replicate g.length (wbad || g.any (·.2))).flatten : OutRow }
  let rows := p.out.rows.map row
  let fetchW := fun (s : State) => match wrow with
    | some (t, r) => s.fetchRow j t 0 0 0 r 0 p.group
    | none => s
  let s' := p.out.rows.foldl (fun s i => [0, 1].foldl (fun s _ => (chunksOf p.group n).foldl (fun s ch =>
    (fetchW s).fetchRow j p.input i.1 i.2.1 i.2.2 (s.readRow j p.input i.1 i.2.1 i.2.2) ch.1 ch.2) s) s) s
  let clocks := p.out.rows.length * (n / max 1 p.group) * 2 * ceilDiv p.group 256
  (s'.modCore j.core fun c => c.count 0x06 clocks j.entry.op).finish j m true p.out rows

def kindNorm : Kind NormPlan :=
  { mine := fun _ e => e.op = 0x06, read := readNorm,
    reads := fun p => p.input.hobSpans ++ (p.weights.map Tensor.hobSpans).getD [], writes := fun p => p.out.outSpans,
    span := fun _ => 1, dma := false, blocked := fun _ _ => false, table := fun _ => [], run := runNorm }

/-- NORM (R379). -/
def execNorm (e : Env) (core : Nat) (s : State) : Host.Outcome State Fault Refusal :=
  .next ((enter e s).issue kindNorm core)

end Sys2Proof.Machine
end

