-- ==== Sys2Proof/Machine/TensorArray.lean ====
section
/-! DEFINITION. The tensor array: segments and lanes, clocks, tile orders, the epilogue, tiles as they are fetched, watched
and written (05 R171 to R176, 06 R206, R207, 11 R373, R374, 12 R389, R390). -/

namespace Sys2Proof.Machine

/-! ## Lanes (06 R206) -/

/-- 16 positions of a row: decoded codes, the block scale, and whether they lie in a zero block. -/
structure Seg where
  vals : List FVal
  scale : Rat
  zero : Bool
  deriving DecidableEq, Repr

def segsOf (xs : List Elem) : List Seg := (pieces 16 xs).map fun p =>
  { vals := p.map (·.code), scale := (p.headD Elem.zero).scale, zero := (p.headD Elem.zero).zeroBlock }

/-- Values without block scales. -/
def plainSegs (xs : List FVal) : List Seg := (pieces 16 xs).map fun p => { vals := p, scale := 1, zero := false }

/-- A sum beyond the FP32 range is an Inf. -/
def beyond (v : FVal) : FVal :=
  match v with
  | .fin s m => if 2 ^ 128 - 2 ^ 103 ≤ m then .inf s else v
  | v => v

/-- One segment: an exact sum of products, scaled and rounded once. -/
def segProduct (a b : Seg) : FVal :=
  if a.zero || b.zero then .zero
  else
    let sum := ((a.vals.zip b.vals).map fun p => p.1.mul p.2).foldl FVal.add .zero
    rne32 ((beyond sum).mul (.fin false (a.scale * b.scale)))

/-- lane of R206. -/
def lane (a b : List Seg) : FVal := ((a.zip b).map fun p => segProduct p.1 p.2).foldl add32 .zero

/-! ## Rates and clocks (05 R172, R176) -/

/-- Both floating-point formats other than FP32, or both integers. -/
def pairOk (a b : Fmt) : Bool := a ≠ .fp32 && b ≠ .fp32 && a.isInt = b.isInt

/-- K positions per clock. -/
def kpcOf (a b : Fmt) : Nat :=
  if a = .bf16 || b = .bf16 then 16 else if a.bits = 4 && b.bits = 4 then 64 else 32

def subTiles (rows cols : Nat) : Nat := ceilDiv rows 32 * ceilDiv cols 32

def tileClocks (rows cols k kpc : Nat) : Nat :=
  subTiles rows cols * (8 * (k / (8 * kpc)) + ceilDiv (k % (8 * kpc)) kpc)

/-! ## The walk (05 R171, R174, R175) -/

def hilbertXY (j d : Nat) : Nat × Nat :=
  let step := fun (p : Nat × Nat × Nat) (i : Nat) =>
    let s := 2 ^ i
    let rx := p.2.2 / 2 % 2
    let ry := (p.2.2 + rx) % 2
    let (x, y) := if ry = 0 then (if rx = 1 then (s - 1 - p.2.1, s - 1 - p.1) else (p.2.1, p.1)) else (p.1, p.2.1)
    (x + s * rx, y + s * ry, p.2.2 / 4)
  let r := (List.range j).foldl step (0, 0, d)
  (r.1, r.2.1)

/-- Every second bit of `d`, packed: `j` of them. -/
def everySecond (j d : Nat) : Nat := sumOf (fun i => d / 4 ^ i % 2 * 2 ^ i) (List.range j)

def mortonXY (j d : Nat) : Nat × Nat := (everySecond j d, everySecond j (d / 2))

/-- walk_order of R175: tiles (x, y) of a grid of `gm` rows and `gn` columns. -/
def walkOrder (gm gn order : Nat) : List (Nat × Nat) :=
  let n := max gm gn
  let j := if n ≤ 1 then 0 else (n - 1).log2 + 1
  ((List.range (4 ^ j)).map fun d => if order = 0 then hilbertXY j d else mortonXY j d).filter fun p =>
    decide (p.1 < gn) && decide (p.2 < gm)

/-- ORDER, TM and TN of an IMM (R171). -/
structure TileGrid where
  order : Nat
  tm : Nat
  tn : Nat
  deriving DecidableEq, Repr

def tileGridOf (imm : Nat) : TileGrid := { order := imm % 2, tm := 32 * 2 ^ bitsOf imm 2 1, tn := 32 * 2 ^ bitsOf imm 4 3 }

/-- A tile above 32,768 elements, or a dimension-0 boundary inside a logical block of an FRC output (10 R356). -/
def TileGrid.bad (g : TileGrid) (out : Tensor) : Bool :=
  decide (32768 < g.tm * g.tn) || (out.frc ≠ 0 && g.tn % frcElems out.fmt ≠ 0)

/-- One output tile: rows [m0, m1) and columns [n0, n1). -/
structure Tile where
  m0 : Nat
  m1 : Nat
  n0 : Nat
  n1 : Nat
  deriving DecidableEq, Repr

def Tile.rows (t : Tile) : List Nat := (List.range (t.m1 - t.m0)).map (t.m0 + ·)
def Tile.cols (t : Tile) : List Nat := (List.range (t.n1 - t.n0)).map (t.n0 + ·)

/-- The tiles of an M × N grid in walk order. -/
def TileGrid.tiles (g : TileGrid) (m n : Nat) : List Tile :=
  (walkOrder (ceilDiv m g.tm) (ceilDiv n g.tn) g.order).map fun p =>
    { m0 := p.2 * g.tm, m1 := min m ((p.2 + 1) * g.tm), n0 := p.1 * g.tn, n1 := min n ((p.1 + 1) * g.tn) }

/-! ## The epilogue (11 R373, R374) -/

structure Epilogue where
  func : Nat
  post : FVal
  cols : Option Tensor
  bias : Option Tensor
  table : Nat
  version : Nat
  deriving DecidableEq, Repr

def Epilogue.plain : Epilogue :=
  { func := 0, post := .fin false 1, cols := Option.none, bias := Option.none, table := 0, version := 0 }

/-- A vector of one value per output column. -/
def vectorAt (h : Hob) (s : State) (j : Job) (n a : Nat) : Rd Tensor := do
  let t ← tensorAt h s j a false false
  stopIf (t.ext ≠ [n, 1, 1, 1]) .field
  pure t

/-- The epilogue descriptor of a MATMUL, or of a CONV3D, which names its bias there. -/
def epilogueAt (h : Hob) (s : State) (j : Job) (n a : Nat) (conv : Bool) : Rd Epilogue := do
  if a = absent then pure Epilogue.plain
  else
    let d ← descriptor h a 64
    let e : Epilogue :=
      { Epilogue.plain with func := leAt d 1 1, post := dec32 (leAt d 12 4), table := leAt d 16 8, version := leAt d 24 4 }
    let custom := decide (e.func = 0x0F)
    stopIf (leAt d 0 1 ≠ 0x0B || !funcOk e.func || !zeroBytes d 2 4 || !zeroBytes d 28 64 || !e.post.isFin
      || e.table % 64 ≠ 0 || (!custom && (e.table ≠ 0 || e.version ≠ 0)) || (!conv && leAt d 8 4 ≠ absent)) .field
    let cols ← optionally (leAt d 4 4) (vectorAt h s j n (leAt d 4 4))
    let bias ← optionally (leAt d 8 4) (vectorAt h s j n (leAt d 8 4))
    pure { e with cols := cols, bias := bias }

def Epilogue.key (e : Epilogue) : List (Nat × Nat) := if e.func = 0x0F then [(e.table, e.version)] else []

def Epilogue.tensors (e : Epilogue) : List Tensor := e.cols.toList ++ e.bias.toList

/-- The epilogue ready to apply: its function, column scales and bias, with their poison. -/
structure Drain where
  scale : List (FVal × Bool)
  bias : List (FVal × Bool)
  cols : List (Tensor × Row)
  bad : Bool

/-- A vector of `n` values, or `fill` in each place. -/
def State.vector (s : State) (j : Job) (n : Nat) (fill : FVal) (t : Option Tensor) : List (FVal × Bool) :=
  match t with
  | some t => s.readFlame j t 0 0 0
  | none => List.replicate n (fill, false)

def State.drainOf (s : State) (j : Job) (bank n : Nat) (e : Epilogue) : Drain :=
  { scale := s.vector j n (.fin false 1) e.cols, bias := s.vector j n .zero e.bias,
    cols := e.tensors.map fun t => (t, s.readRow j t 0 0 0), bad := (s.coreAt j.core).bankBad bank e.func }

/-- One drained element (R374); `y` is scaled and holds the Ember term. -/
def Epilogue.apply (e : Epilogue) (fn : FVal → FVal) (d : Drain) (n : Nat) (y : FVal) : FVal :=
  let one : FVal × Bool := (.fin false 1, false)
  mul32 (fn (add32 (mul32 y (d.scale.getD n one).1) (d.bias.getD n (.zero, false)).1)) e.post

/-- A column of the epilogue is poisoned. -/
def Drain.colBad (d : Drain) (n : Nat) : Bool :=
  d.bad || (d.scale.getD n (.zero, false)).2 || (d.bias.getD n (.zero, false)).2

/-! ## Witness tiles (12 R389, R390) -/

/-- Count a tile of a watched output: the entry whose witness tile it is. -/
def State.witnessDue (s : State) (j : Job) (out : Tensor) : State × Option WatchEntry :=
  match if out.module then s.witnessEntry j.run out.base else none with
  | none => (s, none)
  | some e =>
    let k := (s.coreAt j.core).witnessCount
    (s.modCore j.core fun c => { c with witnessCount := k + 1 },
     if k % max 1 (s.watchOf j.q).policy.witnessPeriod = 0 then some e else none)

/-- max|a − w| ÷ max(max|w|, 2^−126), or NaN when a non-finite value appears on one side only. -/
def witnessRel (as ws : List FVal) : FVal :=
  let ps := as.zip ws
  if ps.any fun p => p.1.isFin ≠ p.2.isFin then .nan
  else
    let fs := ps.filter fun p => p.1.isFin
    let diff := (fs.map fun p => (p.1.sub p.2).mag).foldl max 0
    let top := (fs.map fun p => p.2.mag).foldl max (pow2 (-126))
    rne32 (.fin false (diff / top))

/-- A row of elements as the witness path decodes them. -/
def Tensor.witnessRow (t : Tensor) (xs : List Elem) : List Seg := plainSegs (xs.map fun x => rne16 (t.flame x))

/-- A witness tile has been recomputed. -/
def State.noteWitness (s : State) (j : Job) (e : WatchEntry) (as ws : List FVal) : State :=
  (s.witness j.run e.index j.core (witnessRel as ws)).modCore j.core fun c => c.count 0x11 1 j.entry.op

/-! ## Occupation of the tensor array (13 R419) -/

/-- An unretired UPDATE with PRECOND holds the tensor array. -/
def Macro.preconditions (m : Macro) : Bool :=
  leAt m.entry 0 1 = 7 && (leAt (m.hob ((macroEntry m.entry).opnd 1) 64) 1 1).testBit 0

def CoreSt.arrayHeld (c : CoreSt) : Bool := c.unretired.any Macro.preconditions

/-- Tensor array clocks, and the 4 Flame clocks of the epilogue of each sub-tile. -/
def State.tileSpent (s : State) (j : Job) (clocks rows cols : Nat) : State :=
  s.modCore j.core fun c => (c.count 0x05 clocks j.entry.op).count 0x06 (4 * subTiles rows cols) j.entry.op

end Sys2Proof.Machine
end

