-- ==== Sys2Proof/Machine/Attn.lean ====
section
/-! DEFINITION. ATTN: the attention, append and mask descriptors, snapshots, appending and flushing, masks, and the walk (08
R270 to R289, 11 R377). -/

namespace Sys2Proof.Machine

/-! ## Frames and staging as tensors (R259, R265) -/

/-- Rows of D elements by position and by (kv, h): a frame. -/
def frameTensor (g va side scale : Nat) : Tensor :=
  let f := (geoFmt g).getD .e4m3
  let row := geoD g * f.bits / 8
  { fmt := f, mode := geoMode g, module := true, frc := 0, ext := [geoD g, geoP g, 2 * geoH g, 1], status := absent,
    base := va, strides := [row, row * geoP g, 0], scale := scale, scaleBase := side }

/-- A half of a layer's staging: BF16. -/
def stageTensor (b : Binding) (base layer half : Nat) : Tensor :=
  let g := b.geometry
  let row := 2 * geoD g
  { fmt := .bf16, mode := .none, module := true, frc := 0, ext := [geoD g, geoP g, 2 * geoH g, 1], status := absent,
    base := base + b.stagingOffset + layer * b.stageStride + half * (row * geoP g * 2 * geoH g)
    strides := [row, row * geoP g, 0], scale := 0x3F800000, scaleBase := 0 }

/-! ## Masks (R282 to R284) -/

structure Mask where
  causal : Nat
  window : Option Nat
  radius : Option Nat
  anchorFull : Bool
  prefixVisible : Bool
  anchors : List Nat
  /-- one per query head: none is no window -/
  overrides : Option (List (Option Nat))
  deriving DecidableEq, Repr

def maskAt (h : Hob) (b : Binding) (heads a : Nat) : Rd Mask := do
  let d ← descriptor h a 320
  let flags := leAt d 2 1
  let count := leAt d 3 1
  let overAt := leAt d 12 4
  let anchors := (List.range count).map fun k => leAt d (64 + 8 * k) 8
  stopIf (leAt d 0 1 ≠ 4 || decide (3 ≤ leAt d 1 1) || decide (16 ≤ flags) || decide (32 < count) || !zeroBytes d 10 12
    || !zeroBytes d 16 64 || (flags.testBit 0 && leAt d 4 4 = 0) || (flags.testBit 1 && b.layout = 0)
    || anchors.any fun t => decide (2 ^ 40 ≤ t)) .field
  let overrides ← if overAt = absent then pure none
    else do
      stopIf (decide (hobTop < overAt + 4 * heads)) .bounds
      let bs ← copied h overAt (4 * heads)
      let ws := (List.range heads).map fun k => leAt bs (4 * k) 4
      stopIf (ws.contains 0) .field
      pure (some (ws.map fun w => if w = absent then none else some w))
  pure { causal := leAt d 1 1, window := if flags.testBit 0 then some (leAt d 4 4) else none
         radius := if flags.testBit 1 then some (leAt d 8 2) else none, anchorFull := flags.testBit 2
         prefixVisible := flags.testBit 3, anchors := anchors, overrides := overrides }

/-- The window of query head j. -/
def Mask.windowOf (m : Mask) (j : Nat) : Option Nat :=
  match m.overrides with
  | some ws => ws.getD j none
  | none => m.window

/-- The widest window among some query heads, or none when any head has none. -/
def Mask.widest (m : Mask) (heads : Nat) : Option Nat :=
  let ws := (List.range heads).map m.windowOf
  if ws.any (·.isNone) then none else some (maxOf (ws.filterMap id))

/-- A position with its coordinates; none of a prefix position. -/
structure Pos where
  pos : Nat
  at_ : Option (Nat × Nat × Nat)
  deriving DecidableEq, Repr

def distance (a b : Nat) : Nat := (a - b) + (b - a)

/-- visible of R283. -/
def Mask.visible (m : Mask) (qp kp : Pos) (j : Nat) : Bool :=
  match kp.at_, qp.at_ with
  | none, some _ => m.prefixVisible
  | none, none => decide (kp.pos ≤ qp.pos)
  | some _, none => false
  | some (kt, ky, kx), some (qt, qy, qx) =>
    let anchored := m.anchors.contains kt
    !(m.causal = 1 && decide (qp.pos < kp.pos)) && !(m.causal = 2 && decide (qt < kt))
      && ((m.windowOf j).all fun w => decide (distance qt kt < w) || anchored)
      && (m.radius.all fun r => (decide (distance qy ky ≤ r) && decide (distance qx kx ≤ r)) || (anchored && m.anchorFull))

/-- The box of a query tile. -/
structure QBox where
  main : Option Tag
  lastPos : Nat
  lastPrefix : Option Nat
  deriving DecidableEq, Repr

def qBox (qs : List Pos) : QBox :=
  let cs := qs.filterMap (·.at_)
  let t := cs.map (·.1)
  let y := cs.map (·.2.1)
  let x := cs.map (·.2.2)
  let pre := (qs.filter fun q => q.at_.isNone).map (·.pos)
  { main := if cs.isEmpty then none
      else some { flags := 2, t0 := minOf t, t1 := maxOf t, y0 := minOf y, y1 := maxOf y, x0 := minOf x, x1 := maxOf x }
    lastPos := maxOf (qs.map (·.pos)), lastPrefix := if pre.isEmpty then none else some (maxOf pre) }

/-- keep of R284 for a page with a tag and a first position; `w` is the widest window. -/
def Mask.keep (m : Mask) (w : Option Nat) (pg : Tag) (first : Nat) (q : QBox) : Bool :=
  let pre := pg.flags.testBit 0
  if pre && m.prefixVisible && q.main.isSome then true
  else if pre && q.lastPrefix.any (fun p => decide (first ≤ p)) then true
  else
    match q.main with
    | none => false
    | some b =>
      let anchored := m.anchors.any fun a => decide (pg.t0 ≤ a) && decide (a ≤ pg.t1)
      let timed := w.all fun w => decide (pg.t0 < b.t1 + w) && decide (b.t0 < pg.t1 + w)
      let near := m.radius.all fun r => decide (pg.y0 ≤ b.y1 + r) && decide (b.y0 ≤ pg.y1 + r)
        && decide (pg.x0 ≤ b.x1 + r) && decide (b.x0 ≤ pg.x1 + r)
      pg.flags.testBit 1 && !(m.causal = 1 && decide (q.lastPos < first)) && !(m.causal = 2 && decide (b.t1 < pg.t0))
        && (timed || anchored) && (near || (anchored && m.anchorFull))

/-! ## Reading at issue (R270 to R276) -/

structure AttnPlan where
  decodes : Bool
  group : Nat
  head0 : Nat
  heads : Nat
  seq : Nat
  layer : Nat
  scale : FVal
  qBase : Nat
  qTile : Nat
  lse : Nat
  stats : Nat
  query : Tensor
  out : Tensor
  mask : Mask
  /-- new keys and values, and COMMIT -/
  new : Option (Tensor × Tensor)
  commit : Bool
  binding : Binding
  /-- base of the staging allocation -/
  staging : Nat
  deriving DecidableEq, Repr

def AttnPlan.table (p : AttnPlan) : Layer := p.binding.layer p.layer
def AttnPlan.P (p : AttnPlan) : Nat := geoP p.binding.geometry
/-- New positions. -/
def AttnPlan.count (p : AttnPlan) : Nat := (p.new.map fun x => x.1.e 1).getD 0
/-- It stores new positions. -/
def AttnPlan.stores (p : AttnPlan) : Bool := p.commit && decide (0 < p.count) && !p.out.empty
/-- Flushes it will make (R276). -/
def AttnPlan.flushes (p : AttnPlan) : Nat := if p.stores then (p.table.fill + p.count) / p.P else 0

/-- Formats of new keys and values: no FP32 and no integers (R273). -/
def newOk (b : Binding) (t : Tensor) : Bool :=
  t.fmt ≠ .fp32 && !t.fmt.isInt && t.e 0 = geoD b.geometry && t.e 2 = geoH b.geometry && t.e 3 = 1

/-- The append descriptor (R273). -/
def appendAt (h : Hob) (s : State) (j : Job) (b : Binding) (a : Nat) : Rd ((Tensor × Tensor) × Bool) := do
  let d ← descriptor h a 64
  stopIf (leAt d 0 1 ≠ 5 || decide (2 ≤ leAt d 1 1) || !zeroBytes d 2 4 || !zeroBytes d 12 64) .field
  let k ← tensorAt h s j (leAt d 4 4) false false
  let v ← tensorAt h s j (leAt d 8 4) false false
  stopIf (!newOk b k || !newOk b v || k.e 1 ≠ v.e 1) .field
  pure ((k, v), (leAt d 1 1).testBit 0)

/-- FREE frames that a flush of a sequence may take: those of its list first, then those of its partition's list. -/
def State.freeFrames (s : State) (q seq geometry : Nat) : List Nat :=
  let fs := s.kv.frames.filter fun f => f.state = .free && f.partition = q && f.geometry = geometry
  ((fs.filter fun f => f.listOwner = seq) ++ (fs.filter fun f => f.listOwner = 0)).map (·.num)

/-- Bough blocks that n more pages of a layer open. -/
def Layer.opens (l : Layer) (n : Nat) : Nat := boughsFor (l.pages.length + n) - l.boughs

/-- What a committing ATTN must find at issue: no other in flight, no journal, and its frames, bough blocks and positions
(R275, R276, 12 R397). -/
def AttnPlan.commitBad (p : AttnPlan) (s : State) (j : Job) : Bool :=
  let l := p.table
  let mine := s.cores.any fun c => c.unretired.any fun m => m.opId = j.opId && m.commit.isSome
  if mine || !p.commit then false
  else
    s.commitInFlight p.seq p.layer || (s.runJournal j.run ≠ 0 && decide (0 < p.count))
      || decide ((s.freeFrames j.q p.seq p.binding.geometry).length < p.flushes)
      || decide (65536 < s.kv.boughsUsed + l.opens p.flushes)
      || decide (p.binding.cap < l.pages.length * p.P + l.fill + p.count)

def readAttn (h : Hob) (s : State) (j : Job) : Rd AttnPlan := do
  let e := j.entry
  entryStop e (decide (4 ≤ e.imm))
  let query ← tensorAt h s j (e.opnd 0) false false
  let d ← descriptor h (e.opnd 1) 64
  let flags := leAt d 1 1
  let group := leAt d 2 1
  let heads := leAt d 4 1
  let lse := leAt d 32 4
  let stats := leAt d 36 4
  stopIf (leAt d 0 1 ≠ 3 || decide (4 ≤ flags) || group = 0 || decide (16 < group) || heads = 0 || decide (64 < heads)
    || !zeroBytes d 5 8 || !zeroBytes d 18 20 || !zeroBytes d 40 64 || !scaleWordOk (leAt d 20 4)
    || decide (2 ^ 40 ≤ leAt d 24 8)) .field
  let out ← tensorAt h s j (e.opnd 3) false true
  match s.seq? j.q (leAt d 8 8) with
  | none => throw Stop.handle
  | some sq =>
    stopIf (sq.state = .closed) .handle
    stopIf (sq.state = .evicted) { status := 0x0306, cause := 0 }
    match sq.binding with
    | none => throw Stop.state
    | some b =>
      let layer := leAt d 16 2
      let rows := query.e 1
      stopIf (query.ext ≠ [geoD b.geometry, rows, heads * group, 1] || out.ext ≠ query.ext
        || decide (geoH b.geometry < leAt d 3 1 + heads) || decide (b.layers ≤ layer)) .field
      let mask ← maskAt h b (heads * group) (e.opnd 2)
      let new ← optionally (e.opnd 4) (appendAt h s j b (e.opnd 4))
      let follows := flags.testBit 1
      let qBase := if follows then (b.layer layer).length else leAt d 24 8
      stopIf (follows && !(new.any fun n => n.1.1.e 1 = rows)) .field
      stopIf (decide (2 ^ 40 < qBase + rows)) .field
      stopIf ((lse ≠ absent && decide (hobTop < lse + 4 * heads * group * rows))
        || (stats ≠ absent && decide (0x7FFFF0 < stats))) .bounds
      stopIf (stats ≠ absent && stats % 16 ≠ 0) .field
      let p : AttnPlan :=
        { decodes := flags.testBit 0, group := group, head0 := leAt d 3 1, heads := heads, seq := sq.handle, layer := layer,
          scale := dec32 (leAt d 20 4), qBase := qBase, qTile := 32 * 2 ^ (e.imm % 4), lse := lse, stats := stats,
          query := query, out := out, mask := mask, new := new.map Prod.fst, commit := (new.map Prod.snd).getD false,
          binding := b, staging := ((s.alloc? j.q b.staging).map (·.base)).getD 0 }
      stopIf (p.commitBad s j) .state
      pure p

/-! ## Appending and flushing (R277 to R281) -/

/-- Positions of halves that an append writes: the half and the first position. -/
def AttnPlan.overwrites (p : AttnPlan) : List (Nat × Nat) :=
  let l := p.table
  if !p.stores then []
  else (l.half, l.fill) :: ((if p.P < l.fill + p.count then [(1 - l.half, 0)] else [])
    ++ (if 2 * p.P < l.fill + p.count then [(l.half, 0)] else []))

/-- An unretired ATTN's snapshot holds positions that an append would overwrite. -/
def State.halfHeld (s : State) (p : AttnPlan) (opId : Nat) : Bool :=
  s.cores.any fun c => c.unretired.any fun m => leAt m.entry 0 1 = 3 && m.opId ≠ opId && m.attnSeq = p.seq
    && m.attnLayer = p.layer && p.overwrites.any fun x => m.attnHalf = x.1 && decide (x.2 < m.attnFill)

/-- The new positions as BF16: row of (kv, h), position a. -/
def AttnPlan.newRow (p : AttnPlan) (s : State) (j : Job) (kv h a : Nat) : List (FVal × Bool) :=
  match p.new with
  | none => []
  | some (k, v) => (s.readFlame j (if kv = 0 then k else v) a h 0).map fun x => (rne16 x.1, x.2)

/-- What an append comes to as it goes on. -/
structure Appending where
  half : Nat
  fill : Nat
  /-- frames reserved and not yet filled, and those filled -/
  frames : List Nat
  done : List Nat
  saturated : Nat
  bad : Bool
  deriving DecidableEq, Repr

/-- PAGE_SCALE of R278, an FP32 word. -/
def pageScaleOf (g : Nat) (vs : List FVal) : Nat :=
  let m := ((vs.filter FVal.isFin).map FVal.mag).foldl max 0
  let top := ((geoFmt g).map (·.fmax)).getD 1
  if geoMode g = .e8m0 || m = 0 then 0x3F800000
  else
    let e := min 127 (max (-126) (log2Ceil (m / (top * 448))))
    (e + 127).toNat * 2 ^ 23

/-- Quantise a full half into a frame (R277). -/
def AttnPlan.flush (p : AttnPlan) (j : Job) (x : State × Appending) : State × Appending :=
  let b := p.binding
  let (s, a) := x
  let n := a.frames.headD 0
  let t := stageTensor b p.staging p.layer a.half
  let rows := t.rows.map fun i => (i, s.readFlame j t i.1 i.2.1 i.2.2)
  let scale := pageScaleOf b.geometry ((rows.map fun r => r.2.map Prod.fst).flatten)
  let first := (p.table.pages.length + a.done.length) * p.P
  match s.frame? n with
  | none => (s, { a with half := 1 - a.half, fill := 0 })
  | some f =>
    let ft := frameTensor b.geometry f.dataVa f.sidecarVa scale
    let (s, tally, bad) := s.storeRows j false ft (rows.map fun r =>
      { i1 := r.1.1, i2 := r.1.2.1, i3 := r.1.2.2, vals := r.2.map Prod.fst, bad := r.2.map Prod.snd })
    let f' := { f.withTag (b.tag first p.P) with state := .used, refcount := 1, pageScale := scale, geometry := b.geometry }
    ({ s with kv.frames := mapIf (·.num = n) (fun _ => f') s.kv.frames },
     { a with half := 1 - a.half, fill := 0, frames := a.frames.drop 1, done := a.done ++ [n],
              saturated := a.saturated + tally.saturated, bad := a.bad || bad })

/-- Append one new position, flushing the half when it is full. -/
def AttnPlan.append (p : AttnPlan) (j : Job) (x : State × Appending) (k : Nat) : State × Appending :=
  let b := p.binding
  let (s, a) := x
  let t := stageTensor b p.staging p.layer a.half
  let hs := geoH b.geometry
  let rows := ((List.range 2).map fun kv => (List.range hs).map fun h =>
    let r := p.newRow s j kv h k
    { i1 := a.fill, i2 := kv * hs + h, i3 := 0, vals := r.map Prod.fst, bad := r.map Prod.snd : OutRow }).flatten
  let keep := { j with entry := { j.entry with hints := 1 } }
  let (s, _, bad) := s.storeRows keep false t rows
  let a := { a with fill := a.fill + 1, bad := a.bad || bad }
  if a.fill = p.P then p.flush j (s, a) else (s, a)

/-- Append every new position; the writes reach their home slices before they are published (R280). -/
def AttnPlan.appendAll (p : AttnPlan) (j : Job) (m : Macro) (s : State) : State × Appending :=
  let l := p.table
  let a : Appending :=
    { half := l.half, fill := l.fill, frames := (m.commit.map (·.pages)).getD [], done := [], saturated := 0, bad := false }
  if !p.stores then (s, a)
  else
    let s := match p.new with
      | none => s
      | some (k, v) => [k, v].foldl (fun s t => t.rows.foldl (fun s i =>
          s.fetchRow j t i.1 i.2.1 i.2.2 (s.readRow j t i.1 i.2.1 i.2.2) 0 (t.e 0)) s) s
    let (s, a) := (List.range p.count).foldl (p.append j) (s, a)
    (s.drainStage (coreDie j.core) (fun w => w.core = j.core), a)

/-! ## The walk (R285, R377) -/

/-- Keys and values of one key-value head at a position. -/
structure KeyVal where
  pos : Pos
  key : List FVal
  val : List FVal
  bad : Bool
  deriving DecidableEq, Repr

/-- A part of what is walked: a page, the staging half, or local keys; with what keep tests. -/
inductive Part where
  | page (frame : PageFrame) (first : Nat)
  | staged (tensor : Tensor) (first fill : Nat)
  | local_
  deriving DecidableEq, Repr

def AttnPlan.posOf (p : AttnPlan) (n : Nat) : Pos := { pos := n, at_ := p.binding.coords n }

/-- The tensor of a part, with its positions. -/
def Part.tensor (p : AttnPlan) : Part → Option (Tensor × Nat × Nat)
  | .page f first => some (frameTensor p.binding.geometry f.dataVa f.sidecarVa f.pageScale, first, p.P)
  | .staged t first n => some (t, first, n)
  | .local_ => none

/-- The slice of a part for key-value head h. -/
def AttnPlan.slice (p : AttnPlan) (s : State) (j : Job) (h : Nat) (x : Part) : List KeyVal :=
  let make := fun (pos : Nat) (k v : List (FVal × Bool)) =>
    ({ pos := p.posOf pos, key := k.map fun y => rne16 y.1, val := v.map fun y => rne16 y.1,
       bad := k.any (·.2) || v.any (·.2) } : KeyVal)
  match x.tensor p with
  | some (t, first, n) =>
    (List.range n).map fun i => make (first + i) (s.readFlame j t i h 0) (s.readFlame j t i (geoH p.binding.geometry + h) 0)
  | none => (List.range p.count).map fun a => make (p.table.length + a) (p.newRow s j 0 h a) (p.newRow s j 1 h a)

/-- The part is kept for a query tile. -/
def AttnPlan.keeps (p : AttnPlan) (q : QBox) (x : Part) : Bool :=
  let w := p.mask.widest (p.heads * p.group)
  match x with
  | .page f first => p.mask.keep w f.tag first q
  | .staged _ first n => decide (0 < n) && p.mask.keep w (p.binding.tag first n) first q
  | .local_ => true

/-- Fetch the slice of a part for key-value head h. -/
def AttnPlan.fetchPart (p : AttnPlan) (j : Job) (h : Nat) (s : State) (x : Part) : State :=
  let hs := geoH p.binding.geometry
  let all := fun (t : Tensor) (n kv : Nat) =>
    (sectorsOf (t.base + t.offset 0 (kv * hs + h) 0) (n * t.rowBytes),
     sectorsOf (t.scaleAddr 0 (kv * hs + h) 0) (n * t.scaleCount))
  match x.tensor p with
  | some (t, _, n) =>
    let hint := match x with
      | .staged _ _ _ => 1
      | _ => j.hint
    [0, 1].foldl (fun s kv => (s.fetch j hint p.decodes (all t n kv).2).fetch j hint p.decodes (all t n kv).1) s
  | none =>
    match p.new with
    | none => s
    | some (k, v) => [k, v].foldl (fun s t => (List.range (t.e 1)).foldl (fun s i =>
        s.fetchRow j t i h 0 (s.readRow j t i h 0) 0 (t.e 0)) s) s

/-- State of one row's online softmax. -/
structure Soft where
  m : FVal
  l : FVal
  acc : List FVal
  deriving DecidableEq, Repr

/-- One block of up to 32 visible keys: scores with their values. -/
def Soft.block (x : Soft) (ks : List (FVal × List FVal)) : Soft :=
  let mn := (ks.map Prod.fst).foldl FVal.max x.m
  let c := if x.m = .inf true then .zero else flameExp (sub32 x.m mn)
  let ps := ks.map fun k => rne16 (flameExp (sub32 k.1 mn))
  let sum := ps.foldl add32 .zero
  let dot := fun d => lane (plainSegs ps) (plainSegs (ks.map fun k => k.2.getD d .zero))
  { m := mn, l := add32 (mul32 x.l c) sum
    acc := (List.range x.acc.length).map fun d => add32 (mul32 (x.acc.getD d .zero) c) (dot d) }

/-- online_softmax of R377: the output and the log-sum-exp. -/
def onlineSoftmax (d : Nat) (ks : List (FVal × List FVal)) : List FVal × FVal :=
  let x := (pieces 32 ks).foldl Soft.block { m := .inf true, l := .zero, acc := List.replicate d .zero }
  if x.m = .inf true then (List.replicate d .zero, .inf true)
  else (x.acc.map fun a => mul32 a (flameFn 0x05 x.l), add32 x.m (flameFn 0x03 x.l))

/-- One query row of head j over the slices of its key-value head. -/
def AttnPlan.row (p : AttnPlan) (jh : Nat) (q : Pos) (qs : List FVal) (ks : List KeyVal) : List FVal × FVal :=
  let seen := ks.filter fun k => p.mask.visible q k.pos jh
  onlineSoftmax qs.length (seen.map fun k => (mul32 (lane (plainSegs qs) (plainSegs k.key)) p.scale, k.val))

/-- Look lines up in the page-table cache of a die (R269). -/
def State.lookUp (s : State) (d : Nat) (lines : List Nat) : State :=
  lines.foldl (fun s k =>
    let ls := s.kv.ptc.getD d []
    if ls.contains k then
      { s with kv.ptc := s.kv.ptc.set d (k :: ls.filter (· ≠ k))
               kv.ptcHits := s.kv.ptcHits.set d (satAdd 32 (s.kv.ptcHits.getD d 0) 1) }
    else
      let (n, s) := s.take
      let room := if ls.length < 8192 then ls else ls.eraseIdx (Config.freeNat n % 8192)
      { s with kv.ptc := s.kv.ptc.set d (k :: room)
               kv.ptcMisses := s.kv.ptcMisses.set d (satAdd 32 (s.kv.ptcMisses.getD d 0) 1) }) s

/-- Cache lines of some pages of a layer: bough sectors of 16 entries, and frame entries. -/
def AttnPlan.lines (p : AttnPlan) (pages : List (Nat × Nat)) : List Nat :=
  ((pages.map fun x => x.1 / 16).eraseDups.map fun k => 2 * ((p.seq * 512 + p.layer) * 2 ^ 17 + k) + 1)
    ++ pages.map fun x => 2 * x.2

/-- What an ATTN adds up over its tiles. -/
structure Walked where
  tally : Tally
  seen : Nat
  kept : Nat
  slices : Nat
  bad : Bool
  deriving DecidableEq, Repr

/-- Count tested pages (R284, R298, 19 R579). -/
def State.countPages (s : State) (j : Job) (kept culled : Nat) : State :=
  { s with kv.pagesKept := satAdd 32 s.kv.pagesKept kept, kv.pagesCulled := satAdd 32 s.kv.pagesCulled culled }.modCore j.core
    fun c => (c.count 0x0C kept j.entry.op).count 0x0D culled j.entry.op

/-- One key-value head of a query tile [r0, r1): fetches, results and log-sum-exps of its query heads. -/
def AttnPlan.headTile (p : AttnPlan) (j : Job) (parts : List Part) (qs : List (Nat × Pos)) (acc : State × Walked) (kh : Nat) :
    State × Walked :=
  let (s, w) := acc
  let h := p.head0 + kh
  let s := parts.foldl (p.fetchPart j h) s
  let ks := (parts.map (p.slice s j h)).flatten
  let heads := (List.range p.group).map fun g => kh * p.group + g
  let s := heads.foldl (fun s jh => qs.foldl (fun s q =>
    s.fetchRow j p.query q.1 jh 0 (s.readRow j p.query q.1 jh 0) 0 (p.query.e 0)) s) s
  let q := fun jh r => (s.readFlame j p.query r jh 0)
  let bad := j.bad || ks.any (·.bad) || heads.any fun jh => qs.any fun x => (q jh x.1).any (·.2)
  let results := (heads.map fun jh => qs.map fun x =>
    (jh, x.1, p.row jh x.2 ((q jh x.1).map fun y => rne16 y.1) ks)).flatten
  let (s, tally, _) := s.storeRows j true p.out (results.map fun r =>
    { i1 := r.2.1, i2 := r.1, i3 := 0, vals := r.2.2.1, bad := List.replicate r.2.2.1.length bad })
  let s := if p.lse = absent then s
    else results.foldl (fun s r =>
      s.put j false (p.lse + 4 * (r.1 * p.query.e 1 + r.2.1)) (leBytes 4 (enc32 r.2.2.2)) bad) s
  let slices := (parts.filter fun x => match x with | .page _ _ => true | _ => false).length
  (s, { w with tally := w.tally.add tally, slices := w.slices + slices, bad := w.bad || bad })

/-- One query tile. -/
def AttnPlan.tile (p : AttnPlan) (j : Job) (parts : List Part) (pages : List (Nat × Nat)) (acc : State × Walked)
    (r : Nat × Nat) : State × Walked :=
  let (s, w) := acc
  let qs := (List.range (r.2 - r.1)).map fun i => (r.1 + i, p.posOf (p.qBase + r.1 + i))
  let box := qBox (qs.map Prod.snd)
  let kept := parts.filter (p.keeps box)
  let isPage := fun (x : Part) => match x with | .page _ _ => true | _ => false
  let n := (kept.filter isPage).length
  let s := (s.lookUp (coreDie j.core) (p.lines pages)).countPages j n (pages.length - n)
  (List.range p.heads).foldl (p.headTile j kept qs) (s, { w with seen := w.seen + pages.length, kept := w.kept + n })

/-- What is walked once the append is done: pages with their frames, the staging half, and local keys. -/
def AttnPlan.parts (p : AttnPlan) (s : State) (a : Appending) : List Part :=
  let pages := p.table.pages ++ a.done
  let ps := (List.range pages.length).filterMap fun k => (s.frame? (pages.getD k 0)).map fun f => Part.page f (k * p.P)
  ps ++ [.staged (stageTensor p.binding p.staging p.layer a.half) (pages.length * p.P) a.fill]
    ++ (if p.new.isSome && !p.commit then [.local_] else [])

def AttnPlan.walk (p : AttnPlan) (j : Job) (m : Macro) (s : State) : State × Macro :=
  let (s, a) := p.appendAll j m s
  let pages := p.table.pages ++ a.done
  let (s, w) := (chunksOf p.qTile (p.query.e 1)).foldl
    (p.tile j (p.parts s a) ((List.range pages.length).zip pages))
    (s, { tally := Tally.none, seen := 0, kept := 0, slices := 0, bad := a.bad })
  let (n, s) := (s.flameFree j).take
  let s := s.modCore j.core fun c => c.count 0x05 (Config.freeNat n) j.entry.op
  let stats := if p.stats = absent then [] else [(p.stats, [w.seen, w.kept, w.slices, a.done.length, a.saturated])]
  (s, { m with status := p.out.gains w.tally ++ stats, poisoned := m.poisoned || w.bad })

/-- Take the snapshot, and with COMMIT reserve frames and bough blocks (R274, R276). -/
def AttnPlan.begin_ (p : AttnPlan) (j : Job) (m : Macro) (s : State) : State × Macro :=
  let l := p.table
  let m := { m with attnSeq := p.seq, attnLayer := p.layer, attnHalf := l.half, attnFill := l.fill, frames := l.pages }
  if !p.commit || p.out.empty then (s, m)
  else
    let n := p.flushes
    let taken := (s.freeFrames j.q p.seq p.binding.geometry).take n
    let k : KvCommit :=
      { pages := taken, boughs := l.opens n, half := if n % 2 = 0 then l.half else 1 - l.half,
        fill := (l.fill + p.count) % p.P, length := l.length + p.count }
    let used := mapIf (fun f => taken.contains f.num) (fun f => { f with state := .used }) s.kv.frames
    ({ s with kv.frames := used, kv.boughsUsed := s.kv.boughsUsed + k.boughs }, { m with commit := some k })

def runAttn (p : AttnPlan) (j : Job) (m : Macro) (s : State) : State × Macro :=
  let (s, m) := if m.attnSeq = 0 then p.begin_ j m s else (s, m)
  if s.halfHeld p j.opId then (s, { m with pending := .half })
  else if p.out.empty then (s, m)
  else p.walk j m s

def AttnPlan.writes (p : AttnPlan) : List Span :=
  p.out.outSpans
    ++ (if p.lse = absent then [] else [(p.lse, p.lse + 4 * p.heads * p.group * p.query.e 1)])
    ++ (if p.stats = absent then [] else [(p.stats, p.stats + 16)])

def kindAttn : Kind AttnPlan :=
  { mine := fun _ e => e.op = 0x03, read := readAttn,
    reads := fun p => p.query.hobSpans ++ (p.new.map fun x => x.1.hobSpans ++ x.2.hobSpans).getD [],
    writes := AttnPlan.writes, span := fun _ => 1, dma := false, blocked := fun _ c => c.arrayHeld, table := fun _ => [],
    run := runAttn }

/-- ATTN (R270 to R288). -/
def execAttn (e : Env) (core : Nat) (s : State) : Host.Outcome State Fault Refusal :=
  .next ((enter e s).issue kindAttn core)

/-- ATTN_HALF_RELEASE (R281): an append that has waited goes on once no snapshot holds its half. -/
def execAttnHalfRelease (e : Env) (core : Nat) (s : State) : Host.Outcome State Fault Refusal :=
  let s := enter e s
  let c := s.coreAt core
  .next (match s.run? c.run, c.unretired.find? (fun m => m.pending = .half) with
    | some r, some m => if s.dieMhz (coreDie core) = 0 then s else s.resume kindAttn core r m
    | _, _ => s)

end Sys2Proof.Machine
end

