-- ==== Sys2Proof/Machine/Movement.lean ====
section
/-! DEFINITION. MOVE: copies, reductions at the home slices, and atomics (07 R240 to R244, 10 R354). -/

namespace Sys2Proof.Machine

/-- MOVE in one MODE; an entry of a reserved MODE is taken too, and ends the launch. -/
def moveMine (mode : Nat) (e : Entry) : Bool := e.op = 0x10 && (e.imm % 8 = mode || decide (4 ≤ e.imm % 8))

/-- IMM of a MOVE (R240). -/
def moveStop (e : Entry) : Rd Unit :=
  let n := e.imm / 65536
  entryStop e (decide (4 ≤ e.imm % 8) || bitsOf e.imm 15 3 ≠ 0
    || (if e.imm % 8 = 3 then n = 0 || decide (1024 < n) else n ≠ 0))

/-- Source and destination. -/
structure MovePlan where
  src : Tensor
  dst : Tensor
  deriving DecidableEq, Repr

/-! ## COPY (R241) -/

def readCopy (h : Hob) (s : State) (j : Job) : Rd MovePlan := do
  moveStop j.entry
  let src ← tensorAt h s j (j.entry.opnd 0) true false
  let dst ← tensorAt h s j (j.entry.opnd 1) true true
  stopIf (src.ext ≠ dst.ext) .field
  frcUnit s [src, dst]
  pure { src := src, dst := dst }

/-- The bytes are copied unchanged (R241, R354). -/
def MovePlan.unchanged (p : MovePlan) : Bool :=
  p.src.fmt = p.dst.fmt && p.src.frc = p.dst.frc
    && (p.src.frc ≠ 0 || (p.src.mode = p.dst.mode && p.src.scale = p.dst.scale))

/-- A row copied unchanged: its bytes, its scale bytes, and the poison of each element. -/
def State.rawRow (s : State) (j : Job) (t : Tensor) (i1 i2 i3 : Nat) : RowOut × List Bool :=
  let at_ := t.base + t.offset i1 i2 i3
  let bytes := s.spaceRead j t.module at_ t.rowBytes
  let bytes := if t.frc ≠ 0 then bytes else packCodes t.fmt.bits (unpackCodes t.fmt.bits (t.e 0) bytes)
  let scales := s.spaceRead j t.module (t.scaleAddr i1 i2 i3) t.scaleCount
  let badSecs := (sectorsOf at_ t.rowBytes).filter fun a => s.spaceBad j t.module a 1
  let badScale := (List.range t.scaleCount).map fun k => s.spaceBad j t.module (t.scaleAddr i1 i2 i3 + k) 1
  let bad := (List.range (t.e 0)).map fun e =>
    let span := if t.frc ≠ 0 then (at_ + e / frcElems t.fmt * frcBytes t.frc, frcBytes t.frc)
      else (at_ + e * t.fmt.bits / 8, ceilDiv ((e + 1) * t.fmt.bits) 8 - e * t.fmt.bits / 8)
    badScale.getD (e / t.fmt.block) false
      || (!badSecs.isEmpty && (sectorsOf span.1 span.2).any badSecs.contains)
  ({ data := [(0, bytes)], scales := scales, tally := Tally.none,
     zero := (List.range (t.e 0)).map fun e => t.zeroAt (scales.map (·.toNat)) (e / t.fmt.block) }, bad)

/-- Sectors of a row copied unchanged. -/
def Tensor.rawSectors (t : Tensor) (i1 i2 i3 : Nat) : List Nat :=
  if !t.module then []
  else sectorsOf (t.scaleAddr i1 i2 i3) t.scaleCount ++ sectorsOf (t.base + t.offset i1 i2 i3) t.rowBytes

/-- Copy bytes unchanged; whether any was poisoned. The gauge sees the values when `watched`. -/
def copyRaw (watched : Bool) (p : MovePlan) (j : Job) (s0 : State) : State × Bool :=
  p.dst.rows.foldl (fun acc i =>
    let (r, bads) := s0.rawRow j p.src i.1 i.2.1 i.2.2
    let vals := (s0.readFlame j p.src i.1 i.2.1 i.2.2).map Prod.fst
    let s := acc.1.demand j (p.src.rawSectors i.1 i.2.1 i.2.2)
    let s := s.putRow j p.dst i.1 i.2.1 i.2.2 0 { r with zero := [] } fun e => j.bad || bads.getD e false
    (if watched then s.tap j.run (p.dst.taps i.1 i.2.1 i.2.2 0 vals r) else s,
     acc.2 || ((j.bad || bads.any id) && !bads.isEmpty))) (s0, false)

/-- A copy under R241: its counts, and whether any element was poisoned. -/
def copyRows (watched : Bool) (p : MovePlan) (j : Job) (s : State) : State × Tally × Bool :=
  if p.unchanged then
    let (s, bad) := copyRaw watched p j s
    (s, Tally.none, bad)
  else
    let row := fun (i : Nat × Nat × Nat) =>
      let xs := s.readFlame j p.src i.1 i.2.1 i.2.2
      { i1 := i.1, i2 := i.2.1, i3 := i.2.2, vals := xs.map Prod.fst, bad := xs.map Prod.snd : OutRow }
    let rows := p.dst.rows.map row
    let s' := p.dst.rows.foldl (fun s i =>
      s.fetchRow j p.src i.1 i.2.1 i.2.2 (s.readRow j p.src i.1 i.2.1 i.2.2) 0 (p.src.e 0)) s
    s'.storeRows j watched p.dst rows

def runCopy (p : MovePlan) (j : Job) (m : Macro) (s : State) : State × Macro :=
  let (s, tally, bad) := copyRows true p j s
  (s, { m with status := p.dst.gains tally, poisoned := m.poisoned || bad })

def kindCopy : Kind MovePlan :=
  { mine := fun _ e => moveMine 0 e, read := readCopy, reads := fun p => p.src.hobSpans, writes := fun p => p.dst.outSpans,
    span := fun _ => 1, dma := true, blocked := fun _ _ => false, table := fun _ => [], run := runCopy }

/-- MOVE in COPY mode (R241). -/
def execCopyTensor (e : Env) (core : Nat) (s : State) : Host.Outcome State Fault Refusal :=
  .next ((enter e s).issue kindCopy core)

/-! ## REDUCE (R242, R244) -/

def readReduce (f : Fmt) (h : Hob) (s : State) (j : Job) : Rd MovePlan := do
  moveStop j.entry
  let src ← tensorAt h s j (j.entry.opnd 0) false false
  let dst ← tensorAt h s j (j.entry.opnd 1) false true
  stopIf (src.ext ≠ dst.ext || !dst.module || dst.fmt ≠ f || dst.scaled || dst.scale ≠ 0x3F800000) .field
  pure { src := src, dst := dst }

/-- Before the home slices update sectors, the die's write stage drains what it holds for them, and provisional results
that lie there are consumed. -/
def State.atHome (s : State) (j : Job) (secs : List Nat) : State :=
  let s := s.drainStage (coreDie j.core) fun w =>
    w.partition = j.q && (sectorsOf w.va w.bytes.length).any secs.contains
  let ops := s.provisionalAt j.q secs
  let s := if ops.isEmpty then s else ((s.runCmds j.run).filterMap s.cmd?).foldl (fun s c => s.consume c ops) s
  s.touchWrites j j.hint secs

/-- Accesses that the home slices carry out for a run. -/
def State.homeView (s : State) (j : Job) : View := { core := none, journal := s.runJournal j.run }

/-- What a home slice has written for a run is an output of it, outside a journal. -/
def State.noteHome (s : State) (j : Job) (va n : Nat) : State :=
  if (s.journalFor (s.homeView j) j.q va).isSome then s else s.noteWrite j.core j.q va n

/-- One row: each old value plus the source's, exact, rounded once by the destination's format. -/
def State.reduceRow (s : State) (j : Job) (p : MovePlan) (i1 i2 i3 : Nat) : State × Tally × Bool :=
  let t := p.dst
  let at_ := t.base + t.offset i1 i2 i3
  let row := s.readRow j p.src i1 i2 i3
  let s := (s.fetchRow j p.src i1 i2 i3 row 0 (p.src.e 0)).atHome j (sectorsOf at_ t.rowBytes)
  let old := (s.readRow j t i1 i2 i3).elems
  let new := (List.range (t.e 0)).map fun e =>
    (old.getD e Elem.zero).code.add (p.src.flame (row.elems.getD e Elem.zero))
  let bads := (List.range (t.e 0)).map fun e =>
    j.bad || (old.getD e Elem.zero).bad || (row.elems.getD e Elem.zero).bad
  let r := t.encode new
  let s := r.data.foldl (fun s d =>
    (runsOf (fun k => bads.getD (k * 8 / t.fmt.bits) false) 0 d.2).foldl (fun s x =>
      (s.writeRange (s.homeView j) j.q (at_ + d.1 + x.1) x.2.1 x.2.2).noteHome j (at_ + d.1 + x.1) x.2.1.length) s) s
  (s, r.tally, bads.any id)

def runReduce (p : MovePlan) (j : Job) (m : Macro) (s : State) : State × Macro :=
  let (s, tally, bad) := p.dst.rows.foldl (fun acc i =>
    let (s, t, b) := acc.1.reduceRow j p i.1 i.2.1 i.2.2
    (s, acc.2.1.add t, acc.2.2 || b)) (s, Tally.none, false)
  (s, { m with status := p.dst.gains tally, poisoned := m.poisoned || bad })

def kindReduce (mode : Nat) (f : Fmt) : Kind MovePlan :=
  { mine := fun _ e => moveMine mode e, read := readReduce f, reads := fun p => p.src.hobSpans,
    writes := fun p => p.dst.outSpans, span := fun _ => 1, dma := true, blocked := fun _ _ => false,
    table := fun _ => [], run := runReduce }

/-- MOVE in REDUCE_FP32 mode (R242). -/
def execReduceFp32 (e : Env) (core : Nat) (s : State) : Host.Outcome State Fault Refusal :=
  .next ((enter e s).issue (kindReduce 1 .fp32) core)

/-- MOVE in REDUCE_BF16 mode (R242). -/
def execReduceBf16 (e : Env) (core : Nat) (s : State) : Host.Outcome State Fault Refusal :=
  .next ((enter e s).issue (kindReduce 2 .bf16) core)

/-! ## ATOMIC (R243, R244) -/

structure AtomicEntry where
  op : Nat
  /-- bytes of the word -/
  width : Nat
  signed : Bool
  va : Nat
  operand : Nat
  compare : Nat
  deriving DecidableEq, Repr

structure AtomicPlan where
  entries : List AtomicEntry
  results : Nat
  deriving DecidableEq, Repr

def atomicEntry (b : List Byte) : AtomicEntry :=
  let w := if (leAt b 1 1).testBit 0 then 8 else 4
  { op := leAt b 0 1, width := w, signed := (leAt b 1 1).testBit 1, va := leAt b 8 8, operand := leAt b 16 w,
    compare := leAt b 24 w }

def readAtomic (h : Hob) (s : State) (j : Job) : Rd AtomicPlan := do
  moveStop j.entry
  let n := j.entry.imm / 65536
  let list := j.entry.opnd 0
  let res := j.entry.opnd 1
  stopIf (list % 32 ≠ 0 || (res ≠ absent && res % 8 ≠ 0)) .field
  stopIf (decide (hobTop < list + 32 * n) || (res ≠ absent && decide (hobTop < res + 8 * n))) .bounds
  let es ← (List.range n).mapM fun k => do
    let b ← copied h (list + 32 * k) 32
    let x := atomicEntry b
    stopIf (decide (4 < x.op) || decide (4 ≤ leAt b 1 1) || !zeroBytes b 2 8 || x.va % x.width ≠ 0) .field
    stopIf (s.placeOf j.q j.opId x.va x.width).isNone .bounds
    pure x
  pure { entries := es, results := res }

/-- The word after one operation. -/
def AtomicEntry.apply (x : AtomicEntry) (old : Nat) : Nat :=
  let w := 8 * x.width
  let less := fun a b => if x.signed then decide (toSigned w a < toSigned w b) else decide (a < b)
  match x.op with
  | 0 => (old + x.operand) % 2 ^ w
  | 1 => if less old x.operand then x.operand else old
  | 2 => if less x.operand old then x.operand else old
  | 3 => x.operand
  | _ => if old = x.compare then x.operand else old

/-- One operation at its home slice: the word's old value and poison. -/
def State.atomicStep (s : State) (j : Job) (x : AtomicEntry) : State × Nat × Bool :=
  let s := s.atHome j [sectorOf x.va]
  let v := s.homeView j
  let old := leNat (s.readMem v j.q x.va x.width)
  let bad := j.bad || s.rangePoison v j.q x.va x.width
  ((s.writeMem v j.q x.va (leBytes x.width (x.apply old)) bad).noteHome j x.va x.width, old, bad)

def runAtomic (p : AtomicPlan) (j : Job) (m : Macro) (s : State) : State × Macro :=
  let (s, bad, _) := p.entries.foldl (fun acc x =>
    let (s, old, b) := acc.1.atomicStep j x
    let a := p.results + 8 * acc.2.2
    let s := if p.results = absent then s
      else
        let s := s.hobWrite j.core a (leBytes 8 old)
        if b then s.hobMark j.core [sectorOf a] else s
    (s, acc.2.1 || b, acc.2.2 + 1)) (s, false, 0)
  (s, { m with poisoned := m.poisoned || bad })

def kindAtomic : Kind AtomicPlan :=
  { mine := fun _ e => moveMine 3 e, read := readAtomic, reads := fun _ => [],
    writes := fun p => if p.results = absent then [] else [(p.results, p.results + 8 * p.entries.length)],
    span := fun _ => 1, dma := true, blocked := fun _ _ => false, table := fun _ => [], run := runAtomic }

/-- MOVE in ATOMIC mode (R243). -/
def execAtomic (e : Env) (core : Nat) (s : State) : Host.Outcome State Fault Refusal :=
  .next ((enter e s).issue kindAtomic core)

end Sys2Proof.Machine
end

