-- ==== Sys2Proof/Machine/Banking.lean ====
section
/-! DEFINITION. BANKCHK: the banking descriptor, the tile record, the metric, and reuse of a stored output (09 R321 to
R328). -/

namespace Sys2Proof.Machine

/-! ## Reading at issue (R321, R322, R325) -/

structure BankPlan where
  input : Tensor
  stored : Tensor
  live : Tensor
  /-- the reference slot as a tensor in FRC -/
  ref : Tensor
  record : Nat
  threshold : FVal
  force : Bool
  skip : Nat
  deriving DecidableEq, Repr

/-- The reference slot holds the input tile's rows one after another at REF_RATIO. -/
def refTensor (t : Tensor) (va ratio : Nat) : Tensor :=
  let row := t.e 0 * t.fmt.bits / 2048 * frcBytes ratio
  { t with mode := .none, module := true, frc := ratio, status := absent, base := va
           strides := [row, row * t.e 1, row * t.e 1 * t.e 2] }

/-- An entry that a skip range may not hold. -/
def skipBad (e : Entry) (appendFlags : Nat) : Bool :=
  e.op = 0x11 || e.op = 0x12 || e.op = 0x30 || (e.op = 0x20 && (e.imm % 16 = 1 || e.imm % 16 = 2))
    || (e.op = 0x03 && e.opnd 4 ≠ absent && appendFlags.testBit 0)

def readBank (h : Hob) (s : State) (j : Job) : Rd BankPlan := do
  let e := j.entry
  let n := e.imm
  entryStop e (decide (32 ≤ n) || n = 0)
  let input ← tensorAt h s j (e.opnd 0) true false
  let d ← descriptor h (e.opnd 1) 64
  let stored ← tensorAt h s j (e.opnd 2) true false
  let flags := leAt d 1 1
  let args := leAt d 8 4
  let threshold := dec32 (leAt d 4 4)
  let record := leAt d 16 8
  let slot := leAt d 24 8
  let size := leAt d 32 4
  stopIf (leAt d 0 1 ≠ 6 || decide (2 ≤ flags) || !zeroBytes d 2 4 || !zeroBytes d 36 64 || !threshold.isFin
    || threshold.lt .zero || args % 64 ≠ 0 || record % 16 ≠ 0 || slot % 256 ≠ 0) .field
  stopIf (decide (hobTop < args + 64)) .bounds
  let force := leNat (← copied h (args + 17) 1)
  let live ← tensorAt h s j (leAt d 12 4) false true
  let ref := refTensor input slot (flags % 2 + 1)
  stopIf (decide (1 < force) || !input.fmt.wide || !stored.fmt.wide || !stored.module || live.ext ≠ stored.ext
    || input.e 0 * input.fmt.bits / 8 % 256 ≠ 0) .field
  let need := if input.empty then 0 else ref.reach + ref.rowBytes
  stopIf (decide (size < need)) .field
  stopIf ((s.placeOf j.q j.opId record 16).isNone || (s.placeOf j.q j.opId slot (max 1 size)).isNone) .bounds
  let c := s.coreAt j.core
  stopIf (decide (c.progLen < j.index + 1 + n)) .field
  let bads ← (List.range n).mapM fun k => do
    let x := macroEntry (← peeked h (c.progBase + 32 * (j.index + 1 + k)) 32)
    if x.op = 0x03 ∧ x.opnd 4 ≠ absent then
      let b ← peeked h (x.opnd 4 + 1) 1
      pure (skipBad x (leNat b))
    else pure (skipBad x 0)
  stopIf (bads.any id) .field
  stopIf (!s.unitPresent 5) (.unit 5)
  pure { input := input, stored := stored, live := live, ref := ref, record := record, threshold := threshold
         force := decide (force = 1), skip := n }

/-! ## The check (R323, R324) -/

/-- The signature: valid data bytes row by row, then valid scale bytes. -/
def BankPlan.signature (p : BankPlan) (s : State) (j : Job) : Nat :=
  let rows := p.input.rows.map fun i => (s.rawRow j p.input i.1 i.2.1 i.2.2).1
  crc32c ((rows.map fun r => (r.data.map Prod.snd).flatten).flatten ++ (rows.map (·.scales)).flatten)

/-- The metric of x against r, in FP32. -/
def bankMetric (xs rs : List FVal) : FVal :=
  let sum := fun (vs : List FVal) => vs.foldl (fun acc v => add32 acc (mul32 v v)) .zero
  let top := sum ((xs.zip rs).map fun p => sub32 p.1 p.2)
  sqrt32 (div32 top (FVal.max (sum rs) (.fin false (pow2 (-126)))))

/-- Every element of a tensor with its poison. -/
def Tensor.all (t : Tensor) (s : State) (j : Job) : List (FVal × Bool) :=
  (t.rows.map fun i => s.readFlame j t i.1 i.2.1 i.2.2).flatten

def State.fetchAll (s : State) (j : Job) (t : Tensor) : State :=
  t.rows.foldl (fun s i => s.fetchRow j t i.1 i.2.1 i.2.2 (s.readRow j t i.1 i.2.1 i.2.2) 0 (t.e 0)) s

/-- Count an outcome for the core, the module, and the steps the run works for (R330, 19 R579). -/
def State.countBank (s : State) (j : Job) (reuse : Bool) : State :=
  let s := s.modCore j.core fun c => c.count (if reuse then 0x0E else 0x0F) 1 j.entry.op
  let s := if reuse then { s with seqs.reused := satAdd 32 s.seqs.reused 1 }
    else { s with seqs.computed := satAdd 32 s.seqs.computed 1 }
  (s.runSteps j.run).foldl (fun s t =>
    if reuse then
      (s.modStep t.id fun t => { t with reused := t.reused + 1 }).modSeq t.seq fun q => { q with tilesReused := q.tilesReused + 1 }
    else
      (s.modStep t.id fun t => { t with computed := t.computed + 1 }).modSeq t.seq fun q =>
        { q with tilesComputed := q.tilesComputed + 1 }) s

/-- The tile record as written. -/
def recordBytes (signature age : Nat) (reused : Bool) (metric : FVal) : List Byte :=
  leBytes 4 signature ++ leBytes 1 (1 + 2 * b2n reused) ++ leBytes 1 age ++ zeros 2 ++ leBytes 4 (enc32 metric) ++ zeros 4

def runBank (p : BankPlan) (j : Job) (m : Macro) (s0 : State) : State × Macro :=
  let rec_ := s0.spaceRead j true p.record 16
  let valid := (leAt rec_ 4 1).testBit 0
  let recBad := s0.spaceBad j true p.record 16
  let sig := p.signature s0 j
  let xs := p.input.all s0 j
  let same := sig = leAt rec_ 0 4
  let compares := !p.force && valid && !same
  let rs := if compares then p.ref.all s0 j else []
  let metric := if p.force || !valid then .nan else if same then .zero else bankMetric (xs.map Prod.fst) (rs.map Prod.fst)
  let reuse := !p.force && valid && metric.lt p.threshold
  let read := j.bad || xs.any (·.2) || recBad || rs.any (·.2)
  let s := (s0.demand j (sectorsOf p.record 16)).fetchAll j p.input
  let s := if compares then s.fetchAll j p.ref else s
  if reuse then
    let (s, tally, bad) := copyRows false { src := p.stored, dst := p.live } { j with bad := read } s
    let bytes := recordBytes (leAt rec_ 0 4) (min 255 (leAt rec_ 5 1 + 1)) true metric
    let s := (s.put j true p.record bytes read).modCore j.core fun c => { c with skip := p.skip }
    (s.countBank j true, { m with status := p.live.gains tally, poisoned := m.poisoned || read || bad })
  else
    let rows := p.input.rows.map fun i =>
      let r := s0.readFlame j p.input i.1 i.2.1 i.2.2
      ({ i1 := i.1, i2 := i.2.1, i3 := i.2.2, vals := r.map Prod.fst, bad := r.map Prod.snd } : OutRow)
    let (s, _, _) := s.storeRows j false p.ref rows
    let s := s.put j true p.record (recordBytes sig 0 false metric) (j.bad || xs.any (·.2))
    let sector := sectorOf p.record
    let s := if p.force then s.put j true sector (s.spaceRead j true sector 64) (j.bad || xs.any (·.2)) else s
    (s.countBank j false, { m with poisoned := m.poisoned || read })

def kindBank : Kind BankPlan :=
  { mine := fun _ e => e.op = 0x30, read := readBank, reads := fun p => p.input.hobSpans, writes := fun p => p.live.outSpans,
    span := fun _ => 1, dma := false, blocked := fun _ _ => false, table := fun _ => [], run := runBank }

/-- BANKCHK (R324). -/
def execBankchk (e : Env) (core : Nat) (s : State) : Host.Outcome State Fault Refusal :=
  .next ((enter e s).issue kindBank core)

end Sys2Proof.Machine
end

