-- ==== Sys2Proof/Machine/Crypto.lean ====
section
/-! DEFINITION. The functions that Ryqua computes: SHAKE256 (FIPS 202) and Ed448 (RFC 8032), by which images are verified
and quotes signed (18 R556, R558, R574, R576). -/

namespace Sys2Proof.Machine

/-! ## SHAKE256: Keccak-f[1600] over 25 lanes of 64 bits, lane x + 5y -/

abbrev Lane := BitVec 64

def rotl (x : Lane) (n : Nat) : Lane := x.rotateLeft n

def laneAt (a : List Lane) (i : Nat) : Lane := a.getD i 0

def keccakRho : List Nat :=
  [0, 1, 62, 28, 27, 36, 44, 6, 55, 20, 3, 10, 43, 25, 39, 41, 45, 15, 21, 8, 18, 2, 61, 56, 14]

def keccakRounds : List Lane :=
  [0x0000000000000001, 0x0000000000008082, 0x800000000000808A, 0x8000000080008000, 0x000000000000808B,
   0x0000000080000001, 0x8000000080008081, 0x8000000000008009, 0x000000000000008A, 0x0000000000000088,
   0x0000000080008009, 0x000000008000000A, 0x000000008000808B, 0x800000000000008B, 0x8000000000008089,
   0x8000000000008003, 0x8000000000008002, 0x8000000000000080, 0x000000000000800A, 0x800000008000000A,
   0x8000000080008081, 0x8000000000008080, 0x0000000080000001, 0x8000000080008008]

/-- Column parity mixing. -/
def keccakTheta (a : List Lane) : List Lane :=
  let c := (List.range 5).map fun x =>
    laneAt a x ^^^ laneAt a (x + 5) ^^^ laneAt a (x + 10) ^^^ laneAt a (x + 15) ^^^ laneAt a (x + 20)
  (List.range 25).map fun i => laneAt a i ^^^ laneAt c ((i + 4) % 5) ^^^ rotl (laneAt c ((i + 1) % 5)) 1

/-- Rotation of each lane, and its move: lane (x, y) of the result comes from ((x + 3y) mod 5, x). -/
def keccakRhoPi (a : List Lane) : List Lane :=
  (List.range 25).map fun i =>
    let j := (i % 5 + 3 * (i / 5)) % 5 + 5 * (i % 5)
    rotl (laneAt a j) (keccakRho.getD j 0)

/-- Nonlinear mixing along rows, and the round constant. -/
def keccakChi (rc : Lane) (a : List Lane) : List Lane :=
  (List.range 25).map fun i =>
    let y := i / 5 * 5
    let v := laneAt a i ^^^ (~~~(laneAt a (y + (i + 1) % 5)) &&& laneAt a (y + (i + 2) % 5))
    if i = 0 then v ^^^ rc else v

def keccakF (a : List Lane) : List Lane :=
  keccakRounds.foldl (fun a rc => keccakChi rc (keccakRhoPi (keccakTheta a))) a

/-- A block of 136 bytes enters the sponge. -/
def keccakAbsorb (a : List Lane) (block : List Byte) : List Lane :=
  keccakF ((List.range 25).map fun i =>
    if i < 17 then laneAt a i ^^^ BitVec.ofNat 64 (leAt block (8 * i) 8) else laneAt a i)

/-- The blocks of a message with SHAKE256's padding. -/
def shakeBlocks (msg : List Byte) : List (List Byte) :=
  let n := msg.length / 136
  let tail := msg.drop (136 * n)
  let mid := zeros (134 - tail.length)
  let last := if tail.length = 135 then tail ++ [0x9F] else tail ++ [0x1F] ++ mid ++ [0x80]
  (List.range n).map (fun i => (msg.drop (136 * i)).take 136) ++ [last]

def keccakRate (a : List Lane) : List Byte := ((a.take 17).map fun x => leBytes 8 x.toNat).flatten

/-- `n` more blocks of output. -/
def keccakSqueeze : Nat → List Lane → List Byte
  | 0, _ => []
  | n + 1, a => keccakRate a ++ keccakSqueeze n (keccakF a)

/-- SHAKE256 of a message, to `len` bytes. -/
def shake256 (msg : List Byte) (len : Nat) : List Byte :=
  (keccakSqueeze (len / 136 + 1) ((shakeBlocks msg).foldl keccakAbsorb (List.replicate 25 0))).take len

/-! ## Ed448 -/

def edP : Nat := 2 ^ 448 - 2 ^ 224 - 1
def edOrder : Nat := 2 ^ 446 - 13818066809895115352007386748515426880336692474882178609894547503885
/-- d = -39081 -/
def edD : Nat := edP - 39081

/-- b^e mod m, with fuel for the bits of e. -/
def powMod (m b : Nat) : Nat → Nat → Nat
  | 0, _ => 1
  | f + 1, e =>
    if e = 0 then 1
    else
      let h := powMod m (b * b % m) f (e / 2)
      if e % 2 = 1 then b * h % m else h

/-- A point as (X : Y : Z). -/
structure EdPoint where
  x : Nat
  y : Nat
  z : Nat
  deriving DecidableEq, Repr

def edBase : EdPoint :=
  { x := 224580040295924300187604334099896036246789641632564134246125461686950415467406032909029192869357953282578032075146446173674602635247710
    y := 298819210078481492676017930443930673437544040154080242095928241372331506189835876003536878655418784733982303233503462500531545062832660
    z := 1 }

def edZero : EdPoint := { x := 0, y := 1, z := 1 }

def modSub (a b : Nat) : Nat := (a + edP - b % edP) % edP

/-- The addition of RFC 8032, section 5.2.4, which holds for doubling as well. -/
def edAdd (u v : EdPoint) : EdPoint :=
  let a := u.z * v.z % edP
  let b := a * a % edP
  let c := u.x * v.x % edP
  let d := u.y * v.y % edP
  let e := edD * (c * d % edP) % edP
  let f := modSub b e
  let g := (b + e) % edP
  let h := (u.x + u.y) * (v.x + v.y) % edP
  { x := a * f % edP * modSub h (c + d) % edP, y := a * g % edP * modSub d c % edP, z := f * g % edP }

/-- n times a point, with fuel for the bits of n. -/
def edMulAux : Nat → Nat → EdPoint → EdPoint
  | 0, _, _ => edZero
  | f + 1, n, u =>
    if n = 0 then edZero
    else
      let h := edMulAux f (n / 2) (edAdd u u)
      if n % 2 = 1 then edAdd u h else h

def edMul (n : Nat) (u : EdPoint) : EdPoint := edMulAux 912 n u

def edSame (u v : EdPoint) : Bool :=
  decide (u.x * v.z % edP = v.x * u.z % edP) && decide (u.y * v.z % edP = v.y * u.z % edP)

/-- A point as 57 bytes: y, and the low bit of x in the top bit. -/
def edEncode (u : EdPoint) : List Byte :=
  let i := powMod edP (u.z % edP) 448 (edP - 2)
  leBytes 57 (u.y * i % edP + u.x * i % edP % 2 * 2 ^ 455)

/-- The point that 57 bytes name. -/
def edDecode (bs : List Byte) : Option EdPoint :=
  let n := leNat bs
  let y := n % 2 ^ 455
  let sign := n / 2 ^ 455
  let u := modSub (y * y % edP) 1
  let v := modSub (edD * (y * y % edP) % edP) 1
  let u3v := u * u % edP * u % edP * v % edP
  let u5v3 := u3v * (u * u % edP) % edP * (v * v % edP) % edP
  let x := u3v * powMod edP u5v3 448 ((edP - 3) / 4) % edP
  if bs.length ≠ 57 ∨ edP ≤ y ∨ 2 ≤ sign ∨ v * (x * x % edP) % edP ≠ u ∨ (x = 0 ∧ sign = 1) then none
  else some { x := if x % 2 = sign then x else edP - x, y := y, z := 1 }

/-- dom4 of RFC 8032: "SigEd448", the prehash flag, and the context. -/
def edDom (prehash : Bool) (context : List Byte) : List Byte :=
  [0x53, 0x69, 0x67, 0x45, 0x64, 0x34, 0x34, 0x38] ++ [if prehash then 1 else 0] ++ beBytes 1 context.length ++ context

def edHash (prehash : Bool) (context msg : List Byte) : Nat := leNat (shake256 (edDom prehash context ++ msg) 114)

/-- Scalar and prefix of a secret key. -/
def edSecret (key : List Byte) : Nat × List Byte :=
  let h := shake256 key 114
  let n := leNat (h.take 55)
  (n / 4 * 4 % 2 ^ 440 + leNat [h.getD 55 0 ||| 0x80] * 2 ^ 440, h.drop 57)

def edPublic (key : List Byte) : List Byte := edEncode (edMul (edSecret key).1 edBase)

/-- The Ed448 signature of a message under a context. -/
def edSign (key context msg : List Byte) : List Byte :=
  let (a, pre) := edSecret key
  let r := edHash false context (pre ++ msg) % edOrder
  let rs := edEncode (edMul r edBase)
  let k := edHash false context (rs ++ edPublic key ++ msg) % edOrder
  rs ++ leBytes 57 ((r + k * a) % edOrder)

/-- Signature verification: the message itself, or with `prehash` its 64-byte hash. -/
def edVerify (prehash : Bool) (public_ context msg sig : List Byte) : Bool :=
  let s := leNat ((sig.drop 57).take 57)
  match edDecode public_, edDecode (sig.take 57) with
  | some a, some r =>
    let k := edHash prehash context (sig.take 57 ++ public_ ++ msg) % edOrder
    decide (sig.length = 114) && decide (s < edOrder)
      && edSame (edMul (4 * s) edBase) (edAdd (edMul 4 r) (edMul (4 * k) a))
  | _, _ => false

end Sys2Proof.Machine
end

