-- ==== Sys2Proof/Machine/Flue.lean ====
section
/-! DEFINITION. The Flue port: opening and closing windows, write bursts and their acknowledgement, credit and read
bursts (03 R106 to R114). -/

namespace Sys2Proof.Machine

def opFlueOpen : Op := { code := 0x0110, scope := .partition, notify := false, deadline := false, minLen := 48 }
def opFlueClose : Op := { code := 0x0111, scope := .partition, notify := false, deadline := false, minLen := 8 }

/-! ## Windows -/

def Window.size (w : Window) : Nat := w.rowLength * w.rowCount

/-- flue_address of R110, as an offset into the allocation. -/
def Window.address (w : Window) (o : Nat) : Nat :=
  w.start + o / w.rowLength * w.rowPitch + o % w.rowLength

/-- Bytes that burst `n` carries: BURST_SIZE, or what is left for the last one (R109, R110). -/
def Window.burstBytes (w : Window) (n : Nat) : Nat := min w.burstSize (w.size - n * w.burstSize)

/-- The pieces of burst `n`, each within one row: offset into the allocation, offset into the burst, and length. -/
def Window.pieces (w : Window) (n : Nat) : List (Nat × Nat × Nat) :=
  let lo := n * w.burstSize
  let hi := lo + w.burstBytes n
  if w.rowLength = 0 ∨ hi ≤ lo then []
  else
    (List.range ((hi - 1) / w.rowLength - lo / w.rowLength + 1)).map fun i =>
      let row := lo / w.rowLength + i
      let a := max lo (row * w.rowLength)
      let b := min hi ((row + 1) * w.rowLength)
      (w.address a, a - lo, b - a)

def State.window? (s : State) (q id : Nat) : Option Window :=
  s.net.windows.find? fun w => w.partition = q && w.id = id
def State.modWindow (s : State) (q id : Nat) (f : Window → Window) : State :=
  { s with net.windows := mapIf (fun w => w.partition = q && w.id = id) f s.net.windows }

/-! ## FLUE_OPEN (R106, R107) -/

/-- Payload bytes that fit the MTU with the headers. -/
def State.burstLimit (s : State) (a : IpAddr) : Nat := s.set.mtu - (if isV4 a then 44 else 64)

def flueBursts (c : Ctx) : Nat := ceilDiv (c.be 16 4 * c.be 20 4) (c.be 34 2)

def flueRangeBad (c : Ctx) (s : State) : Bool :=
  let rowLength := c.be 16 4
  let rowCount := c.be 20 4
  let burst := c.be 34 2
  rowLength = 0 || rowCount = 0 || decide (2 ≤ c.be 32 1) || burst % 64 ≠ 0 || decide (burst < 64)
    || decide (8192 < burst) || decide (s.burstLimit c.p.src.ip < burst) || decide (3 ≤ c.be 38 1)
    || (c.be 32 1 = 0 && decide (c.be 24 8 < rowLength) && decide (1 < rowCount))
    || decide (2 ^ 48 < rowLength * rowCount) || decide (0xFFFFFFFF < flueBursts c)

def flueOpenCheck (c : Ctx) (s : State) : Option Bad :=
  let a := s.alloc? c.part (c.be 0 8)
  firstBad [
    badIf (flueRangeBad c s) 7,
    badIf a.isNone 5,
    badIf (a.any fun a => decide (a.bytes < c.be 8 8 + (c.be 20 4 - 1) * c.be 24 8 + c.be 16 4)) 6,
    badIf (s.window? c.part (c.be 33 1)).isSome 13 ]

def flueOpenQuota (c : Ctx) (s : State) : Option Bad :=
  refuseIf ((s.part? c.part).any fun p =>
    decide (p.windowQuota ≤ (s.net.windows.filter (·.partition = c.part)).length)) 0x0103 4

/-- The next generation of a window number (R106, log entry 15). -/
def State.nextGen (s : State) (q id : Nat) : Nat :=
  match s.net.windowGens.find? fun g => g.1 = q && g.2.1 = id with
  | some g => (g.2.2 + 1) % 256
  | none => 0

def State.keepGen (s : State) (q id gen : Nat) : State :=
  { s with net.windowGens := (s.net.windowGens.filter fun g => !(g.1 = q && g.2.1 = id)) ++ [(q, id, gen)] }

def flueOpenEffect (c : Ctx) (s : State) : State × List Byte :=
  let id := c.be 33 1
  let gen := s.nextGen c.part id
  let read := decide (c.be 32 1 = 1)
  let bursts := flueBursts c
  let credit := min bursts 256
  let w : Window :=
    { partition := c.part, id := id, gen := gen, session := c.session, handle := c.be 0 8, start := c.be 8 8,
      rowLength := c.be 16 4, rowCount := c.be 20 4, rowPitch := c.be 24 8, read := read, burstSize := c.be 34 2,
      hostPort := c.be 36 2, hint := c.be 38 1, burstCount := bursts,
      creditLimit := if read then c.be 40 4 else credit, cumSeq := 0, beyond := [], sinceAck := 0, lastBurst := none,
      next := 0, sent := 0 }
  ({ s.keepGen c.part id gen with net.windows := s.net.windows ++ [w] },
   beBytes 1 gen ++ zeros 3 ++ beBytes 4 bursts ++ beBytes 4 (if read then 0 else credit))

def execFlueOpen (p : Packet) (s : State) : Host.Outcome State Fault Refusal :=
  .next (replyOp opFlueOpen flueOpenCheck flueOpenQuota nothing flueOpenEffect p s)

/-! ## FLUE_CLOSE (R113) -/

def flueCloseCheck (c : Ctx) (s : State) : Option Bad :=
  badIf (!((s.window? c.part (c.be 0 1)).any fun w => w.gen = c.be 1 1 && w.session = c.session)) 5

/-- The window closes at the stamp, and its CUM_SEQ is returned. -/
def flueCloseEffect (c : Ctx) (s : State) : State × List Byte :=
  let cum := ((s.window? c.part (c.be 0 1)).map (·.cumSeq)).getD 0
  ({ s with net.windows := s.net.windows.filter fun w => !(w.partition = c.part && w.id = c.be 0 1) }, beBytes 4 cum)

def execFlueClose (p : Packet) (s : State) : Host.Outcome State Fault Refusal :=
  .next (replyOp opFlueClose flueCloseCheck never nothing flueCloseEffect p s)

/-! ## Packets of the Flue port (R108, R109) -/

/-- A Flue packet as the module sends it. -/
def fluePacketBytes (w : Window) (kind seq : Nat) (payload : List Byte) : List Byte :=
  beBytes 2 0x4958 ++ beBytes 1 kind ++ beBytes 1 w.partition ++ beBytes 1 w.id ++ beBytes 1 w.gen
    ++ beBytes 2 payload.length ++ beBytes 4 seq ++ beBytes 4 (crc32c payload) ++ payload

/-- Where a window's packets go: the host of its session, at HOST_PORT. -/
def State.windowPeer (s : State) (w : Window) : Endpoint :=
  match s.net.sessions.find? (·.id = w.session) with
  | some n => { ip := n.peer.ip, port := BitVec.ofNat 16 w.hostPort }
  | none => { ip := .v4 0, port := BitVec.ofNat 16 w.hostPort }

/-- The open window a packet is for, if it passes the checks that hold for every kind: the session is found by the
host's address (log entry 18). -/
def State.flueWindow (s : State) (f : FluePacket) (read : Bool) : Option Window :=
  if s.boot.mode ≠ .ready || !s.servesAddress f.dst || f.magic.toNat ≠ 0x4958
      || f.payloadLength.toNat ≠ f.payload.length || crc32c f.payload ≠ f.payloadCrc.toNat then none
  else
    match s.window? f.partition.toNat f.windowId.toNat with
    | none => none
    | some w =>
      if w.gen = f.windowGen.toNat && w.read == read && (s.alloc? w.partition w.handle).isSome
          && (s.net.sessions.any fun n => n.id = w.session && n.opened && n.peer.ip = f.src.ip) then some w
      else none

def Window.accepts (w : Window) (n len : Nat) : Bool :=
  decide (n < w.burstCount) && decide (n < w.creditLimit) && decide (len = w.burstBytes n)

/-- Bytes of a packet with IP and UDP headers, charged to the ETHERNET Damper (15 R474). -/
def flueCharge (a : IpAddr) (payload : Nat) : Nat := udpPacket a (16 + payload)

/-! ## Write windows (R111) -/

/-- Send an ACK: CUM_SEQ and CREDIT_LIMIT. -/
def State.sendAck (s : State) (q id : Nat) : State :=
  match s.window? q id with
  | none => s
  | some w =>
    let limit := min w.burstCount (w.cumSeq + 256)
    let s := s.modWindow q id fun w => { w with creditLimit := max w.creditLimit limit, sinceAck := 0, lastBurst := none }
    let dst := s.windowPeer w
    let s := s.modDamper q 3 fun d => d.charge (flueCharge dst.ip 8)
    s.emit (.udp 46211 dst (fluePacketBytes w 0x41 w.cumSeq (beBytes 4 limit ++ zeros 4)))

/-- CUM_SEQ after the bursts of a rising list have been written beyond it. -/
def catchUp : Nat → List Nat → Nat × List Nat
  | cum, [] => (cum, [])
  | cum, b :: bs => if b ≤ cum then catchUp (max cum (b + 1)) bs else (cum, b :: bs)

/-- Write a burst's bytes at their home slices, whole sectors clearing poison (07 R248). -/
def State.writeBurst (s : State) (w : Window) (base n : Nat) (payload : List Byte) : State :=
  (w.pieces n).foldl (fun s p =>
    let va := base + p.1
    let bs := (payload.drop p.2.1).take p.2.2
    let (s, t) := s.touchAll w.partition w.hint true (sectorsOf va bs.length)
    (s.writeHome w.partition va bs).damperCharge w.partition t) s

/-- A DATA burst of an open write window. -/
def State.flueData (s : State) (w : Window) (n : Nat) (payload : List Byte) : State :=
  if n < w.cumSeq then s.sendAck w.partition w.id
  else
    let base := ((s.alloc? w.partition w.handle).map (·.base)).getD 0
    let s := s.writeBurst w base n payload
    let (cum, beyond) := catchUp w.cumSeq (setAdd w.beyond n)
    let s := s.modWindow w.partition w.id fun w =>
      { w with cumSeq := cum, beyond := beyond, sinceAck := w.sinceAck + 1, lastBurst := some s.clock.steady }
    if 16 ≤ w.sinceAck + 1 then s.sendAck w.partition w.id else s

def execFlueData (f : FluePacket) (s : State) : Host.Outcome State Fault Refusal :=
  let s := (advance f.dt s).received f.src.ip (16 + f.payload.length)
  .next (match s.flueWindow f false with
    | none => s
    | some w =>
      if w.accepts f.burstSeq.toNat f.payload.length then
        (s.modDamper w.partition 3 fun d => d.charge (flueCharge f.src.ip f.payload.length)).flueData w f.burstSeq.toNat f.payload
      else s)

/-- FLUE_ACK_TIMER: 20 µs after the last burst received while a burst is unacknowledged (R111). -/
def execFlueAckTimer (e : Env) (partition window : Nat) (s : State) : Host.Outcome State Fault Refusal :=
  let s := advance e.dt s
  .next (if (s.window? partition window).any fun w =>
      !w.read && decide (0 < w.sinceAck) && w.lastBurst.any fun t => decide (t + 20000 ≤ s.clock.steady) then
    s.sendAck partition window else s)

/-! ## Read windows (R112) -/

/-- A CREDIT packet raises CREDIT_LIMIT, and RESEND_FROM sends bursts again. -/
def Window.credit (w : Window) (limit resend : Nat) : Window :=
  { w with creditLimit := max w.creditLimit limit, next := if resend = 0xFFFFFFFF then w.next else min w.next resend }

def execFlueCredit (f : FluePacket) (s : State) : Host.Outcome State Fault Refusal :=
  let s := (advance f.dt s).received f.src.ip (16 + f.payload.length)
  .next (match s.flueWindow f true with
    | none => s
    | some w =>
      let resend := f.burstSeq.toNat
      if f.payload.length = 8 && (resend = 0xFFFFFFFF || decide (resend < w.burstCount)) then
        (s.modDamper w.partition 3 fun d => d.charge (flueCharge f.src.ip 8)).modWindow w.partition w.id
          (·.credit (beAt f.payload 0 4) resend)
      else s)

/-- The sectors that a burst's bytes lie in. -/
def Window.burstSectors (w : Window) (base n : Nat) : List Nat :=
  ((w.pieces n).map fun p => sectorsOf (base + p.1) p.2.2).flatten.eraseDups

/-- A read window whose next burst may be sent: credit, the ETHERNET Damper, and no byte that a retraction could still
take back (R112, 14 R459). -/
def State.burstReady (s : State) (w : Window) : Bool :=
  let base := ((s.alloc? w.partition w.handle).map (·.base)).getD 0
  w.read && (s.alloc? w.partition w.handle).isSome && decide (w.next < min w.creditLimit w.burstCount)
    && s.damperAdmits w.partition 3 (flueCharge (s.windowPeer w).ip (w.burstBytes w.next))
    && (w.pieces w.next).all fun p => (s.provisionalIn w.partition (base + p.1) p.2.2).isEmpty

/-- Send the next burst of a window, read now; a burst that holds a poisoned byte is withheld (07 R249). -/
def State.sendBurst (s : State) (w : Window) : State :=
  let q := w.partition
  let n := w.next
  let base := ((s.alloc? q w.handle).map (·.base)).getD 0
  let step := fun s : State => s.modWindow q w.id fun w => { w with next := n + 1, sent := max w.sent (n + 1) }
  let (s, t) := s.touchAll q w.hint false (w.burstSectors base n)
  let s := s.damperMemory q t (.burst q w.id) false
  match (w.burstSectors base n).find? (s.sectorPoison View.home q ·) with
  | some va =>
    let k := s.stackOfVa q va
    step (s.raise 0x0501 q 0 (errorPayload 0 k 0xFFFF va w.handle))
  | none =>
    let payload := ((w.pieces n).map fun p => s.readMem View.home q (base + p.1) p.2.2).flatten
    let dst := s.windowPeer w
    let s := s.modDamper q 3 fun d => d.request
      { bytes := flueCharge dst.ip payload.length, unit := flueCharge dst.ip payload.length, urgent := false,
        waiter := .burst q w.id }
    (step s).emit (.udp 46211 dst (fluePacketBytes w 0x44 n payload))

/-- FLUE_READ_BURST: the transmitter takes the first window that may send, in the order they were opened (15 R480). -/
def execFlueReadBurst (e : Env) (s : State) : Host.Outcome State Fault Refusal :=
  let s := enter e s
  .next (match s.net.windows.find? s.burstReady with
    | none => s
    | some w => s.sendBurst w)

end Sys2Proof.Machine
end

