-- ==== Sys2Proof/Machine/Journals.lean ====
section
/-! DEFINITION. Journals: STEP_BEGIN, STEP_COMMIT and its publication, and STEP_ABORT (12 R393 to R400). -/

namespace Sys2Proof.Machine

def opStepBegin : Op := { code := 0x0701, scope := .partition, notify := false, deadline := false, minLen := 8 }
def opStepCommit : Op := { code := 0x0702, scope := .partition, notify := true, deadline := false, minLen := 16 }
def opStepAbort : Op := { code := 0x0703, scope := .partition, notify := false, deadline := false, minLen := 16 }

/-! ## STEP_BEGIN (R394) -/

def journalHandles (c : Ctx) : List Nat := (List.range (min (c.be 0 2) 64)).map fun i => c.be (8 + 8 * i) 8

/-- The allocation holds a template block of a watch entry (R386). -/
def State.holdsTemplate (s : State) (q h : Nat) : Bool :=
  (s.watchOf q).current.any fun e => e.valid && e.templateHandle = h

def stepBeginCheck (c : Ctx) (s : State) : Option Bad :=
  let hs := journalHandles c
  let as := hs.filterMap (s.alloc? c.part)
  firstBad [
    badIf (c.be 0 2 = 0 || decide (64 < c.be 0 2)) 7,
    badIf (decide (c.params.length < 8 + 8 * c.be 0 2)) 2,
    badIf (s.journal? c.part).isSome 15,
    badIf (decide (as.length < hs.length) || decide (hs.eraseDups.length < hs.length)) 5,
    badIf (as.any fun a => a.evictable || s.holdsTemplate c.part a.handle) 7 ]

/-- Granules of a tier that the journalled allocations hold. -/
def shadowNeed (c : Ctx) (s : State) (t : Tier) : Nat :=
  sumOf (fun a : Alloc => if a.tier = t then a.granules else 0) ((journalHandles c).filterMap (s.alloc? c.part))

/-- The shadow granules of a tier are placed as an allocation with TIER_STRICT would be (07 R229). -/
def shadowPlace (c : Ctx) (s : State) (t : Tier) : Placement :=
  if shadowNeed c s t = 0 then .granted t [] else s.place c.part t (shadowNeed c s t) true none

def stepBeginQuota (c : Ctx) (s : State) : Option Bad :=
  match shadowPlace c s .firebox, shadowPlace c s .woodshed with
  | .refused k, _ => some { status := 0x0103, cause := k }
  | _, .refused k => some { status := 0x0103, cause := k }
  | _, _ => none

def stepBeginBefore (c : Ctx) (s : State) : State :=
  match shadowPlace c s .woodshed with
  | .granted _ victims => victims.foldl State.reclaim s
  | .refused _ => s

def stepBeginEffect (c : Ctx) (s : State) : State × List Byte :=
  let h := s.mem.nextHandle
  let fb := shadowNeed c s .firebox
  let ws := shadowNeed c s .woodshed
  let j : Journal :=
    { handle := h, partition := c.part, allocs := journalHandles c, fbReserved := fb, wsReserved := ws, state := .opened,
      commitCmd := 0, cmds := [], ended := [], shadowed := [], shadow := [], shadowPoison := [], attempt := 0,
      attempts := 0, widened := 0, flagged := 0, events := 0, failed := 0, failedCause := 0, wideningClosed := false, retracted := false }
  ({ s with watch.journals := s.watch.journals ++ [j], mem.nextHandle := h + 1 },
   beBytes 8 h ++ beBytes 4 (fb + ws) ++ zeros 4)

def execStepBegin (p : Packet) (s : State) : Host.Outcome State Fault Refusal :=
  .next (replyOp opStepBegin stepBeginCheck stepBeginQuota stepBeginBefore stepBeginEffect p s)

/-! ## STEP_COMMIT (R398) -/

/-- What refuses STEP_COMMIT and STEP_ABORT: no such journal, or one already closed to them. -/
def journalBad (c : Ctx) (s : State) : Option Bad :=
  let j := s.watch.journals.find? fun j => j.handle = c.be 0 8 && j.partition = c.part
  firstBad [badIf j.isNone 5, badIf (j.any (·.state ≠ .opened)) 15]

def stepCommitStart (c : Ctx) (k : Cmd) (s : State) : State :=
  { s with cmds := s.cmds ++ [{ k with work := .stepCommit (c.be 0 8) }] }.modJournal (c.be 0 8) fun j =>
    { j with state := .committing, commitCmd := k.id }

def execStepCommit (p : Packet) (s : State) : Host.Outcome State Fault Refusal :=
  .next (notifyOp opStepCommit journalBad never bestEffort nothing stepCommitStart p s)

/-- Switch every shadowed granule to its shadow (R396). -/
def State.publish (s : State) (j : Journal) : State :=
  let cleared := j.shadowed.foldl (fun cs g => cellClear cs (g * granuleBytes) ((g + 1) * granuleBytes)) s.mem.cells
  { s with
    mem.cells := j.shadow.foldl (fun cs c => cellSet cs c.1 c.2) cleared
    mem.poison := setUnion (s.mem.poison.filter fun k => !j.shadowed.contains (k / granuleBytes)) j.shadowPoison }

/-- A SEQ_STEP payload without its result, for a step that failed (09 R314). -/
def dropResult (payload : List Byte) : List Byte := payload.take 34 ++ zeros 2 ++ (payload.drop 36).take 12

/-- The completion of one journalled command (R398). -/
def State.completeJournalled (s : State) (j : Journal) (id : Nat) : State :=
  match s.cmd? id with
  | none => s
  | some c =>
    let payload := ((j.ended.find? (·.cmd = id)).map (·.payload)).getD []
    let step := s.seqs.steps.find? (·.cmd = id)
    let status := if j.failed = 0 then c.endStatus 0 else j.failed
    let payload := if step.isSome && status ≠ 0 then dropResult payload else payload
    let s := s.complete id status j.failedCause payload
    match step with
    | some t => s.removeStep t
    | none => s

/-- The journal's COLL_POSTs are over; an operation still provisional goes on without the journal, with the STEP_COMMIT
among its consumers (14 R462). -/
def State.leaveJournal (s : State) (j : Journal) : State :=
  let s := s.dropPosts j fun o => o.phase = .released
  let commit : List Consumer := ((s.cmd? j.commitCmd).map fun c : Cmd =>
    { cmd := c.id, session := c.session, seq := c.seq, jobTag := c.jobTag, partition := c.partition : Consumer }).toList
  let out := fun o : CollOp => { o with journal := 0, consumers := o.consumers ++ commit }
  { s with zhevub.ops := mapIf (·.journal = j.handle) out s.zhevub.ops }

/-- STEP_COMMIT_PUBLISH: every journalled command has ended. -/
def State.stepPublish (s : State) (q : Nat) : State :=
  match s.journal? q with
  | none => s
  | some j =>
    if j.state = .committing && j.cmds.all fun c => j.ended.any (·.cmd = c) then
      let used := j.shadowed.length
      let s := if j.failed = 0 then (s.publish j).stepEnded q (1, j.handle) (1, j.handle, j.attempt) true else s
      let s := j.cmds.foldl (fun s c => s.completeJournalled j c) s
      let s := s.leaveJournal j
      let s := s.complete j.commitCmd 0 0 (beBytes 8 j.handle ++ beBytes 1 (j.attempt + 1) ++ beBytes 1 j.widened
        ++ beBytes 1 j.flagged ++ zeros 1 ++ beBytes 4 j.events ++ beBytes 4 used ++ zeros 4)
      { s with watch.journals := s.watch.journals.filter (·.handle ≠ j.handle) }
    else s

def execStepCommitPublish (e : Env) (partition : Nat) (s : State) : Host.Outcome State Fault Refusal :=
  .next ((advance e.dt s).stepPublish partition)

/-! ## STEP_ABORT (R399) -/

/-- Stop a journal's launches, discard its shadows, and complete its commands with a status (R399, 17 R538). -/
def State.abandonJournal (s : State) (j : Journal) (finish : State → Nat → State) : State :=
  let running := s.seqs.runs.filter fun r => r.started && s.runJournal r = j.handle
  let s := running.foldl State.haltRun s
  let s := if j.failed = 0 then s.failJournal j 0x0304 0 else s.modJournal j.handle Journal.discard
  let steps := s.seqs.steps.filter fun t => j.cmds.contains t.cmd
  let s := { s with
    seqs.runs := s.seqs.runs ++ (running.filter fun r : Run => !s.seqs.runs.any fun x => x.id = r.id)
    seqs.batches := s.seqs.batches.filter fun b => !b.members.any fun m => steps.any (·.id = m) }
  let s := s.stepEnded j.partition (1, j.handle) (1, j.handle, j.attempt) false
  let s := j.cmds.foldl finish s
  let s := { s with watch.journals := s.watch.journals.filter (·.handle ≠ j.handle) }
  steps.foldl (fun s t => s.removeStep t) s

def stepAbortBefore (c : Ctx) (s : State) : State :=
  match s.journalOf (c.be 0 8) with
  | none => s
  | some j =>
    s.abandonJournal j fun s id =>
      let payload := (((s.journalOf j.handle).bind fun j => j.ended.find? (·.cmd = id)).map (·.payload)).getD []
      s.complete id 0x0304 0 (if s.seqs.steps.any (·.cmd = id) then dropResult payload else payload)

def execStepAbort (p : Packet) (s : State) : Host.Outcome State Fault Refusal :=
  .next (replyOp opStepAbort journalBad never stepAbortBefore (fun _ s => (s, [])) p s)

end Sys2Proof.Machine
end

