-- ==== Sys2Proof/Machine/Codec.lean ====
section
/-! DEFINITION. The video codec engines: CODEC_OPEN, CODEC_PUSH, CODEC_CLOSE, and the end of a unit of work, with the
rules of rate control and of the ring. What the coding itself puts into a bitstream or a picture is open (16 R488 to
R512, log entry 26). -/

namespace Sys2Proof.Machine

/-! ## Sizes (R491, R496, R499) -/

def Codec.ctuCols (h : Codec) : Nat := ceilDiv h.width 64
/-- Rows of 64×64 blocks: the units of a frame. -/
def Codec.rows (h : Codec) : Nat := ceilDiv h.height 64
def Codec.ctus (h : Codec) : Nat := h.ctuCols * h.rows
def Codec.keyBytes (h : Codec) : Nat := 256 + 24 * h.ctus
def Codec.skipBytes (h : Codec) : Nat := 32 + ceilDiv h.ctus 8

/-- Bytes from a frame's base to its end (R496). -/
def frameBytesOf (layout luma chroma height : Nat) : Nat :=
  if layout = 2 then 3 * luma * height else luma * height + 2 * chroma * ceilDiv height 2

def Codec.frameSize (h : Codec) : Nat :=
  frameBytesOf h.planeLayout h.lumaPitch h.chromaPitch (if h.decode then h.height else h.srcHeight)

/-- Bits that arrive in one grid period. -/
def Codec.arrival (h : Codec) : Rat := (h.bitrate * h.grid.num : Nat) / (h.grid.den : Rat)
/-- The buffer's fullness at the first removal. -/
def Codec.initialFill (h : Codec) : Rat := ((h.initialDelay * h.bitrate : Nat) : Rat) / 1000000

/-! ## CODEC_OPEN (R495 to R499) -/

def opCodecOpen : Op := { code := 0x0600, scope := .partition, notify := false, deadline := false, minLen := 128 }

def State.codec? (s : State) (q h : Nat) : Option Codec := s.codec.handles.find? fun c => c.handle = h && c.partition = q
def State.codecOf (s : State) (h : Nat) : Option Codec := s.codec.handles.find? fun c => c.handle = h
def State.modCodec (s : State) (h : Nat) (f : Codec → Codec) : State :=
  { s with codec.handles := mapIf (·.handle = h) f s.codec.handles }
def State.engineAt (s : State) (e : Nat) : CodecEngine := s.codec.engines.getD e CodecEngine.reset
def State.modEngine (s : State) (e : Nat) (f : CodecEngine → CodecEngine) : State :=
  { s with codec.engines := s.codec.engines.set e (f (s.engineAt e)) }

def State.engineHandles (s : State) (e : Nat) : Nat := (s.codec.handles.filter (·.engine = e)).length

/-- The engine with the fewest handles, the lowest number on a tie. -/
def State.idlestEngine (s : State) : Nat :=
  ((sortBy (fun a b => decide (s.engineHandles a < s.engineHandles b)) (List.range s.fuses.variant.engines)).head?).getD 0

/-- The handle that the parameters describe. -/
def codecAt (c : Ctx) (s : State) : Codec :=
  { handle := s.mem.nextHandle, partition := c.part, engine := if c.be 2 1 = 0xFF then s.idlestEngine else c.be 2 1,
    hevc := decide (c.be 0 1 = 1), decode := decide (c.be 1 1 = 1), bitDepth := c.be 3 1, width := c.be 4 2,
    height := c.be 6 2, planeLayout := c.be 8 1, rotation := c.be 9 1, colour := c.be 10 1 % 8,
    vbr := decide (c.be 11 1 = 1), srcWidth := c.be 12 2, srcHeight := c.be 14 2, bitrate := c.be 16 4, cpbSize := c.be 20 4,
    initialDelay := c.be 24 4, maxFrameBytes := c.be 28 4, grid := gridOf (slice c.params 32 24), srcHandle := c.be 56 8,
    srcOffset := c.be 64 8, lumaPitch := c.be 72 4, chromaPitch := c.be 76 4, frameStride := c.be 80 8,
    dstHandle := c.be 88 8, dstOffset := c.be 96 8, ringSize := c.be 104 8, keyInterval := c.be 112 2,
    refFrames := c.be 114 1, requantRows := c.be 115 1, qMin := c.be 116 1, qMax := c.be 117 1, poolPictures := c.be 118 1,
    closing := 0, nextBoundary := none, written := 0, releasedTo := 0, reservedEnd := 0, hostPics := 0, dpb := 0, refs := [],
    toOutput := [], fullness := 0, keyCount := 0, keyPending := true, dropping := true }

/-- The ranges of R495 that both directions share. -/
def Codec.commonOk (h : Codec) (c : Ctx) (s : State) : Bool :=
  decide (c.be 0 1 < 2) && decide (c.be 1 1 < 2) && (c.be 2 1 = 0xFF || decide (c.be 2 1 < s.fuses.variant.engines))
    && (h.bitDepth = 8 || h.bitDepth = 10)
    && decide (16 ≤ h.width ∧ h.width ≤ 8192) && h.width % 2 = 0
    && decide (16 ≤ h.height ∧ h.height ≤ (if h.hevc then 4320 else 4352)) && h.height % 2 = 0
    && decide (h.planeLayout < (if h.decode then 2 else 3)) && decide (h.colour % 4 < 2)
    && (h.planeLayout ≠ 0 || h.bitDepth = 8) && (h.planeLayout ≠ 1 || h.bitDepth = 10)
    && h.srcOffset % 64 = 0 && h.dstOffset % 64 = 0 && h.lumaPitch % 64 = 0 && h.chromaPitch % 64 = 0

/-- A pitch holds a row, and FRAME_STRIDE a frame. -/
def Codec.pitchOk (h : Codec) : Bool :=
  let w := if h.decode then h.width else h.srcWidth
  let b := if h.planeLayout = 1 then 2 else 1
  decide (w * b ≤ h.lumaPitch) && (h.planeLayout = 2 || decide (ceilDiv w 2 * b ≤ h.chromaPitch))
    && decide (h.frameSize ≤ h.frameStride)

/-- The ratio of coded to rotated source size on each axis lies between 1/8 and 2 (R498). -/
def Codec.scaleOk (h : Codec) : Bool :=
  let (w, t) := if h.rotation % 2 = 1 then (h.srcHeight, h.srcWidth) else (h.srcWidth, h.srcHeight)
  decide (w ≤ 8 * h.width ∧ h.width ≤ 2 * w) && decide (t ≤ 8 * h.height ∧ h.height ≤ 2 * t)

/-- The constraints of R499. -/
def Codec.rateOk (h : Codec) : Bool :=
  decide (8 * h.maxFrameBytes ≤ h.cpbSize) && decide (h.initialDelay * h.bitrate ≤ h.cpbSize * 1000000)
    && decide (8 * h.keyBytes * 1000000 ≤ h.initialDelay * h.bitrate) && decide (h.keyBytes ≤ h.maxFrameBytes)
    && decide (8 * h.skipBytes * h.grid.den ≤ h.bitrate * h.grid.num)

def Codec.encodeOk (h : Codec) (c : Ctx) : Bool :=
  decide (h.rotation < 4) && decide (c.be 11 1 < 2) && decide (16 ≤ h.srcWidth ∧ h.srcWidth ≤ 8192)
    && decide (16 ≤ h.srcHeight ∧ h.srcHeight ≤ 8192) && decide (64000 ≤ h.bitrate)
    && decide (2 * h.maxFrameBytes ≤ h.ringSize) && decide (1 ≤ h.refFrames ∧ h.refFrames ≤ 3)
    && decide (h.requantRows ≤ 8) && decide (h.qMin ≤ h.qMax) && decide (h.qMax ≤ (if h.hevc then 51 else 255))
    && h.scaleOk && h.rateOk

def Codec.decodeOk (h : Codec) (c : Ctx) : Bool :=
  h.rotation = 0 && c.be 11 1 = 0 && h.srcWidth = h.width && h.srcHeight = h.height
    && decide (2 ≤ h.poolPictures ∧ h.poolPictures ≤ 32)

/-- The ring or the pool ends here, from DST_OFFSET. -/
def Codec.dstSize (h : Codec) : Nat :=
  if h.decode then (h.poolPictures - 1) * h.frameStride + h.frameSize else h.ringSize

/-- A grid of the partition has the identifier. -/
def State.gridInUse (s : State) (q id : Nat) : Bool :=
  (s.seqs.table.any fun r => r.partition = q && r.state ≠ .closed && r.grid.any (·.gridId = id))
    || s.codec.handles.any fun h => h.partition = q && h.grid.gridId = id

/-- The UNIT_MASK bit of a coding (R488). -/
def Codec.unitBit (h : Codec) : Nat := (if h.hevc then 11 else 9) + b2n h.decode

def codecOpenCheck (c : Ctx) (s : State) : Option Bad :=
  let h := codecAt c s
  let dst := s.alloc? c.part h.dstHandle
  firstBad [
    badIf ((s.alloc? c.part h.srcHandle).isNone || dst.isNone) 5,
    badIf (!h.commonOk c s || !h.pitchOk || !(if h.decode then h.decodeOk c else h.grid.den = 0 || h.encodeOk c)
      || s.gridInUse c.part h.grid.gridId) 7,
    badIf (dst.any fun a => decide (a.bytes < h.dstOffset + h.dstSize)) 6,
    badIf (!h.grid.ok) 11,
    badIf (decide (16 ≤ s.engineHandles h.engine)) 15,
    s.unitBad h.unitBit ]

def codecOpenEffect (c : Ctx) (s : State) : State × List Byte :=
  let h := codecAt c s
  let h := { h with grid := h.grid.open_ c.stamp }
  ({ s with codec.handles := s.codec.handles ++ [h], mem.nextHandle := s.mem.nextHandle + 1 },
   beBytes 8 h.handle ++ beBytes 1 h.engine ++ zeros 7)

def execCodecOpen (p : Packet) (s : State) : Host.Outcome State Fault Refusal :=
  .next (replyOp opCodecOpen codecOpenCheck never nothing codecOpenEffect p s)

/-! ## Pushes in line -/

def State.push? (s : State) (id : Nat) : Option Push := s.codec.pushes.find? fun u => u.id = id
def State.modPush (s : State) (id : Nat) (f : Push → Push) : State :=
  { s with codec.pushes := mapIf (·.id = id) f s.codec.pushes }

/-- The first push of each handle of an engine, with its handle. -/
def State.nextPushes (s : State) (e : Nat) : List (Push × Codec) :=
  (s.codec.handles.filter (·.engine = e)).filterMap fun h =>
    (s.codec.pushes.find? (·.handle = h.handle)).map fun u => (u, h)

def State.contractOf (s : State) (cmd : Nat) : Bool := (s.cmd? cmd).any (·.contract)

/-- Bytes that one unit moves: a row's share of the frame read and of what is written (log entry 26). -/
def Codec.unitBytes (h : Codec) (u : Push) : Nat :=
  let coded := if h.decode then (u.aus.getD u.frame (0, 0)).2 else h.maxFrameBytes
  ceilDiv (h.frameSize + coded) (max 1 h.rows)

/-- The unit may start: deadline work is never held; best effort waits for the CODEC Damper (R494). -/
def State.unitOpen (s : State) (u : Push) (h : Codec) : Bool := s.contractOf u.cmd || s.damperAdmits h.partition 4 (h.unitBytes u)

/-- An idle engine chooses its next unit (15 R480). -/
def State.chooseUnit (s : State) (e : Nat) : State :=
  if (s.engineAt e).unit ≠ 0 ∨ s.boot.pstate = .s2 ∨ s.boot.pstate = .s3 then s
  else
    let ready := (s.nextPushes e).filter fun x => s.unitOpen x.1 x.2
    match (sortBy (fun a b : Push × Codec => s.unitBefore a.1.cmd b.1.cmd) ready).head? with
    | none => s
    | some (u, h) =>
      let bytes := h.unitBytes u
      let s := s.modDamper h.partition 4 fun d =>
        if s.contractOf u.cmd then d.charge bytes
        else d.request { bytes := bytes, unit := bytes, urgent := false, waiter := .codec e }
      s.modEngine e fun x => { x with busy := true, unit := u.id }

/-! ## CODEC_PUSH (R492, R493, R503 to R506) -/

def opCodecPush : Op := { code := 0x0601, scope := .partition, notify := true, deadline := true, minLen := 48 }

def pushAus (c : Ctx) : List (Nat × Nat) := (List.range (min 32 (c.be 8 2))).map fun i => (c.be (48 + 16 * i) 8, c.be (56 + 16 * i) 4)
def pushRestart (c : Ctx) : Bool := (c.be 10 2).testBit 1

/-- push_bound of R492, in cycles. -/
def Codec.bound (h : Codec) (frames : Nat) (aus : List (Nat × Nat)) : Nat :=
  sumOf (fun i =>
    if h.decode then max (h.ctus * 8000) (4 * (aus.getD i (0, 0)).2 + 50 * h.ctus) + 64000
    else
      max (max (ceilDiv (h.srcWidth * h.srcHeight) 4) ((h.ctus + h.requantRows * h.ctuCols) * 4000))
        (8 * h.maxFrameBytes + 50 * h.ctus) + 64000) (List.range frames)

/-- Pool pictures that are neither with the host nor kept by the module. -/
def Codec.freePics (h : Codec) : List Nat :=
  (List.range h.poolPictures).filter fun j =>
    !h.hostPics.testBit j && !h.refs.contains j && !h.toOutput.any fun o => o.1 = j

/-- Ring bytes from the reserved end to what the host has read, with RELEASED as the push gives it. -/
def Codec.ringShort (h : Codec) (frames released : Nat) : Bool :=
  decide (h.ringSize < (max h.reservedEnd h.written - released) + (frames + 1) * h.maxFrameBytes)

/-- Pictures the host returns leave its hands. -/
def Codec.returned (h : Codec) (mask : Nat) : Codec :=
  { h with hostPics := maskOf ((bitsSet 32 h.hostPics).filter fun j => !mask.testBit j) }

def pushCheck (c : Ctx) (s : State) : Option Bad :=
  match s.codec? c.part (c.be 0 8) with
  | none => some (bad 5)
  | some h =>
    let n := c.be 8 2
    let aus := pushAus c
    let released := c.be 32 8
    let source := s.alloc? c.part h.srcHandle
    firstBad [
      badIf (h.decode && decide (c.params.length < 48 + 16 * n)) 2,
      badIf (n = 0 || decide (32 < n)
        || (h.decode && ((c.be 10 2).testBit 0 || pushRestart c
            || aus.any fun a => !source.any fun x => decide (a.1 + a.2 ≤ x.bytes)))
        || (!h.decode && (decide (released < h.releasedTo)
            || !source.any fun x => decide (h.srcOffset + (c.be 24 8 + n - 1) * h.frameStride + h.frameSize ≤ x.bytes)))
        || (h.nextBoundary.isNone && decide (h.grid.boundary (c.be 16 8) ≤ c.stamp))) 7,
      badIf (!pushRestart c && h.nextBoundary.any fun k => k ≠ c.be 16 8) 15,
      badIf (if h.decode then decide ((h.returned released).freePics.length < n + h.dpb)
        else h.ringShort n released) 15,
      badIf (h.closing ≠ 0) 15,
      badIf (c.cost.any fun k => k.cores ≠ 1 || decide (k.critCycles < h.bound n aus) || k.replays ≠ 0
        || k.linkBytes ≠ 0 || k.flameLoads ≠ 0) 10 ]

/-- No push of the engine has slot `n` reserved (R493). -/
def State.engineFree (s : State) (e n : Nat) : Bool :=
  !s.codec.pushes.any fun u =>
    ((s.codecOf u.handle).any fun h => h.engine = e) && (s.cmd? u.cmd).any fun c => c.reserved.slots.contains n

/-- Admission of a deadline push (R493). -/
def pushAdmission (c : Ctx) (s : State) : Admission :=
  match s.codec? c.part (c.be 0 8), c.cost with
  | some h, some k =>
    let need := max 1 (ceilDiv k.critCycles 10000)
    let fb := ceilDiv k.fireboxBytes need
    let ws := ceilDiv k.woodshedBytes need
    some (s.admitWith c.part c.p.deadline.toNat c.stamp 0 need k 0 fb ws 0
      fun n => s.engineFree h.engine n && s.slotFits c.part n 0 fb ws 0)
  | _, _ => none

def pushStart (c : Ctx) (k : Cmd) (s : State) : State :=
  match s.codec? c.part (c.be 0 8) with
  | none => s
  | some h =>
    let first := h.nextBoundary.isNone
    let n := c.be 8 2
    let u : Push :=
      { id := s.codec.nextId, cmd := k.id, handle := h.handle, frameCount := n,
        flags := if first then 2 else c.be 10 2 % 4, firstBoundary := c.be 16 8, firstFrame := c.be 24 8, aus := pushAus c,
        deadline := c.p.deadline.toNat, frame := 0, row := 0, kept := 0, coded := 0, requants := 0, done := [], poisoned := false }
    let s := s.modCodec h.handle fun h =>
      let h := { h with nextBoundary := some (c.be 16 8 + n) }
      if h.decode then h.returned (c.be 32 8)
      else { h with releasedTo := c.be 32 8, reservedEnd := max h.reservedEnd h.written + (n + 1) * h.maxFrameBytes }
    { s with cmds := s.cmds ++ [{ k with work := .codecPush u.id }], codec.pushes := s.codec.pushes ++ [u],
             codec.nextId := u.id + 1 }.chooseUnit h.engine

def execCodecPush (p : Packet) (s : State) : Host.Outcome State Fault Refusal :=
  .next (notifyOp opCodecPush pushCheck never pushAdmission nothing pushStart p s)

/-! ## CODEC_CLOSE (R509) -/

def opCodecClose : Op := { code := 0x0602, scope := .partition, notify := true, deadline := false, minLen := 16 }

/-- A handle whose close waits for no push any more goes, and its CODEC_CLOSE completes. -/
def State.settleCodec (s : State) (h : Nat) : State :=
  match s.codecOf h with
  | some x =>
    if x.closing ≠ 0 && !s.codec.pushes.any (·.handle = h) then
      { s with codec.handles := s.codec.handles.filter (·.handle ≠ h) }.complete x.closing 0 0 []
    else s
  | none => s

def codecCloseCheck (c : Ctx) (s : State) : Option Bad :=
  let h := s.codec? c.part (c.be 0 8)
  firstBad [badIf h.isNone 5, badIf (h.any fun h => h.closing ≠ 0) 15]

def codecCloseStart (c : Ctx) (k : Cmd) (s : State) : State :=
  let h := c.be 0 8
  let s := { s with cmds := s.cmds ++ [{ k with work := .codecClose h }] }
  (s.modCodec h fun h => { h with closing := k.id }).settleCodec h

def execCodecClose (p : Packet) (s : State) : Host.Outcome State Fault Refusal :=
  .next (notifyOp opCodecClose codecCloseCheck never bestEffort nothing codecCloseStart p s)

/-! ## Encoding (R499 to R502, R506) -/

/-- An open choice as a number. -/
def State.draw (s : State) : Nat × State := (Config.freeNat s.fresh, { s with fresh := s.fresh + 1 })

/-- Bytes whose values the coding decides. -/
def State.freeBytes (s : State) (n : Nat) : List Byte × State :=
  ((List.range n).map (Config.freeByte s.fresh), { s with fresh := s.fresh + 1 })

/-- Frame 0 of this push restarts the receiver's model. -/
def Push.restarts (u : Push) : Bool := u.frame = 0 && u.flags.testBit 1
/-- The frame in progress is to be a key frame. -/
def Push.wantsKey (u : Push) (h : Codec) : Bool :=
  (u.frame = 0 && u.flags % 4 ≠ 0) || h.keyPending || (h.keyInterval ≠ 0 && decide (h.keyInterval ≤ h.keyCount))

/-- Fullness at the frame's removal, and the allowance A in bits. -/
def Codec.fill (h : Codec) (u : Push) : Rat := if u.restarts then h.initialFill else h.fullness
def Codec.allowance (h : Codec) (u : Push) : Rat := min (8 * h.maxFrameBytes : Nat) (h.fill u)

/-- One row has been coded: re-coded once where R500 asks for it and allows it. Bits are open. -/
def State.codeRow (s : State) (u : Push) (h : Codec) : State × Push :=
  let (bits, s) := s.draw
  let past := decide (h.allowance u * ((u.row + 1 : Nat) : Rat) / ((max 1 h.rows : Nat) : Rat) < ((u.kept + bits : Nat) : Rat))
  let again := s.draw.1
  if past && decide (u.requants < h.requantRows) && decide (u.coded + bits + again ≤ 16 * h.maxFrameBytes) then
    let s := s.draw.2.modEngine h.engine fun e => { e with requantCount := satAdd 32 e.requantCount 1 }
    (s, { u with kept := u.kept + again, coded := u.coded + bits + again, requants := u.requants + 1, row := u.row + 1 })
  else (s, { u with kept := u.kept + bits, coded := u.coded + bits, row := u.row + 1 })

/-- Entropy coding stops: the bytes kept reach MAX_FRAME_BYTES, or those coded twice that (R500). -/
def Codec.stops (h : Codec) (u : Push) : Bool :=
  decide (8 * h.maxFrameBytes ≤ u.kept) || decide (16 * h.maxFrameBytes ≤ u.coded)

/-- What is emitted for a frame. -/
inductive Coded where
  | whole (key : Bool) (bytes : Nat)
  | skip (postponed : Bool) (bytes : Nat)
  deriving DecidableEq, Repr

/-- The frame that is emitted (R501): `spoiled` when its source is poisoned. The sizes within their bounds are open. -/
def State.emitFrame (s : State) (u : Push) (h : Codec) (key spoiled : Bool) : Coded × State :=
  let a := h.allowance u
  let fits := !h.stops u && decide ((u.kept : Rat) ≤ a)
  let (n, s) := s.draw
  if spoiled then (.skip key (n % h.skipBytes + 1), s)
  else if fits then (.whole key (ceilDiv u.kept 8), s)
  else if !key then (.skip false (n % h.skipBytes + 1), s)
  else if ((8 * h.keyBytes : Nat) : Rat) ≤ a then (.whole true (n % h.keyBytes + 1), s)
  else (.skip true (n % h.skipBytes + 1), s)

/-- Filler bytes after a frame of `bits` leaves a buffer of `fill` bits (R502). -/
def Codec.filler (h : Codec) (fill : Rat) (bits : Nat) : Nat :=
  let next := fill - (bits : Rat) + h.arrival
  if h.vbr || decide (next ≤ (h.cpbSize : Rat)) then 0
  else
    let extra := (next - (h.cpbSize : Rat)) / 8
    ceilDiv extra.num.toNat extra.den

/-- Where a frame starts in the ring's cumulative count (R506). -/
def Codec.ringStart (h : Codec) : Nat :=
  if h.ringSize < h.written % max 1 h.ringSize + h.maxFrameBytes then roundUp (h.written + 1) h.ringSize else h.written

/-- Write a frame's bytes to memory at an address, charged and counted at the engine's port. -/
def State.engineWrite (s : State) (h : Codec) (va : Nat) (bs : List Byte) : State :=
  let (s, t) := s.touchAll h.partition 0 true (sectorsOf va bs.length)
  let s := (s.writeRange View.home h.partition va bs false).damperCharge h.partition t
  s.portBytes (97 + h.engine) 0 bs.length

/-- What reading a range for a push finds: poison, provisional sectors (R459), traffic. -/
def State.engineRead (s : State) (h : Codec) (cmd va n : Nat) : State × Bool :=
  let poisoned := s.rangePoison View.home h.partition va n
  let used := s.provisionalIn h.partition va n
  let (s, t) := s.touchAll h.partition 0 false (sectorsOf va n)
  let s := (s.damperCharge h.partition t).portBytes (97 + h.engine) n 0
  let s := s.modCmd cmd fun c => { c with poisoned := c.poisoned || poisoned, hbmSet := setUnion c.hbmSet t.hbmSet }
  let s := match s.cmd? cmd with
    | some c => s.consume c used
    | none => s
  (s, poisoned)

/-- The base of a handle's source or destination allocation. -/
def State.baseOf (s : State) (q handle : Nat) : Nat := ((s.alloc? q handle).map (·.base)).getD 0

/-- A frame's coding has ended: it is emitted into the ring, and the receiver's model advances. -/
def State.endFrame (s : State) (u : Push) (h : Codec) : State × Push :=
  let va := s.baseOf h.partition h.srcHandle + h.srcOffset + (u.firstFrame + u.frame) * h.frameStride
  let (s, spoiled) := s.engineRead h u.cmd va h.frameSize
  let key := u.wantsKey h
  let (coded, s) := s.emitFrame u h key spoiled
  let (isKey, skip, postponed, bytes) : Bool × Bool × Bool × Nat := match coded with
    | .whole k n => (k, false, false, n)
    | .skip p n => (false, true, p, n)
  let fill := h.fill u
  let filler := h.filler fill (8 * bytes)
  let pos := h.ringStart
  let total := bytes + filler
  let (q, s) := s.draw
  let (content, s) := s.freeBytes total
  let s := s.engineWrite h (s.baseOf h.partition h.dstHandle + h.dstOffset + pos % max 1 h.ringSize) content
  let s := s.modEngine h.engine fun e => { e with
    framesEncoded := satAdd 32 e.framesEncoded 1, skipFrames := satAdd 32 e.skipFrames (b2n skip),
    fillerBytes := satAdd 32 e.fillerBytes filler }
  let next := fill - (8 * total : Nat) + h.arrival
  let s := s.modCodec h.handle fun h => { h with
    written := pos + total, fullness := min next h.cpbSize, keyPending := postponed, keyCount := if isKey then 1 else h.keyCount + 1 }
  let flags := b2n isKey + 2 * b2n (decide (u.requants ≠ 0)) + 4 * b2n skip + 8 * b2n (decide (filler ≠ 0)) + 16 * b2n spoiled
    + 32 * b2n postponed
  let entry := beBytes 8 pos ++ beBytes 4 total ++ beBytes 2 flags ++ beBytes 1 (h.qMin + q % (h.qMax - h.qMin + 1)) ++ zeros 1
  (s, { u with frame := u.frame + 1, row := 0, kept := 0, coded := 0, requants := 0, done := u.done ++ [entry] })

/-- A unit of an encode push ends. -/
def State.encodeUnit (s : State) (u : Push) (h : Codec) : State × Push :=
  let (s, u) := s.codeRow u h
  if h.rows ≤ u.row || h.stops u then s.endFrame u h else (s, u)

/-! ## Decoding (R507, R508) -/

/-- A decode entry: grid index, picture or 0xFF, flags, access unit. -/
def decodeEntry (boundary pic flags au : Nat) : List Byte := beBytes 8 boundary ++ beBytes 1 pic ++ beBytes 1 flags ++ beBytes 2 au ++ zeros 4

/-- Output some of the pictures that wait, in presentation order; how many is the stream's. -/
def State.outputPics (s : State) (h : Codec) (atLeast : Nat) : State × List (List Byte) :=
  let (n, s) := s.draw
  let sorted := sortBy (fun a b : Nat × Nat × Nat × Bool => decide (a.2.1 < b.2.1)) h.toOutput
  let k := max atLeast (n % (sorted.length + 1))
  let out := sorted.take k
  (s.modCodec h.handle fun h => { h with
      toOutput := sorted.drop k, hostPics := maskOf (setUnion (bitsSet 32 h.hostPics) (out.map Prod.fst)) },
   out.map fun o => decodeEntry o.2.1 o.1 (4 * b2n o.2.2.2) o.2.2.1)

/-- Decode an access unit into a pool picture. Whether it begins with a key frame, how large the stream's DPB is, which
references are kept and whether film grain is applied are the stream's, and open here. -/
def State.decodePicture (s : State) (u : Push) (h : Codec) (key : Bool) : State × List (List Byte) :=
  match h.freePics.head? with
  | none => (s, [decodeEntry (u.firstBoundary + u.frame) 0xFF 2 u.frame])
  | some pic =>
    let (n, s) := s.draw
    let grain := Config.freeBool s.fresh
    let (content, s) := s.freeBytes h.frameSize
    let s := s.engineWrite h (s.baseOf h.partition h.dstHandle + h.dstOffset + pic * h.frameStride) content
    let dpb := if key then n % min 17 h.poolPictures else h.dpb
    let h := { h with
      dropping := false, dpb := dpb, refs := ((if key then [] else h.refs) ++ [pic]).reverse.take dpb |>.reverse,
      toOutput := h.toOutput ++ [(pic, u.firstBoundary + u.frame, u.frame, grain)] }
    let s := (s.modCodec h.handle fun _ => h).modEngine h.engine fun e => { e with framesDecoded := satAdd 32 e.framesDecoded 1 }
    s.outputPics h 0

/-- An access unit has been decoded, has failed, or is discarded until a key frame (R505, R508). -/
def State.endAu (s : State) (u : Push) (h : Codec) : State × Push :=
  let (off, len) := u.aus.getD u.frame (0, 0)
  let (s, poisoned) := s.engineRead h u.cmd (s.baseOf h.partition h.srcHandle + off) len
  let broken := poisoned || Config.freeBool s.fresh
  let key := Config.freeBool (s.fresh + 1)
  let s := { s with fresh := s.fresh + 2 }
  let boundary := u.firstBoundary + u.frame
  let next := { u with frame := u.frame + 1, row := 0 }
  if h.dropping && !key then (s, { next with done := u.done ++ [decodeEntry boundary 0xFF 2 u.frame] })
  else if broken then
    let s := (s.modCodec h.handle fun h => { h with dropping := true }).modEngine h.engine fun e =>
      { e with decodeErrors := satAdd 32 e.decodeErrors 1 }
    (s, { next with done := u.done ++ [decodeEntry boundary 0xFF 1 u.frame] })
  else
    let (s, out) := s.decodePicture u h key
    (s, { next with done := u.done ++ out })

def State.decodeUnit (s : State) (u : Push) (h : Codec) : State × Push :=
  let u := { u with row := u.row + 1 }
  if h.rows ≤ u.row then s.endAu u h else (s, u)

/-! ## CODEC_UNIT_END (15 R480) -/

/-- The COMPLETION payload (R507). -/
def Push.payload (u : Push) : List Byte := beBytes 8 u.handle ++ beBytes 2 u.done.length ++ zeros 6 ++ u.done.flatten

/-- The last frame of a push has ended. -/
def State.endPush (s : State) (u : Push) : State :=
  let status := ((s.cmd? u.cmd).map fun c => c.endStatus 0).getD 0
  let s := { s with codec.pushes := s.codec.pushes.filter (·.id ≠ u.id) }
  let s := s.modCodec u.handle fun h => { h with reservedEnd := if s.codec.pushes.any (·.handle = u.handle) then h.reservedEnd else h.written }
  (s.complete u.cmd status 0 u.payload).settleCodec u.handle

/-- An engine finishes its unit, if it has one, and chooses the next. -/
def State.unitEnd (s : State) (e : Nat) : State :=
  let id := (s.engineAt e).unit
  let (fill, s) := s.draw
  let s := s.modEngine e fun x => { x with busy := false, unit := 0, syntaxFill := fill % 65537 }
  let s := match s.push? id with
    | none => s
    | some u =>
      match s.codecOf u.handle with
      | none => s
      | some h =>
        let (s, u) := if h.decode then s.decodeUnit u h else s.encodeUnit u h
        let s := s.modPush u.id fun _ => u
        if u.frameCount ≤ u.frame then s.endPush u else s
  s.chooseUnit e

def execCodecUnitEnd (e : Env) (engine : Nat) (s : State) : Host.Outcome State Fault Refusal :=
  let s := enter e s
  .next (if engine < s.fuses.variant.engines then s.unitEnd engine else s)

end Sys2Proof.Machine
end

