-- ==== Sys2Proof/Machine/Partitions.lean ====
section
/-! DEFINITION. Partitions and their Dampers: PART_CREATE and DAMPER_SET (15 R469 to R479). -/

namespace Sys2Proof.Machine

def opPartCreate : Op := { code := 0x0A00, scope := .module, notify := false, deadline := false, minLen := 72 }
def opDamperSet : Op := { code := 0x0A02, scope := .partition, notify := false, deadline := false, minLen := 48 }

/-! ## Damper entries (R475) -/

/-- RATE and BURST of class `k` in five entries that start at `off`. -/
def damperEntry (c : Ctx) (off k : Nat) : Nat × Nat := (c.be (off + 8 * k) 4, c.be (off + 8 * k + 4) 4)

/-- R475: RATE from 64 upward with BURST between RATE and 16 × RATE, or an unregulated class. -/
def entryOk (e : Nat × Nat) : Bool :=
  decide (e.1 = 0xFFFFFFFF) || (decide (64 ≤ e.1) && decide (e.1 ≤ e.2) && decide (e.2 ≤ 16 * e.1))

/-! ## PART_CREATE (R469, R470) -/

/-- A cluster has an enabled core behind it. -/
def State.clusterUp (s : State) (c : Nat) : Bool := s.enabledCores.any fun n => coreCluster n = c

/-- Fields of PART_CREATE that R470 answers with FIELD_RANGE. -/
def createFieldsBad (c : Ctx) (s : State) : Bool :=
  let mask := c.be 2 2
  decide (15 < c.be 0 1) || mask = 0
    || (bitsSet 16 mask).any (fun k => !s.clusterUp k || s.parts.any fun p => p.clusters.testBit k)
    || c.be 4 2 = 0 || decide (16384 < c.be 4 2) || decide (16384 < c.be 6 2) || decide (256 < c.be 8 2)
    || decide (c.be 20 4 < c.be 16 4) || decide (c.be 28 4 < c.be 24 4)
    || (List.range 5).any fun k => !entryOk (damperEntry c 32 k)

def partCreateCheck (c : Ctx) (s : State) : Option Bad :=
  firstBad [badIf (s.part? (c.be 0 1)).isSome 15, badIf (createFieldsBad c s) 7]

def partCreateQuota (c : Ctx) (s : State) : Option Bad :=
  firstBad [
    refuseIf (decide (16384 < sumOf (·.slotQuota) s.parts + c.be 4 2)) 0x0101 2,
    refuseIf (decide (16384 < sumOf (·.seqQuota) s.parts + c.be 6 2)) 0x0103 5,
    refuseIf (decide (s.tierGranules .firebox < sumOf (·.fbFloor) s.parts + c.be 16 4)
      || decide (s.tierGranules .woodshed < sumOf (·.wsFloor) s.parts + c.be 24 4)) 0x0103 3 ]

/-- A new Damper. The spec states no number of tokens at creation: it is free within the bucket (log entry 27). -/
def newDamper (n : Nat) (e : Nat × Nat) : Damper :=
  { rate := e.1, burst := e.2, tokens := (Config.freeNat n % (e.2 + 1) : Nat), waiting := [], waitUs := 0, waited := false }

def partCreateEffect (c : Ctx) (s : State) : State × List Byte :=
  let p : Partition :=
    { num := c.be 0 1, clusters := c.be 2 2, slotQuota := c.be 4 2, seqQuota := c.be 6 2, windowQuota := c.be 8 2,
      fbFloor := c.be 16 4, fbCeiling := c.be 20 4, wsFloor := c.be 24 4, wsCeiling := c.be 28 4,
      dampers := (List.range 5).map fun k => newDamper (s.fresh + k) (damperEntry c 32 k),
      destroying := 0, resetting := false, resetCmd := 0, ended := [] }
  ({ s with parts := s.parts ++ [p], fresh := s.fresh + 5 }, [])

def execPartCreate (p : Packet) (s : State) : Host.Outcome State Fault Refusal :=
  .next (replyOp opPartCreate partCreateCheck partCreateQuota nothing partCreateEffect p s)

/-! ## DAMPER_SET (R478, R479) -/

/-- Classes that SET_MASK selects. -/
def damperMask (c : Ctx) : List Nat := bitsSet 5 (c.be 0 1)

/-- What a partition has reserved of a class in slot `n` (02 R38). -/
def State.classReserved (s : State) (q k n : Nat) : Nat :=
  s.reservedIn (·.partition = q) (fun r => match k with | 0 => r.fb | 1 => r.ws | 2 => r.links | _ => 0) n

/-- Slots of the calendar in which a partition holds a reservation. -/
def State.partSlots (s : State) (q : Nat) : List Nat :=
  ((s.cmds.filter (·.partition = q)).map (·.reserved.slots)).flatten.eraseDups

/-- A new rate of class `k` gives less than the partition has reserved in some slot. -/
def State.rateShort (s : State) (q k rate : Nat) : Bool :=
  decide (k < 3) && decide (rate ≠ 0xFFFFFFFF) && (s.partSlots q).any fun n => decide (10 * rate < s.classReserved q k n)

def damperSetCheck (c : Ctx) (s : State) : Option Bad :=
  firstBad [
    badIf ((damperMask c).any fun k => !entryOk (damperEntry c 8 k)) 7,
    badIf ((damperMask c).any fun k => s.rateShort c.part k (damperEntry c 8 k).1) 15 ]

/-- A new entry keeps the current tokens, limited to the new BURST. -/
def Damper.setEntry (e : Nat × Nat) (d : Damper) : Damper :=
  { d with rate := e.1, burst := e.2, tokens := if e.1 = 0xFFFFFFFF then d.tokens else min d.tokens e.2 }

def damperSetEffect (c : Ctx) (s : State) : State × List Byte :=
  ((damperMask c).foldl (fun s k => s.modDamper c.part k (Damper.setEntry (damperEntry c 8 k))) s, [])

def execDamperSet (p : Packet) (s : State) : Host.Outcome State Fault Refusal :=
  .next (replyOp opDamperSet damperSetCheck never nothing damperSetEffect p s)

end Sys2Proof.Machine
end

