-- ==== Sys2Proof/Machine/Sessions.lean ====
section
/-! DEFINITION. Sessions: HELLO, CAPS, BYE, NOTIFY_ACK, the timers of sessions and rings, and what the Ethernet port
answers beside the three services (03 R62 to R64, R71 to R79, R91, R104, 20 R602). -/

namespace Sys2Proof.Machine

def opHello : Op := { code := 0x0000, scope := .module, notify := false, deadline := false, minLen := 24 }
def opCaps : Op := { code := 0x0001, scope := .module, notify := false, deadline := false, minLen := 0 }
def opBye : Op := { code := 0x0002, scope := .module, notify := false, deadline := false, minLen := 0 }
def opNotifyAck : Op := { code := 0x0003, scope := .module, notify := false, deadline := false, minLen := 4 }

/-! ## Ending a session -/

/-- Close the windows that satisfy `p` (R114). -/
def State.closeWindows (s : State) (p : Window → Bool) : State :=
  { s with net.windows := s.net.windows.filter fun w => !p w }

/-- The session ends: its ring is kept for a RESUME, and its windows close (R78, R114). -/
def State.endSession (s : State) (id : Nat) : State :=
  (s.modSession id fun n => { n with opened := false, endedAt := s.clock.steady }).closeWindows (·.session = id)

/-- The session ends and its ring is freed (R76, R91). -/
def State.dropSession (s : State) (id : Nat) : State :=
  { s.closeWindows (·.session = id) with net.sessions := s.net.sessions.filter (·.id ≠ id) }

/-- Completions that were to go to session `old` go to session `new` (R76). -/
def State.rehome (s : State) (old new : Nat) : State :=
  { s with cmds := mapIf (·.session = old) (fun c => { c with session := new }) s.cmds }

/-! ## HELLO (R72 to R77, R605) -/

/-- Versions compare by major, then by minor, so as their bytes (R73). The negotiated version, if there is one. -/
def negotiate (lo hi min_ max_ : Nat) : Option Nat :=
  let v := min hi max_
  if max lo min_ ≤ v then some v else none

/-- The session a RESUME names, while its ring is kept or it is open (R77, R78). -/
def State.resumable (s : State) (id : Nat) : Option Session := s.net.sessions.find? (·.id = id)

/-- The refusals of R77 for a HELLO with intact parameters, in their order. -/
def State.helloBad (s : State) (p : Packet) : Option Bad :=
  let resume := (beAt p.params 2 1).testBit 0
  let want := beAt p.params 16 8
  let named := s.resumable want
  firstBad [
    badIf (beAt p.params 4 2 = 0 || beAt p.params 4 2 = p.src.port.toNat || decide (2 ≤ beAt p.params 2 1)
      || beAt p.params 3 1 ≠ 0 || beAt p.params 12 4 ≠ 0 || decide (1024 ≤ beAt p.params 8 4)
      || (!resume && want ≠ 0)) 7,
    badIf (resume && named.isNone) 5,
    badIf (resume && named.any fun n => n.peer.ip ≠ p.src.ip) 5,
    badIf (resume && named.any fun n => n.opened && n.peer ≠ p.src) 15,
    s.activatingBad,
    refuseIf ((s.session? p.src).isNone && decide (32 ≤ (s.net.sessions.filter (·.opened)).length)) 0x0101 4 ]

def Ring.fresh (now : Nat) : Ring := { packets := [], nextSeq := 0, leftOut := 0, lastRetry := now }

/-- STREAM_SEQ of the first packet a session sends (R74, R76). -/
def Ring.startSeq (r : Ring) : Nat :=
  match r.packets with
  | [] => r.nextSeq
  | k :: _ => k.streamSeq

/-- Send every unacknowledged packet of an open session, oldest first (R76, R104). -/
def Session.resend (n : Session) : List Emission := n.ring.packets.map n.sendPacket

/-- Open the session of an accepted HELLO, which ends the one at its address and port and takes over the ring a RESUME
names; then stamp, record and send the reply (R74, R76, R605). -/
def State.openSession (s : State) (p : Packet) (version : Nat) : State :=
  let time := s.replyTime 200000
  let s := { s with fresh := s.fresh + 1 }
  let id := s.net.nextSession
  let resume := (beAt p.params 2 1).testBit 0
  let named := if resume then s.resumable (beAt p.params 16 8) else none
  let ring := (named.map (·.ring)).getD (Ring.fresh s.clock.steady)
  let s := match s.session? p.src with
    | some n => (s.rehome n.id id).dropSession n.id
    | none => s
  let s := match named with
    | some n => (s.rehome n.id id).dropSession n.id
    | none => s
  let (seq, s) := s.stamp
  let data := beBytes 1 version ++ beBytes 1 moduleMin ++ beBytes 1 moduleMax ++ zeros 1 ++ beBytes 4 s.boot.bootCount
    ++ beBytes 8 id ++ beBytes 8 seq ++ beBytes 4 ring.startSeq ++ zeros 4 ++ s.boot.caps
  let r : Reply := { seq := p.seq.toNat, status := 0, cause := 0, eventSeq := seq, mediaTime := time, data := data }
  let n : Session :=
    { peer := p.src, version := version, id := id, notifyPort := beAt p.params 4 2, partMask := beAt p.params 6 2,
      eventMask := beAt p.params 8 4, helloSeq := p.seq.toNat, first := true, high := p.seq.toNat, stored := [r],
      lastActive := s.clock.steady, opened := true, endedAt := 0, ring := { ring with lastRetry := s.clock.steady } }
  let s := { s with net.sessions := s.net.sessions ++ [n], net.nextSession := id + 1 }
  let s := s.sendReply p.src r
  s.emitAll n.resend

/-- What answers a HELLO that is not discarded (R77, R88, R605). -/
def State.hello (s : State) (p : Packet) : State :=
  match (s.session? p.src).bind fun n => if n.helloSeq = p.seq.toNat then n.stored.find? (·.seq = n.helloSeq) else none with
  | some r => { s.sendReply p.src r with net.duplicates := satAdd 32 s.net.duplicates 1 }
  | none =>
    let s := s.wake
    match negotiate (beAt p.params 0 1) (beAt p.params 1 1) moduleMin moduleMax with
    | none => s.refuse p none 200000 versionBad
    | some v =>
      if crc32c p.params ≠ p.paramCrc.toNat then s.refuse p none 200000 { status := 0x0204, cause := 0 }
      else match s.commonBad opHello p with
        | some b => s.refuse p none 200000 b
        | none =>
          match s.helloBad p with
          | some b => s.refuse p none 200000 b
          | none => s.openSession p v

/-- HELLO. -/
def execHello (p : Packet) (s : State) : Host.Outcome State Fault Refusal :=
  let s := landed p s
  .next (if !s.servesAddress p.dst && s.boot.mode = .ready then s
    else if s.discards p then { s with net.discards := satAdd 32 s.net.discards 1 }
    else s.hello p)

/-! ## CAPS, BYE, NOTIFY_ACK -/

/-- CAPS returns the capability block, fixed since READY (01 R11, R19). -/
def execCaps (p : Packet) (s : State) : Host.Outcome State Fault Refusal :=
  .next (replyOp opCaps never never nothing (fun _ s => (s, s.boot.caps)) p s)

/-- BYE ends the session at the stamp of its reply and frees its ring (R91). -/
def execBye (p : Packet) (s : State) : Host.Outcome State Fault Refusal :=
  .next (replyOp opBye never never nothing (fun c s => (s.dropSession c.session, [])) p s)

/-- `a` is at or before `b` in STREAM_SEQ order, modulo 2^32. -/
def streamCovers (a b : Nat) : Bool := decide ((b + 2 ^ 32 - a) % 2 ^ 32 < 2 ^ 31)

/-- The number of records held falls below 49,152 again: one EVENTS_LOST record, stamped now (R105). -/
def State.endBacklog (s : State) (id : Nat) : State :=
  match s.net.sessions.find? (·.id = id) with
  | none => s
  | some n =>
    if 0 < n.ring.leftOut && n.ring.held < 49152 then
      let (seq, s) := s.stamp
      let r : NRecord :=
        { kind := 4, partition := 255, code := 0, cause := 0, eventSeq := seq, mediaTime := s.clock.mt, cmdSeq := 0,
          jobTag := 0, payload := beBytes 8 n.ring.leftOut }
      (s.modSession id fun n => { n with ring := { n.ring with leftOut := 0 } }).deliver id r
    else s

/-- Acknowledge every packet up to and including a STREAM_SEQ (R104). -/
def State.acknowledge (s : State) (id upto : Nat) : State :=
  (s.modSession id fun n =>
    { n with ring := { n.ring with packets := n.ring.packets.filter fun k => !streamCovers k.streamSeq upto } }).endBacklog id

/-- NOTIFY_ACK (R104, R105). -/
def execNotifyAck (p : Packet) (s : State) : Host.Outcome State Fault Refusal :=
  .next (replyOp opNotifyAck never never nothing (fun c s => (s.acknowledge c.session (c.be 0 4), [])) p s)

/-- An opcode that the table does not hold (R90). -/
def execUnknownOpcode (p : Packet) (_opcode : W16) (s : State) : Host.Outcome State Fault Refusal :=
  .next (unknownOp p s)

/-! ## Timers -/

/-- Every NOTIFY_RETRY interval, the unacknowledged packets of an open session are sent again, oldest first and
unchanged (R104). -/
def State.notifyRetry (s : State) (id : Nat) : State :=
  match s.net.sessions.find? (·.id = id) with
  | none => s
  | some n =>
    if n.opened && decide (n.ring.lastRetry + s.set.notifyRetry * 100000 ≤ s.clock.steady) then
      let s := s.modSession id fun n => { n with ring := { n.ring with lastRetry := s.clock.steady } }
      s.emitAll n.resend
    else s

def execNotifyRetry (e : Env) (session : Nat) (s : State) : Host.Outcome State Fault Refusal :=
  .next ((advance e.dt s).notifyRetry session)

/-- A session with no command for SESSION_TIMEOUT seconds ends (R78). -/
def State.sessionTimeout (s : State) (id : Nat) : State :=
  match s.net.sessions.find? (·.id = id) with
  | none => s
  | some n =>
    if n.opened && decide (n.lastActive + s.set.sessionTimeout * 1000000000 ≤ s.clock.steady) then s.endSession id else s

def execSessionTimeout (e : Env) (session : Nat) (s : State) : Host.Outcome State Fault Refusal :=
  .next ((advance e.dt s).sessionTimeout session)

/-- 60 s after its session ended, a ring is freed (R78). -/
def State.ringExpiry (s : State) (id : Nat) : State :=
  match s.net.sessions.find? (·.id = id) with
  | none => s
  | some n =>
    if !n.opened && decide (n.endedAt + 60000000000 ≤ s.clock.steady) then s.dropSession id else s

def execRingExpiry (e : Env) (session : Nat) (s : State) : Host.Outcome State Fault Refusal :=
  .next ((advance e.dt s).ringExpiry session)

/-! ## What else arrives at the port -/

/-- A packet on a UDP port the module does not serve is discarded (R62). -/
def execOtherUdpPort (e : Env) (_port : W16) (s : State) : Host.Outcome State Fault Refusal :=
  .next (advance e.dt s)

/-- Every IP fragment is discarded (R63). -/
def execIpFragment (e : Env) (s : State) : Host.Outcome State Fault Refusal := .next (advance e.dt s)

/-- Every PAUSE frame is discarded (20 R602). -/
def execPauseFrame (e : Env) (s : State) : Host.Outcome State Fault Refusal := .next (advance e.dt s)

/-- An ARP request for IPV4_ADDR is answered, once the port answers at it (R64). -/
def execArpRequest (e : Env) (target sender : W32) (s : State) : Host.Outcome State Fault Refusal :=
  let s := advance e.dt s
  .next (if s.boot.mode = .ready && s.net.useV4 = some target.toNat then s.emit (.arpReply target sender) else s)

/-- The IPv6 addresses the port answers at: the link-local address always, the global one after READY (R64, 17 R513). -/
def State.servesV6 (s : State) (a : W128) : Bool :=
  s.portUp && (decide (a = linkLocal s.fuses.mac) || (s.boot.mode = .ready && s.net.useV6 = some a.toNat))

/-- Neighbour discovery is answered for the module's addresses (R64, 17 R513). -/
def execNeighbourDiscovery (e : Env) (target sender : W128) (s : State) : Host.Outcome State Fault Refusal :=
  let s := advance e.dt s
  .next (if s.servesV6 target then s.emit (.neighbourAdvert target sender) else s)

/-- ICMP and ICMPv6 echo are answered at the module's addresses; in boot mode only ICMPv6 echo (R62, 17 R513). -/
def execEchoRequest (e : Env) (dst src : IpAddr) (body : List Byte) (s : State) : Host.Outcome State Fault Refusal :=
  let s := advance e.dt s
  let serves : Bool := match dst with
    | .v4 a => s.boot.mode = .ready && s.net.useV4 = some a.toNat
    | .v6 a => s.servesV6 a
  .next (if serves then s.emit (.echoReply src dst body) else s)

end Sys2Proof.Machine
end

