-- ==== Sys2Proof/Machine/Resets.lean ====
section
/-! DEFINITION. Core, cluster and partition resets, PART_DESTROY and the stall watchdog (04 R140, 15 R473, R482 to R484, 17
R534 to R538). -/

namespace Sys2Proof.Machine

/-! ## Ending the work that a reset reaches (17 R537, R538) -/

/-- What the completion of a command that a reset ends carries: its payload with no results. -/
def State.endedPayload (s : State) (c : Cmd) : List Byte :=
  match c.work with
  | .launch r => ((s.run? r).map fun r => launchPayload r.image (s.runCycles r) 0xFFFF 0xFFFFFFFF).getD []
  | .seqStep t => ((s.step? t).map fun t => stepPayload t 0xFFFF 0xFFFF 0 0xFFFFFFFF []).getD []
  | .collPost _ => ((s.zhevub.posts.find? (·.cmd = c.id)).map fun p => postPayload p false 0xFFFF 0).getD []
  | .codecPush u => ((s.push? u).map Push.payload).getD []
  | _ => []

def State.endedPayloadOf (s : State) (id : Nat) : List Byte := ((s.cmd? id).map s.endedPayload).getD []

/-- A sequence whose step a reset ends takes new steps again. -/
def State.stepReset (s : State) (id : Nat) : State :=
  match s.seqs.steps.find? (·.cmd = id) with
  | some t =>
    (s.modSeq t.seq fun r => { r with state := if r.state = .running ∨ r.state = .banked then .ready else r.state }).removeStep t
  | none => s

/-- A reset ends a command that belongs to no journal. -/
def State.resetOne (s : State) (id : Nat) : State := (s.completeReset id false (s.endedPayloadOf id)).stepReset id

/-- A reset ends a journal: shadows go, and every journalled command and the STEP_COMMIT complete TAINTED (R538). -/
def State.resetJournal (s : State) (j : Journal) : State :=
  let finish := fun (s : State) (id : Nat) =>
    let kept := ((s.journalOf j.handle).bind fun j => j.ended.find? (·.cmd = id)).map (·.payload)
    let payload := kept.getD (s.endedPayloadOf id)
    s.completeReset id true (if s.seqs.steps.any (·.cmd = id) then dropResult payload else payload)
  (s.abandonJournal j finish).completeReset j.commitCmd true []

/-- End the work of runs: their journals, and their commands outside journals in order of acceptance. -/
def State.endRuns (s : State) (rs : List Run) : State :=
  let js := s.watch.journals.filter fun j => rs.any fun r => s.runJournal r = j.handle
  let free := fun id : Nat => (s.cmd? id).any (·.journal = 0)
  let cmds := sortBy (fun a b => decide (a < b)) (((rs.map s.runCmds).flatten).filter free)
  let batch := fun k : Batch => rs.any fun r => r.kind = .batch k.id
  let s := rs.foldl State.haltRun s
  let s := js.foldl State.resetJournal s
  let s := cmds.foldl State.resetOne s
  { s with seqs.batches := s.seqs.batches.filter fun k => !batch k }

/-! ## What a core loses (R536, R542) -/

/-- Macro-instructions of a core that end without effect: a flush's frames are free again, and requests that Dampers
hold for the core go (08 R280, 15 R482). -/
def State.absorb (s : State) (n : Nat) : State :=
  let commits := (s.coreAt n).unretired.filterMap (·.commit)
  let frames := (commits.map (·.pages)).flatten
  let mine := fun r : DamperReq => match r.waiter with | .core m _ => decide (m = n) | _ => false
  let drop := fun d : Damper => { d with waiting := d.waiting.filter fun r => !mine r }
  { s with
    kv := { s.kv with
      frames := mapIf (fun f => frames.contains f.num) (fun f => { f with state := .free, refcount := 0 }) s.kv.frames
      boughsUsed := s.kv.boughsUsed - sumOf (·.boughs) commits }
    parts := s.parts.map fun p => { p with dampers := p.dampers.map drop } }

/-- An output of a macro-instruction that has issued and not retired: a reset that absorbs it leaves open how much of it was
written (15 R482, 13 R429). -/
def CoreSt.issued (c : CoreSt) (o : Output) : Bool := c.unretired.any (·.opId = o.op)

/-- The outputs that a reset of a core cuts off are undefined. -/
def State.openIssued (s : State) (n : Nat) : State := s.openOutputs n (s.coreAt n).issued

/-- What a core keeps through a reset of kind C or K: its place, its event totals and its counters. -/
def CoreSt.kept (c : CoreSt) : CoreSt :=
  { CoreSt.reset with
    phys := c.phys, nextMessage := c.nextMessage, dropped := c.dropped, hobCorrected := c.hobCorrected,
    hobPoisoned := c.hobPoisoned, poisonSector := c.poisonSector, poisonValid := c.poisonValid,
    tableLoads := c.tableLoads, monoFails := c.monoFails, updates := c.updates, nonfiniteWeights := c.nonfiniteWeights,
    rootConverged := c.rootConverged, rootSkipped := c.rootSkipped, rootNotConverged := c.rootNotConverged,
    rootNonfinite := c.rootNonfinite, counters := c.counters, held := c.held, countdown := c.countdown,
    samples := c.samples }

/-- What a core keeps through a partition reset: the totals of its register block go as well (00 R9, 04 R159 to R161, 11
R380, 13 R427, R428), its counters stay (19 R580). -/
def CoreSt.keptP (c : CoreSt) : CoreSt :=
  { CoreSt.reset with
    phys := c.phys, nextMessage := c.nextMessage, counters := c.counters, held := c.held, countdown := c.countdown,
    samples := c.samples }

/-- A core loses what it was doing and what it held; the contents of its hob memory are undefined (R542, log entry
28). -/
def State.wipeCore (keep : CoreSt → CoreSt) (s : State) (n : Nat) : State :=
  let s := (s.absorb n).clearMailbox n
  let lo := hobKey n 0
  let s := { s with
    mem.hob := cellFill s.mem.hob lo hobTop (Config.freeByte s.fresh)
    mem.hobPoison := s.mem.hobPoison.filter fun k => decide (k < lo) || decide (lo + hobTop ≤ k)
    fresh := s.fresh + 1
    cores := s.cores.map fun c : CoreSt => { c with requests := c.requests.filter fun r => decide (r.sender ≠ n) } }
  s.modCore n keep

/-- Writes of cores in die write stages reach their home slices. -/
def State.drainCores (s : State) (ns : List Nat) : State :=
  (List.range 4).foldl (fun s d => s.drainStage d fun w => ns.contains w.core) s

/-- Runs that no core is part of any more, and that no command waits for, are gone. -/
def State.dropEmptyRuns (s : State) : State :=
  let live := fun r : Run => !r.started || r.cores.any fun n => (s.coreAt n).run = r.id
  { s with seqs.runs := s.seqs.runs.filter fun r => live r || (s.runCmds r).any fun c => (s.cmd? c).isSome }

/-- A reset of kind C or K of some cores. -/
def State.coreReset (s : State) (ns : List Nat) : State :=
  let rs := s.seqs.runs.filter fun r => r.started && r.cores.any fun n => ns.contains n && (s.coreAt n).run = r.id
  let s := (ns.foldl State.openIssued (s.drainCores ns)).endRuns rs
  ((ns.foldl (State.wipeCore CoreSt.kept) s).releaseAsh).dropEmptyRuns

/-! ## Partition reset (15 R482 to R484) -/

/-- A command that a partition reset ends: SEQ_CLOSE, CODEC_CLOSE and PART_DESTROY complete under their own rules. -/
def Cmd.resets (q : Nat) (c : Cmd) : Bool :=
  decide (c.partition = q) &&
    match c.work with
    | .seqClose _ | .codecClose _ | .partDestroy _ | .reset _ _ => false
    | _ => true

def Cmd.inJournal (c : Cmd) : Bool :=
  decide (c.journal ≠ 0) || (match c.work with | .stepCommit _ => true | _ => false)

/-- Whether an operation, and the frames that wait for one, are of a partition's groups. -/
def State.dropPartGroups (s : State) (q : Nat) : State :=
  let tags := (s.zhevub.groups.filter (·.partition = q)).map (·.tag)
  let s := s.unmark (·.partition = q)
  let s := { s with zhevub.ops := s.zhevub.ops.filter (·.partition ≠ q)
                    zhevub.posts := s.zhevub.posts.filter (·.partition ≠ q) }
  tags.foldl State.dropGroup s

/-- The start of a partition reset: issue stops, everything that R482 absorbs is gone, and the commands it ends wait for
their completions. -/
def State.beginPartReset (s : State) (q resetCmd : Nat) : State :=
  let ended := (s.cmds.filter (Cmd.resets q)).map fun c : Cmd =>
    ({ cmd := c.id, journalled := c.inJournal, payload := s.endedPayload c } : PartEnded)
  let s := s.modPart q fun p =>
    { p with resetting := true, resetCmd := resetCmd, ended := ended,
             dampers := p.dampers.map fun d => { d with waiting := [] } }
  let mine := s.seqs.runs.filter (·.partition = q)
  let s := mine.foldl State.haltRun s
  let s := (s.partCores q).foldl (fun s n => (s.absorb n).modCore n fun c =>
    { c with unretired := [], hold := .none, outputs := c.outputs.filter c.issued }) s
  let s := (s.closeWindows (·.partition = q)).dropPartGroups q
  let closing := fun h : Codec => decide (h.partition ≠ q) || decide (h.closing ≠ 0)
  let image := fun i : Image => decide (i.partition ≠ q) || i.loaded
  let mineSeq := fun r : Seq => r.partition = q && (r.state = .running || r.state = .banked)
  let hs := (s.codec.handles.filter (·.partition = q)).map (·.handle)
  { s with
    codec := { s.codec with pushes := s.codec.pushes.filter fun u => !hs.contains u.handle
                            handles := s.codec.handles.filter closing }
    watch.journals := s.watch.journals.filter (·.partition ≠ q)
    ctrs.freezes := s.ctrs.freezes.filter (·.partition ≠ q)
    mem.images := s.mem.images.filter image
    seqs := { s.seqs with
      runs := s.seqs.runs.filter (·.partition ≠ q), batches := s.seqs.batches.filter (·.partition ≠ q),
      table := mapIf mineSeq (fun r => { r with state := .ready }) s.seqs.table } }

/-- A write that the reset drains waits for a die at T4 (15 R484). -/
def State.drainHeld (s : State) (q : Nat) : Bool :=
  let ns := s.partCores q
  s.mem.dies.any fun d => d.stage.any fun w => ns.contains w.core && decide (s.dieLevel (s.homeDie w.partition w.va) = 4)

/-- The Dampers of a partition are full again (R483). -/
def Partition.refilled (p : Partition) : Partition :=
  { p with dampers := p.dampers.map fun d => { d with tokens := d.burst, waiting := [] },
           resetting := false, resetCmd := 0, ended := [] }

/-- PART_DESTROY after its partition reset: sequences close, images unload, allocations are freed, watch entries and
counters go; the completion is stamped last, and with it the partition is gone (R473). -/
def State.finishDestroy (s : State) (q cmd : Nat) : State :=
  let s := (s.seqs.table.filter fun r => r.partition = q && r.state ≠ .closed).foldl State.closeSeq s
  let s := ((s.mem.images.filter (·.partition = q)).map (·.handle)).foldl State.dropImage s
  let hs := (s.mem.allocs.filter (·.partition = q)).map (·.handle)
  let s := hs.foldl (fun s h => (s.freeAllocation q h).returnGranules h) s
  let s := (s.partCores q).foldl (fun s n => s.modCore n fun c =>
    { c with counters := List.replicate 16 Counter.reset, held := false, countdown := 0, samples := [] }) s
  let s := { s with watch.parts := s.watch.parts.filter (·.partition ≠ q)
                    ctrs.parts := s.ctrs.parts.filter (·.partition ≠ q)
                    codec.handles := s.codec.handles.filter (·.partition ≠ q) }
  let s := s.complete cmd 0 0 []
  { s with parts := s.parts.filter (·.num ≠ q) }

/-- Every drained activity has arrived: the reset completes (R483). -/
def State.endPartReset (s : State) (p : Partition) : State :=
  let q := p.num
  let s := s.drainCores (s.partCores q)
  let s := (s.partCores q).foldl (fun s n => s.openOutputs n fun _ => true) s
  let s := ((s.partCores q).foldl (State.wipeCore CoreSt.keptP) s).releaseAsh
  let s := s.modPart q Partition.refilled
  let s := p.ended.foldl (fun s e => s.completeReset e.cmd e.journalled e.payload) s
  let s := s.complete p.resetCmd 0 0 []
  let steps := s.seqs.steps.filter fun t => p.ended.any fun e => e.cmd = t.cmd
  let s := steps.foldl State.removeStep s
  let s := ((s.codec.handles.filter (·.partition = q)).map (·.handle)).foldl State.settleCodec s
  if p.destroying = 0 then s else s.finishDestroy q p.destroying

def State.partDrained (s : State) (q : Nat) : State :=
  match s.part? q with
  | some p => if p.resetting && !s.drainHeld q then s.endPartReset p else s
  | none => s

/-- PART_RESET_DRAINED. -/
def execPartResetDrained (e : Env) (partition : Nat) (s : State) : Host.Outcome State Fault Refusal :=
  .next ((advance e.dt s).partDrained partition)

/-! ## PART_DESTROY (R473) -/

def opPartDestroy : Op := { code := 0x0A01, scope := .module, notify := true, deadline := false, minLen := 8 }

def partDestroyCheck (c : Ctx) (s : State) : Option Bad := badIf (!s.partOpen (c.be 0 1)) 3

def partDestroyStart (c : Ctx) (k : Cmd) (s : State) : State :=
  let q := c.be 0 1
  let s := { s with cmds := s.cmds ++ [{ k with work := .partDestroy q }] }.modPart q fun p => { p with destroying := k.id }
  if (s.part? q).any (·.resetting) then s else s.beginPartReset q 0

def execPartDestroy (p : Packet) (s : State) : Host.Outcome State Fault Refusal :=
  .next (notifyOp opPartDestroy partDestroyCheck never bestEffort nothing partDestroyStart p s)

/-! ## RESET (17 R534, R535) -/

/-- RESET of kinds CORE, CLUSTER and PARTITION completes in a notification, RESET of WARM and POWER_ON in its reply. -/
def opResetPart : Op := { code := 0x0F02, scope := .either, notify := true, deadline := false, minLen := 8 }
def opResetModule : Op := { code := 0x0F02, scope := .either, notify := false, deadline := false, minLen := 8 }

/-- KIND, which stands first after any cost prefix. -/
def resetKind (p : Packet) : Nat := beAt (p.params.drop (prefixLen p)) 0 1

/-- The cores that a RESET of kind 0 to 2 reaches. -/
def State.resetCores (s : State) (q kind target : Nat) : List Nat :=
  match kind with
  | 0 => (s.partCores q).filter (· = target)
  | 1 => (s.partCores q).filter fun n => coreCluster n = target
  | _ => s.partCores q

/-- Another partition owns the target of a RESET of kind 0 or 1. -/
def State.ownedElsewhere (s : State) (q kind target : Nat) : Bool :=
  decide (kind < 2) && s.parts.any fun p =>
    decide (p.num ≠ q) && p.clusters.testBit (if kind = 0 then coreCluster target else target)

def resetPartCheck (c : Ctx) (s : State) : Option Bad :=
  let kind := c.be 0 1
  let target := c.be 2 2
  firstBad [
    badIf (c.part = 255 || s.ownedElsewhere c.part kind target) 4,
    badIf (kind = 2 && target ≠ 0) 7,
    badIf (decide (kind < 2) && (s.resetCores c.part kind target).isEmpty) 6 ]

def resetModuleCheck (c : Ctx) (_ : State) : Option Bad :=
  firstBad [badIf (decide (4 < c.be 0 1)) 7, badIf (c.part ≠ 255) 4, badIf (c.be 2 2 ≠ 0) 7]

def resetPartStart (c : Ctx) (k : Cmd) (s : State) : State :=
  let kind := c.be 0 1
  let target := c.be 2 2
  let s := { s with cmds := s.cmds ++ [{ k with work := .reset kind target }] }
  if kind = 2 then s.beginPartReset c.part k.id
  else (s.coreReset (s.resetCores c.part kind target)).complete k.id 0 0 []

/-- The completions of R54 and R537 before a warm reset, in order of acceptance. -/
def State.endAll (s : State) : State :=
  (s.cmds.map (·.id)).foldl (fun s id =>
    let j := (s.cmd? id).any Cmd.inJournal
    s.completeReset id j (s.endedPayloadOf id)) s

/-- Ask for a reset of the module: the first request that has not begun stands (R549). -/
def State.requestReset (s : State) (r : ResetReq) : State :=
  { s with boot.resetReq := match s.boot.resetReq, r with
      | none, r => some r
      | some .powerOn, _ => some .powerOn
      | some _, .powerOn => some .powerOn
      | some old, _ => some old }

/-- LAST_CAUSE of a RESET WARM: EXIT_FAILED when it ends a failed S3 exit (R541), or RESET_COMMAND. -/
def State.commandCause (s : State) : Nat := if s.boot.pstate = .exitFailed then 5 else 1

def resetModuleBefore (c : Ctx) (s : State) : State := if c.be 0 1 = 3 then s.endAll else s

def resetModuleEffect (c : Ctx) (s : State) : State × List Byte :=
  (s.requestReset (if c.be 0 1 = 3 then .warm s.commandCause 0 else .powerOn), [])

/-- A RESET packet, whatever its KIND. -/
def resetPacket (p : Packet) (s : State) : State :=
  if resetKind p < 3 then notifyOp opResetPart resetPartCheck never bestEffort nothing resetPartStart p s
  else replyOp opResetModule resetModuleCheck never resetModuleBefore resetModuleEffect p s

def execResetCore (p : Packet) (s : State) : Host.Outcome State Fault Refusal := .next (resetPacket p s)
def execResetCluster (p : Packet) (s : State) : Host.Outcome State Fault Refusal := .next (resetPacket p s)
def execResetPartition (p : Packet) (s : State) : Host.Outcome State Fault Refusal := .next (resetPacket p s)
def execResetWarm (p : Packet) (s : State) : Host.Outcome State Fault Refusal := .next (resetPacket p s)
def execResetPowerOn (p : Packet) (s : State) : Host.Outcome State Fault Refusal := .next (resetPacket p s)

/-! ## The stall watchdog (04 R140) -/

/-- A core of the run has been stalled for STALL_LIMIT. -/
def State.stalledOut (s : State) (r : Run) : Bool :=
  r.cores.any fun n =>
    (s.coreAt n).run = r.id
      && (s.coreAt n).stalledSince.any fun t => decide (t + s.set.stallLimit * 1000000 ≤ s.clock.steady)

/-- STALL_LIMIT: a core reset of every core of the launch; a partition reset in progress governs (17 R549). -/
def State.stallLimit (s : State) (id : Nat) : State :=
  match s.run? id with
  | some r =>
    if r.started && s.stalledOut r && !(s.part? r.partition).any (·.resetting) then
      s.coreReset (r.cores.filter fun n => (s.coreAt n).run = r.id)
    else s
  | none => s

def execStallLimit (e : Env) (run : Nat) (s : State) : Host.Outcome State Fault Refusal :=
  .next ((advance e.dt s).stallLimit run)

end Sys2Proof.Machine
end

