-- ==== Sys2Proof/Machine/Firmware.lean ====
section
/-! DEFINITION. Firmware slots and Ryqua: the flash records, the verification of images, FW_STAGE, relaying, arming and
activation, attestation, and the Heartwood store (18 R551 to R576). -/

namespace Sys2Proof.Machine

def ascii (t : String) : List Byte := t.toList.map fun c => BitVec.ofNat 8 c.toNat

/-! ## Flash records kept in two copies (R551, R552) -/

/-- The valid copy with the higher count. -/
def bestCopy {α : Type} (count : α → Nat) (valid : α → Bool) (cs : List α) : Option α :=
  (sortBy (fun a b => decide (count b < count a)) (cs.filter valid)).head?

/-- A write goes to the copy with the lower count, and raises its count above the other's. -/
def writeCopy {α : Type} (count : α → Nat) (make : Nat → α) (cs : List α) : List α :=
  match cs with
  | [a, b] => if count a ≤ count b then [make (count b + 1), b] else [a, make (count a + 1)]
  | _ => cs

def BootRecord.blank : BootRecord := { slots := [.empty, .empty], trial := none, trialBoots := 0 }

def State.bootRecord (s : State) : BootRecord :=
  ((bestCopy BootCopy.count BootCopy.valid s.flash.boot).map (·.record)).getD BootRecord.blank

def State.setBoot (s : State) (r : BootRecord) : State :=
  { s with flash.boot := writeCopy BootCopy.count (fun n => { count := n, valid := true, record := r }) s.flash.boot }

def State.slotState (s : State) (k : Nat) : SlotState := s.bootRecord.slots.getD k .empty

def State.setSlot (s : State) (k : Nat) (st : SlotState) : State :=
  s.setBoot { s.bootRecord with slots := s.bootRecord.slots.set k st }

def FwSlot.blank : FwSlot := { bytes := [], digest := [] }
def State.fwSlot (s : State) (k : Nat) : FwSlot := s.flash.slots.getD k FwSlot.blank
def State.setFwSlot (s : State) (k : Nat) (x : FwSlot) : State := { s with flash.slots := s.flash.slots.set k x }

/-- Erase a slot and mark it EMPTY. -/
def State.eraseSlot (s : State) (k : Nat) : State := (s.setFwSlot k FwSlot.blank).setSlot k .empty

/-- The slot that is not ACTIVE. -/
def State.spareSlot (s : State) : Nat := if s.slotState 0 = .active then 1 else 0

/-- Bytes in a slot count while it is not EMPTY. -/
def State.slotImage (s : State) (k : Nat) : List Byte := if s.slotState k = .empty then [] else (s.fwSlot k).bytes

/-! ## The image (R555, R556) -/

def fwVersion (b : List Byte) : Nat := leAt b 16 4
def fwSecurity (b : List Byte) : Nat := leAt b 12 1
def fwLength (b : List Byte) : Nat := leAt b 24 8
def fwAdvances (b : List Byte) : Bool := (leAt b 13 1).testBit 0
def fwFormat (b : List Byte) : Nat := leAt b 14 2
def fwSigner (b : List Byte) : List Byte := slice b 56 57
def fwRevokes (b : List Byte) : Nat := leAt b 113 1
/-- FW_DIGEST: the prehash of the signed message. -/
def fwDigest (b : List Byte) : List Byte := shake256 (b.take (b.length - 114)) 64

def Variant.bit : Variant → Nat
  | .ix8a => 0
  | .ix8s => 1
  | .ix4c => 2

/-! ## Verification (R557, R558) -/

/-- Check 1 of R558. -/
def fwShapeOk (b : List Byte) : Bool :=
  decide (leAt b 0 4 = 0x46575849) && decide (leAt b 4 2 = 1) && decide (leAt b 6 2 = 256)
    && decide (fwLength b = b.length) && decide (370 ≤ b.length) && decide (b.length ≤ 67108864)
    && decide (leAt b 32 4 + leAt b 36 4 ≤ b.length) && decide (leAt b 40 4 + leAt b 44 4 ≤ b.length)
    && decide (leAt b 8 4 < 8) && decide (leAt b 13 1 < 2) && decide (fwRevokes b < 16)
    && (slice b 114 142).all (· = 0)

/-- The key slot of the image's signer: present, not revoked, and holding the digest of its key. -/
def State.signerSlot (s : State) (b : List Byte) : Option Nat :=
  let d := shake256 (fwSigner b) 32
  s.fuses.keys.findIdx? fun k => k.present && !k.revoked && decide (k.digest = d)

/-- What R558 finds wrong with an image, as status and cause. -/
def State.fwBad (s : State) (b : List Byte) : Option (Nat × Nat) :=
  if !fwShapeOk b then some (0x0201, 7)
  else if !(leAt b 8 4).testBit s.fuses.variant.bit then some (0x0201, 12)
  else match s.signerSlot b with
    | none => some (0x0401, 2)
    | some k =>
      if !edVerify true (fwSigner b) (ascii "IX8-FW") (fwDigest b) (b.drop (b.length - 114)) then some (0x0401, 1)
      else if fwSecurity b < s.fuses.minSecurity then some (0x0401, 3)
      else if (fwRevokes b).testBit k then some (0x0201, 7)
      else none

/-- Verify a slot: it becomes STAGED, or BAD. -/
def State.verifySlot (s : State) (k : Nat) : State × Option (Nat × Nat) :=
  let b := (s.fwSlot k).bytes
  let bad := s.fwBad b
  let s := s.setFwSlot k { bytes := b, digest := fwDigest b }
  (s.setSlot k (if bad.isSome then .bad else .staged), bad)

/-- BUSY: a stage, or a relay sent or received (R553). -/
def State.fwBusy (s : State) : Bool := s.fw.stage.isSome || s.fw.relay.isSome

/-! ## FW_STAGE (R559 to R561) -/

def opFwStage : Op := { code := 0x0900, scope := .module, notify := true, deadline := false, minLen := 32 }

/-- TARGET_SLOT, with 0xFF naming the slot that is not ACTIVE. -/
def State.targetSlot (s : State) (t : Nat) : Nat := if t = 255 then s.spareSlot else t

def fwStageCheck (c : Ctx) (s : State) : Option Bad :=
  let a := s.alloc? (c.be 0 1) (c.be 8 8)
  let t := c.be 1 1
  firstBad [
    badIf (!s.partOpen (c.be 0 1)) 3,
    badIf a.isNone 5,
    badIf (a.any fun a => decide (a.bytes < c.be 16 8 + c.be 24 8)) 6,
    badIf (decide (c.be 24 8 < 370) || decide (67108864 < c.be 24 8) || c.be 16 8 % 64 ≠ 0 || (decide (1 < t) && t ≠ 255)) 7,
    badIf (s.slotState (s.targetSlot t) = .active || s.fwBusy || s.fw.armed.isSome) 15 ]

/-- The slot is erased and the image copied into it (log entry 29); the verification is FW_STAGE_VERIFY's. -/
def fwStageStart (c : Ctx) (k : Cmd) (s : State) : State :=
  let q := c.be 0 1
  match s.alloc? q (c.be 8 8) with
  | none => s
  | some a =>
    let slot := s.targetSlot (c.be 1 1)
    let va := a.base + c.be 16 8
    let n := c.be 24 8
    let (s, _) := s.touchAll q 0 false (sectorsOf va n)
    let bytes := s.readMem View.home q va n
    let poisoned := s.rangePoison View.home q va n
    let g : Stage := { cmd := k.id, slot := slot, length := n, srcPartition := q, srcHandle := a.handle, srcOffset := c.be 16 8 }
    let s := { s with cmds := s.cmds ++ [{ k with work := .fwStage, poisoned := poisoned }], fw.stage := some g }
    (s.eraseSlot slot).setFwSlot slot { bytes := bytes, digest := [] }

def execFwStage (p : Packet) (s : State) : Host.Outcome State Fault Refusal :=
  .next (notifyOp opFwStage fwStageCheck never bestEffort nothing fwStageStart p s)

/-- The 80 bytes of R561. -/
def State.stagePayload (s : State) (k : Nat) : List Byte :=
  let b := (s.fwSlot k).bytes
  beBytes 1 k ++ zeros 3 ++ beBytes 4 (fwVersion b) ++ beBytes 1 (fwSecurity b) ++ zeros 7 ++ fwDigest b

/-- FW_STAGE_VERIFY. -/
def State.stageVerify (s : State) : State :=
  match s.fw.stage with
  | none => s
  | some g =>
    let (s, bad) := s.verifySlot g.slot
    let s := { s with fw.stage := none }
    match bad with
    | some (status, cause) => s.complete g.cmd status cause []
    | none => s.complete g.cmd (((s.cmd? g.cmd).map fun c => c.endStatus 0).getD 0) 0 (s.stagePayload g.slot)

def execFwStageVerify (e : Env) (s : State) : Host.Outcome State Fault Refusal :=
  .next ((advance e.dt s).stageVerify)

/-! ## Relaying (R562 to R565) -/

def opFwRelay : Op := { code := 0x0901, scope := .module, notify := true, deadline := false, minLen := 8 }

def hopAt (b : List Byte) (i : Nat) : Hop :=
  { link := beAt b (16 * i) 1, target := beAt b (16 * i + 1) 1, expect := beAt b (16 * i + 8) 8 }
def Hop.bytes (h : Hop) : List Byte := beBytes 1 h.link ++ beBytes 1 h.target ++ zeros 6 ++ beBytes 8 h.expect
def Hop.ok (h : Hop) : Bool := decide (h.link < 64) && (decide (h.target < 2) || decide (h.target = 255))

def relayHops (c : Ctx) : List Hop := (List.range (min 32 (c.be 1 1))).map (hopAt (c.params.drop 8))

def fwRelayCheck (c : Ctx) (s : State) : Option Bad :=
  let st := s.slotState (c.be 0 1)
  firstBad [
    badIf (c.be 1 1 = 0 || decide (32 < c.be 1 1) || decide (1 < c.be 0 1)) 7,
    badIf (decide (c.params.length < 8 + 16 * c.be 1 1)) 2,
    badIf ((relayHops c).any fun h => !h.ok) 7,
    badIf (st = .empty || st = .bad || s.fwBusy || s.fw.armed.isSome) 15 ]

/-- A RELAY frame's payload (R563). -/
def relayPayload (kind hop id origin arg : Nat) (body : List Byte) : List Byte :=
  beBytes 1 kind ++ beBytes 1 hop ++ zeros 2 ++ beBytes 4 id ++ beBytes 8 origin ++ beBytes 8 arg ++ zeros 8 ++ body

def HopResult.bytes (r : HopResult) : List Byte :=
  beBytes 8 r.serial ++ beBytes 2 r.status ++ beBytes 2 r.cause ++ zeros 4

/-- Results of hops that sent none: NO_REPORT. Which of its causes a hop that was not attempted carries is open (log
entry 30). -/
def Relay.allResults (r : Relay) (n : Nat) : List HopResult :=
  (List.range r.results.length).map fun i =>
    (r.results.getD i none).getD
      { serial := ((r.hops[i]?).map (·.expect)).getD 0, status := 0xFFFF, cause := Config.freeNat (n + i) % 3 + 1 }

/-- HOPS_DONE, FAILED_HOP and the results (R565). -/
def Relay.payload (r : Relay) (n : Nat) : List Byte :=
  let done := (r.results.filter fun x => x.any (·.status = 0)).length
  let failed := (r.results.findIdx? fun x => x.any (·.status ≠ 0)).getD 255
  beBytes 1 done ++ beBytes 1 failed ++ zeros 6 ++ ((r.allResults n).map HopResult.bytes).flatten

/-- The FW_RELAY of module 0 is over. -/
def State.endRelay (s : State) (r : Relay) : State :=
  let n := s.fresh
  { s with fw.relay := none, fresh := s.fresh + r.results.length }.complete r.cmd 0 0 (r.payload n)

/-- The result of a hop is known here: module 0 keeps it, and any other module passes it back (R564). The hops of a
relay in State are those from this module's own onward. -/
def State.relayResult (s : State) (r : Relay) (hop : Nat) (x : HopResult) : State :=
  if r.inLink.isNone then
    let r := { r with results := r.results.set hop (some x), lastReport := s.clock.steady }
    if x.status ≠ 0 ∨ r.results.all (·.isSome) then s.endRelay r else { s with fw.relay := some r }
  else
    let s := s.sendPeer (r.inLink.getD 0) kindRelay (relayPayload 2 hop r.id r.origin 0 x.bytes)
    if x.status ≠ 0 ∨ r.hop + r.hops.length ≤ hop + 1 then { s with fw.relay := none }
    else { s with fw.relay := some { r with lastReport := s.clock.steady } }

/-- Send the image of a slot over the next hop, if its link is UP to the module expected. -/
def State.relaySend (s : State) (r : Relay) : State :=
  match r.hops.head? with
  | none => s
  | some h =>
    let fail := fun cause : Nat => ({ serial := h.expect, status := 0xFFFF, cause := cause } : HopResult)
    if !s.linkUp h.link then s.relayResult r r.hop (fail 1)
    else if (s.linkAt h.link).peerSerial ≠ h.expect then s.relayResult r r.hop (fail 2)
    else
      let image := (s.fwSlot r.slot).bytes
      let s := s.sendPeer h.link kindRelay
        (relayPayload 0 r.hop r.id r.origin image.length ((r.hops.map Hop.bytes).flatten))
      (List.range (ceilDiv image.length 4064)).foldl (fun s i =>
        s.sendPeer h.link kindRelay
          (relayPayload 1 r.hop r.id r.origin (4064 * i) ((image.drop (4064 * i)).take 4064))) s

def fwRelayStart (c : Ctx) (k : Cmd) (s : State) : State :=
  let hops := relayHops c
  let r : Relay :=
    { cmd := k.id, id := k.seq, origin := s.fuses.serial, hop := 0, hops := hops, results := hops.map fun _ => none,
      inLink := none, lastReport := s.clock.steady, received := 0, length := 0, slot := c.be 0 1 }
  { s with cmds := s.cmds ++ [{ k with work := .fwRelay }], fw.relay := some r }.relaySend r

def execFwRelay (p : Packet) (s : State) : Host.Outcome State Fault Refusal :=
  .next (notifyOp opFwRelay fwRelayCheck never bestEffort nothing fwRelayStart p s)

/-- RELAY_TIMEOUT: no report for 300 s. A module in the middle of the chain gives up passing reports (log entry 31). -/
def State.relayTimeout (s : State) : State :=
  match s.fw.relay with
  | none => s
  | some r =>
    if s.clock.steady < r.lastReport + 300 * 10 ^ 9 then s
    else if r.inLink.isSome then { s with fw.relay := none }
    else
      let late := fun i : Nat =>
        (r.results.getD i none).getD { serial := ((r.hops[i]?).map (·.expect)).getD 0, status := 0xFFFF, cause := 3 }
      s.endRelay { r with results := (List.range r.results.length).map fun i => some (late i) }

def execRelayTimeout (e : Env) (s : State) : Host.Outcome State Fault Refusal :=
  .next ((advance e.dt s).relayTimeout)

/-- What refuses a relay at its receiver: R560 for its own slot and flags. -/
def State.relayBad (s : State) (target length : Nat) : Option Nat :=
  if (1 < target ∧ target ≠ 255) ∨ length < 370 ∨ 67108864 < length then some 7
  else if s.slotState (s.targetSlot target) = .active ∨ s.fwBusy ∨ s.fw.armed.isSome then some 15
  else none

/-- A ROUTE frame: the relay is refused, or taken in. -/
def State.relayRoute (f : Frame) (s : State) : State :=
  let p := f.payload
  let hop := beAt p 1 1
  let entries := (List.range ((p.length - 32) / 16)).map (hopAt (p.drop 32))
  let length := beAt p 16 8
  let target := ((entries.head?).map (·.target)).getD 0
  let id := beAt p 4 4
  let origin := beAt p 8 8
  match s.relayBad target length with
  | some cause =>
    let x : HopResult := { serial := s.fuses.serial, status := 0x0201, cause := cause }
    s.sendPeer f.link kindRelay (relayPayload 2 hop id origin 0 x.bytes)
  | none =>
    let slot := s.targetSlot target
    let r : Relay :=
      { cmd := 0, id := id, origin := origin, hop := hop + 1, hops := entries.drop 1, results := [],
        inLink := some f.link, lastReport := s.clock.steady, received := 0, length := length, slot := slot }
    { s.eraseSlot slot with fw.relay := some r }

/-- The relay that a frame belongs to, if this module is in it. -/
def State.relayOf (s : State) (p : List Byte) : Option Relay :=
  s.fw.relay.bind fun r => if r.id = beAt p 4 4 ∧ r.origin = beAt p 8 8 then some r else none

/-- A DATA frame: its bytes go into the slot, and with the last one the slot is verified, reported, and sent on. -/
def State.relayData (f : Frame) (s : State) : State :=
  let p := f.payload
  match s.relayOf p with
  | none => s
  | some r =>
    if r.inLink ≠ some f.link ∨ beAt p 1 1 + 1 ≠ r.hop ∨ beAt p 16 8 ≠ r.received ∨ r.length ≤ r.received then s
    else
      let body := (p.drop 32).take (r.length - r.received)
      let r := { r with received := r.received + body.length }
      let s := s.setFwSlot r.slot { bytes := (s.fwSlot r.slot).bytes ++ body, digest := [] }
      let s := { s with fw.relay := some r }
      if r.received < r.length then s
      else
        let (s, bad) := s.verifySlot r.slot
        let (status, cause) := bad.getD (0, 0)
        let x : HopResult := { serial := s.fuses.serial, status := status, cause := cause }
        let s := s.sendPeer f.link kindRelay (relayPayload 2 (r.hop - 1) r.id r.origin 0 x.bytes)
        if bad.isSome ∨ r.hops.isEmpty then { s with fw.relay := none } else s.relaySend r

/-- A REPORT frame, on its way back toward module 0. -/
def State.relayReport (f : Frame) (s : State) : State :=
  let p := f.payload
  match s.relayOf p with
  | none => s
  | some r =>
    if (r.hops.head?).any fun h => h.link = f.link then
      s.relayResult r (beAt p 1 1) { serial := beAt p 32 8, status := beAt p 40 2, cause := beAt p 42 2 }
    else s

def execRelayRoute (e : Env) (f : Frame) (s : State) : Host.Outcome State Fault Refusal :=
  .next ((advance e.dt s).frameIn f kindRelay (State.relayRoute f))
def execRelayData (e : Env) (f : Frame) (s : State) : Host.Outcome State Fault Refusal :=
  .next ((advance e.dt s).frameIn f kindRelay (State.relayData f))
def execRelayReport (e : Env) (f : Frame) (s : State) : Host.Outcome State Fault Refusal :=
  .next ((advance e.dt s).frameIn f kindRelay (State.relayReport f))

/-! ## Arming and activation (R566 to R568, 02 R58 to R61) -/

def opFwArm : Op := { code := 0x0902, scope := .module, notify := false, deadline := false, minLen := 32 }
def opFwDisarm : Op := { code := 0x0903, scope := .module, notify := false, deadline := false, minLen := 8 }

def fwArmCheck (c : Ctx) (s : State) : Option Bad :=
  let k := c.be 0 1
  let at_ := c.be 8 8
  let x := s.fwSlot k
  firstBad [
    badIf (decide (1 < k) || decide (at_ < c.receipt + 100000000) || decide (c.receipt + 86400 * 10 ^ 9 < at_)
      || decide (slice c.params 16 16 ≠ slice x.digest 0 16)) 7,
    badIf (s.slotState k ≠ .staged || s.fw.armed.isSome || s.fwBusy) 15,
    refuseIf (decide (fwSecurity x.bytes < s.fuses.minSecurity)) 0x0401 3,
    refuseIf (s.cmds.any fun d => d.contract && decide (at_ ≤ d.deadline)) 0x0102 8 ]

/-- The 24 bytes of R567. -/
def State.armPayload (s : State) (k at_ : Nat) : List Byte :=
  beBytes 1 k ++ zeros 7 ++ beBytes 8 at_ ++ beBytes 4 (fwVersion (s.slotImage k)) ++ zeros 4

def fwArmEffect (c : Ctx) (s : State) : State × List Byte :=
  let s := { s with fw.armed := some (c.be 0 1, c.be 8 8) }
  (s.raise 0x0901 255 0 (s.armPayload (c.be 0 1) (c.be 8 8)), [])

def execFwArm (p : Packet) (s : State) : Host.Outcome State Fault Refusal :=
  .next (replyOp opFwArm fwArmCheck never nothing fwArmEffect p s)

def fwDisarmEffect (_ : Ctx) (s : State) : State × List Byte :=
  match s.fw.armed with
  | some (k, at_) => ({ s with fw.armed := none }.raise 0x0901 255 1 (s.armPayload k at_), [])
  | none => (s, [])

def execFwDisarm (p : Packet) (s : State) : Host.Outcome State Fault Refusal :=
  .next (replyOp opFwDisarm (fun _ s => badIf s.fw.armed.isNone 15) never nothing fwDisarmEffect p s)

/-- The completion of one command at an activation (02 R54, R60). -/
def State.endAtActivation (s : State) (id : Nat) : State :=
  match s.cmd? id with
  | none => s
  | some c => if c.contract then s.completeReset id false (s.endedPayload c) else s.complete id 0x0104 0 (s.endedPayload c)

/-- FW_ACTIVATING: media time has reached ACTIVATION_MT (R568). -/
def State.activate (s : State) : State :=
  match s.fw.armed with
  | none => s
  | some (k, at_) =>
    if s.clock.mt < at_ ∨ s.boot.resetReq.isSome then s
    else
      let s := s.raise 0x0902 255 0 (s.armPayload k at_)
      let s := (s.cmds.map (·.id)).foldl State.endAtActivation s
      let s := s.setBoot { s.bootRecord with trial := some k, trialBoots := 0 }
      s.requestReset (.warm 2 0)

def execFwActivating (e : Env) (s : State) : Host.Outcome State Fault Refusal :=
  .next ((advance e.dt s).activate)

/-! ## Attestation (R574 to R576) -/

def opAttest : Op := { code := 0x0904, scope := .module, notify := true, deadline := false, minLen := 40 }

def attestCheck (c : Ctx) (s : State) : Option Bad := badIf ((c.be 32 2).testBit 0 && decide (s.set.mtu < 2000)) 7

def attestStart (c : Ctx) (k : Cmd) (s : State) : State :=
  { s with cmds := s.cmds ++ [{ k with work := .attest (slice c.params 0 32) (c.be 32 2) }]
           fw.attests := s.fw.attests ++ [k.id] }

def execAttest (p : Packet) (s : State) : Host.Outcome State Fault Refusal :=
  .next (notifyOp opAttest attestCheck never bestEffort nothing attestStart p s)

/-- The identity secret key, which never leaves Ryqua. -/
def Fuses.identitySecret (f : Fuses) : List Byte := shake256 (f.secret ++ ascii "IX8-IDENTITY-1") 57
def Fuses.identityKey (f : Fuses) : List Byte := edPublic f.identitySecret

/-- KEY_STATUS (R557). -/
def Fuses.keyStatus (f : Fuses) : Nat :=
  sumOf (fun k => let x := f.keys.getD k KeySlot.reset; b2n x.present * 2 ^ k + b2n x.revoked * 2 ^ (4 + k)) (List.range 4)

def keyDigest (k : KeySlot) : List Byte := slice k.digest 0 32

/-- FUSE_BAD_LO and FUSE_BAD_HI of a die, as one 64-bit number (17 R524). -/
def State.fuseBad (s : State) (d : Nat) : Nat :=
  s.boot.fuseMarks.getD d 0 + b2n (s.boot.fuseCrcBad.getD d false) * 2 ^ 40

/-- What measurement M3 covers. -/
def State.fuseMeasured (s : State) : List Byte :=
  leBytes 8 s.fuses.serial ++ leBytes 4 s.fuses.keyStatus ++ (s.fuses.keys.map keyDigest).flatten
    ++ leBytes 4 s.fuses.minSecurity ++ ((List.range s.dieCount).map fun d => leBytes 8 (s.fuseBad d)).flatten

/-- A slot's digest as the quote measures it: zero when EMPTY or BAD. -/
def State.measured (s : State) (k : Nat) : List Byte :=
  if s.slotState k = .empty ∨ s.slotState k = .bad then zeros 64 else slice (s.fwSlot k).digest 0 64

/-- Bytes 0 to 455 of a quote. M2 covers the bytes of Heartwood, whose layout the spec does not give: it is free (log
entry 32). -/
def State.quoteBody (s : State) (nonce : List Byte) (seq : Nat) : List Byte :=
  let a := s.fw.activeSlot
  beBytes 2 1 ++ beBytes 2 570 ++ beBytes 1 s.fuses.minSecurity ++ beBytes 1 a
    ++ beBytes 2 (b2n s.fw.defaulted + 2 * b2n s.fw.fellBack + 4 * b2n s.fw.armed.isSome)
    ++ beBytes 8 s.fuses.serial ++ beBytes 4 s.boot.bootCount ++ beBytes 4 (fwVersion (s.slotImage a))
    ++ beBytes 8 seq ++ beBytes 8 s.clock.mt ++ nonce ++ slice (s.fwSlot a).digest 0 64 ++ s.measured (1 - a)
    ++ (List.range 64).map (Config.freeByte s.fresh) ++ shake256 s.fuseMeasured 64 ++ shake256 s.boot.caps 64
    ++ s.fuses.identityKey ++ zeros 7

/-- ATTEST_QUOTE: Ryqua has signed the quote of the oldest ATTEST. -/
def State.quote (s : State) : State :=
  match s.fw.attests with
  | [] => s
  | id :: rest =>
    let s := { s with fw.attests := rest }
    match (s.cmd? id).map fun c : Cmd => c.work with
    | some (Work.attest nonce flags) =>
      let body := s.quoteBody nonce (s.net.eventSeq + 1)
      let cert := if flags.testBit 0 then beBytes 2 s.fuses.certificate.length ++ zeros 2 ++ s.fuses.certificate else []
      { s with fresh := s.fresh + 1 }.complete id 0 0
        (body ++ edSign s.fuses.identitySecret (ascii "IX8-QUOTE") body ++ cert)
    | _ => s

def execAttestQuote (e : Env) (s : State) : Host.Outcome State Fault Refusal := .next ((advance e.dt s).quote)

/-! ## Heartwood (R571) -/

/-- The Heartwood copy in use, or the shipped defaults when neither is valid. -/
def State.heartwood (s : State) : HeartwoodCopy :=
  (bestCopy HeartwoodCopy.count HeartwoodCopy.valid s.flash.heartwood).getD
    { count := 0, valid := true, settings := Settings.shipped, bootCount := 0, format := 0 }

/-- One write of the values in force. -/
def State.storeHeartwood (s : State) : State :=
  let make := fun n : Nat =>
    ({ count := n, valid := true, settings := s.set, bootCount := s.boot.bootCount, format := s.boot.format } : HeartwoodCopy)
  { s with flash.heartwood := writeCopy HeartwoodCopy.count make s.flash.heartwood, fw.storeDue := false }

/-- HEARTWOOD_STORE. -/
def execHeartwoodStore (e : Env) (s : State) : Host.Outcome State Fault Refusal :=
  let s := advance e.dt s
  .next (if s.fw.storeDue then s.storeHeartwood else s)

end Sys2Proof.Machine
end

