-- ==== Sys2Proof/Machine/LinkEvents.lean ====
section
/-! DEFINITION. What happens to links: acknowledgement and replay, loss of lock, FEC errors, retraining, and frames that
are discarded (14 R432, R434, R437). -/

namespace Sys2Proof.Machine

/-- LINK_ACK: its ACK_SEQ frees what it covers (R437). -/
def execLinkAck (e : Env) (f : Frame) (s : State) : Host.Outcome State Fault Refusal :=
  .next ((enter e s).frameIn f kindAck fun s => s)

/-- Replay the frames after ACK_SEQ; a frame already replayed 8 times takes the link DOWN (R437). -/
def State.replayFrames (s : State) (k : Nat) : State :=
  let frames := (s.linkAt k).replay
  if frames.any fun f => decide (8 ≤ f.replays) then s.loseLink k .down 4
  else
    let s := s.modLink k fun l => { l with replay := l.replay.map fun f => { f with replays := f.replays + 1 }
                                           replaysCount := satAdd 32 l.replaysCount frames.length }
    let s := s.emitAll (frames.map fun f => .frame k f.kind f.frame)
    s.portBytes (32 + k) 0 (sumOf (fun f : SentFrame => wireLength f.frame.payload.length) frames)

def execLinkNak (e : Env) (f : Frame) (s : State) : Host.Outcome State Fault Refusal :=
  .next (((enter e s).frameIn f kindNak fun s => s.replayFrames f.link).bellows)

/-- LINK_CRC_FAILURE: the frame is discarded and counted, and the first missing FRAME_SEQ is asked for (R437). -/
def execLinkCrcFailure (e : Env) (link : Nat) (s : State) : Host.Outcome State Fault Refusal :=
  let s := enter e s
  .next (if s.linkUp link then
    (s.modLink link fun l => { l with crcFails := satAdd 8 l.crcFails 1 }).sendPeer link kindNak []
  else s)

/-- UNKNOWN_FRAME_KIND: version 1.0 defines kinds 1 to 6 (R432, R435). -/
def execUnknownFrameKind (e : Env) (f : Frame) (kind : Byte) (s : State) : Host.Outcome State Fault Refusal :=
  let s := enter e s
  .next (if s.linkUp f.link && !(decide (1 ≤ kind.toNat) && decide (kind.toNat ≤ 6)) then
    (s.portBytes (32 + f.link) (wireLength f.payload.length) 0).modLink f.link fun l =>
      { l with nextIn := (l.nextIn + 1) % 2 ^ 32, unknownFrames := satAdd 32 l.unknownFrames 1 }
  else s)

/-- LANE_LOCK_LOSS: a trained link goes DOWN (R434). No rule names a reason for it: NO_SIGNAL (log entry 25). -/
def execLaneLockLoss (e : Env) (link : Nat) (s : State) : Host.Outcome State Fault Refusal :=
  let s := enter e s
  .next (if s.linkPresent link && s.boot.mode = .ready && (s.linkAt link).state ≠ .down then (s.loseLink link .down 1).bellows else s)

/-- LINK_FEC_ERROR: uncorrectable codewords are counted; more than 16 in a second make the link DEGRADED (R434, R441). -/
def State.fecError (s : State) (k n : Nat) : State :=
  let now := s.clock.steady
  let s := s.modLink k fun l =>
    { l with fecErrors := satAdd 16 l.fecErrors n
             fecTimes := (l.fecTimes.filter fun t => decide (now < t.1 + 1000000000)) ++ [(now, n)] }
  if (s.linkAt k).state = .up ∧ s.boot.mode = .ready ∧ 16 < sumOf Prod.snd (s.linkAt k).fecTimes then s.loseLink k .degraded 5 else s

def execLinkFecError (e : Env) (link count : Nat) (s : State) : Host.Outcome State Fault Refusal :=
  let s := enter e s
  .next (if s.linkPresent link && (s.linkAt link).state ≠ .down then (s.fecError link count).bellows else s)

/-- LINK_RETRAIN: every second a DOWN or DEGRADED link whose RETRAIN is set trains again, and after its error-rate check
may return to UP (R434). -/
def State.retrain (s : State) (o : LinkOutcome) : State :=
  let l := s.linkAt o.link
  if s.linkPresent o.link && s.boot.mode = .ready && (s.boot.pstate = .run || s.boot.pstate = .s1) && l.state ≠ .up
      && decide (s.set.linkRetrain.getD o.link 0 = 1) && decide (l.lastTrain + 1000000000 ≤ s.clock.steady) then
    let (st, reason) := linkVerdict o
    let s := s.modLink o.link fun l => l.trained o s.clock.steady
    let s := s.changeLink o.link st reason
    if st = .up then s else s.modLink o.link fun l => { l with reason := reason }
  else s

def execLinkRetrain (e : Env) (o : LinkOutcome) (s : State) : Host.Outcome State Fault Refusal :=
  .next ((enter e s).retrain o)

end Sys2Proof.Machine
end

