-- ==== Sys2Proof/Machine/Boot.lean ====
section
/-! DEFINITION. Warm and power-on resets, the kindling steps and READY, the low-power states, and supply dips (17 R519 to
R548, 18 R569 to R573). -/

namespace Sys2Proof.Machine

/-! ## Warm and power-on resets (R536, R542) -/

/-- Media time through a warm reset: the counter runs on, everything else is at its reset value (02 R21, R29). -/
def Clock.warm (c : Clock) (stoke : Nat) : Clock :=
  { Clock.reset with steady := c.steady, mt := c.mt, stokeInForce := stoke, lastBoundary := c.lastBoundary }

/-- Heartwood's values, as a bring-up loads them. -/
def State.loadHeartwood (s : State) : State :=
  let h := s.heartwood
  { s with set := h.settings, boot.bootCount := h.bootCount, boot.format := h.format,
           boot.fuseMarks := s.fuses.badCores }

/-- A warm reset: the completions of R54 and R537, and then everything but the media-time counter, event numbers, flash
and RESET_CAUSE. A Heartwood store in progress is drained. Only the reset of R520 keeps the RAP owner, and never starts the
automatic run. -/
def State.warmReset (s : State) (cause die : Nat) : State :=
  let s := s.endAll
  let s := if s.fw.storeDue then s.storeHeartwood else s
  let rap := decide (cause = 4)
  let set := s.heartwood.settings
  let boot : Boot :=
    { Boot.reset with
      owner := if rap then s.boot.owner else none, lastRap := if rap then s.boot.lastRap else none,
      lastCause := cause, supplyDie := if cause = 3 then die else s.boot.supplyDie,
      autoRun := decide (set.autoResume = 1) && !rap }
  let dies := s.mem.dies.map fun d => { Die.reset with ticks := d.ticks }
  { State.reset with
    fuses := s.fuses, flash := s.flash, clock := s.clock.warm set.stokeInterval,
    net := { Net.reset with eventSeq := s.net.eventSeq, nextSession := s.net.nextSession },
    nextCmd := s.nextCmd, boot := boot,
    mem := { Mem.reset with nextHandle := s.mem.nextHandle, nextImage := s.mem.nextImage, nextOp := s.mem.nextOp, dies := dies },
    seqs := { Seqs.reset with nextSeq := s.seqs.nextSeq, nextId := s.seqs.nextId },
    codec := { CodecSt.reset with nextId := s.codec.nextId },
    zhevub := { Zhevub.reset with nextOp := s.zhevub.nextOp },
    fw := { Fw.reset with progSlot := s.fw.progSlot, progOffset := s.fw.progOffset, progFirst := s.fw.progFirst },
    phys := { s.phys with peakW := 0 }, pending := s.pending, out := s.out, fresh := s.fresh }.loadHeartwood

/-- A power-on reset: fuses and flash alone survive, and BOOT_COUNT rises (03 R74). No completion is sent (02 R54). -/
def State.powerOn (s : State) : State :=
  let s := { State.reset with
    fuses := s.fuses, flash := s.flash, pending := s.pending, out := s.out, fresh := s.fresh,
    phys := { Phys.reset with addrSel := s.phys.addrSel } }.loadHeartwood
  let s := { s with boot.bootCount := (s.boot.bootCount + 1) % 2 ^ 32, clock.stokeInForce := s.set.stokeInterval }
  s.storeHeartwood

/-- WARM_RESET: the reset that has been requested. -/
def execWarmReset (e : Env) (s : State) : Host.Outcome State Fault Refusal :=
  let s := advance e.dt s
  .next (match s.boot.resetReq with
    | some (.warm cause die) => s.warmReset cause die
    | _ => s)

/-- POWER_ON_RESET: by RESET POWER_ON, or by loss of Chimney die power. -/
def execPowerOnReset (e : Env) (s : State) : Host.Outcome State Fault Refusal :=
  let s := advance e.dt s
  .next (if s.portUp then s.powerOn else s)

/-! ## The kindling steps (R519 to R522) -/

/-- The results of step `n` and of every later step are gone (R520). -/
def State.discardFrom (s : State) (n : Nat) : State :=
  let b := { s.boot with
    stepDone := n - 1, result := 0, failCode := 0,
    fuseCrcBad := if n ≤ 3 then List.replicate 4 false else s.boot.fuseCrcBad,
    fuseMarks := if n ≤ 3 then s.fuses.badCores else s.boot.fuseMarks,
    bistBad := if n ≤ 4 then [0, 0, 0, 0] else s.boot.bistBad,
    enabled := if n ≤ 5 then [0, 0, 0, 0] else s.boot.enabled }
  { s with
    boot := b
    cores := if n ≤ 5 then List.replicate 128 CoreSt.reset else s.cores
    mem.hbmSet := if n ≤ 6 then List.replicate 32 Stack.reset else s.mem.hbmSet
    zhevub.links := if n ≤ 7 then List.replicate 64 Link.reset else s.zhevub.links
    fw := if n ≤ 9 then { s.fw with activeSlot := 0, fellBack := false, defaulted := false } else s.fw }

/-- Step `n` starts. -/
def State.startStep (s : State) (n : Nat) : State :=
  let s := s.discardFrom n
  { s with boot := { s.boot with stepRunning := n, stepActed := false, endResult := 0, endCode := 0,
                                 stepStart := s.clock.steady, stepEnd := s.clock.steady } }

/-- Step `n` runs and its action is still to come. -/
def State.actionDue (s : State) (n : Nat) : Bool :=
  s.boot.mode = .kindling && s.boot.stepRunning = n && !s.boot.stepActed

/-- The action of the running step has been taken; the step will end with a result. -/
def State.stepTaken (s : State) (result code : Nat) : State :=
  { s with boot := { s.boot with stepActed := true, endResult := result, endCode := code } }

def degradedIf (c : Bool) : Nat := if c then 1 else 0

/-- KINDLE_STEP_COMPLETE: the running step ends. The automatic run goes on with the next, or stops at a FAIL (R523). -/
def State.stepComplete (s : State) : State :=
  let n := s.boot.stepRunning
  if s.boot.mode = .kindling && n ≠ 0 && s.boot.stepActed then
    let fail := decide (s.boot.endResult = 2)
    let s := { s with boot := { s.boot with
      stepRunning := 0, stepActed := false, stepEnd := s.clock.steady, result := s.boot.endResult,
      failCode := if fail then s.boot.endCode else 0, stepDone := if fail then n - 1 else n,
      autoRun := s.boot.autoRun && !fail } }
    if s.boot.autoRun && decide (n < 11) then s.startStep (n + 1) else s
  else s

def execKindleStepComplete (e : Env) (s : State) : Host.Outcome State Fault Refusal :=
  .next ((advance e.dt s).stepComplete)

/-- AUTO_RESUME: after a warm reset, steps 3 to 11 with FAST_RESUME set (R523). -/
def execAutoResume (e : Env) (s : State) : Host.Outcome State Fault Refusal :=
  let s := advance e.dt s
  .next (if s.boot.mode = .kindling && s.boot.autoRun && s.boot.stepRunning = 0 && s.boot.stepDone = 2 then
    { s with boot.fastResume := true }.startStep 3
  else s)

/-! ## Steps 3 to 5: fuses, BIST, core enable (R524 to R527) -/

/-- Add an entry to the defect log, unless that core's latest entry has the same kind (R527). -/
def State.logDefect (s : State) (die core kind : Nat) : State :=
  let latest := (s.flash.defects.reverse.find? fun x => x.die = die && x.core = core).map (·.kind)
  if latest = some kind then s
  else
    let x : Defect := { die := die, core := core, kind := kind, bootCount := s.boot.bootCount }
    { s with flash.defects := (s.flash.defects ++ [x]).drop (s.flash.defects.length + 1 - 1024) }

/-- FUSE_READOUT: step 3. `crcBad` lists the dies whose record fails its CRC. -/
def State.fuseReadout (s : State) (crcBad : List Nat) : State :=
  let bad := (List.range s.dieCount).filter crcBad.contains
  let s := bad.foldl (fun s d => s.logDefect d 0xFF 3) s
  { s with boot := { s.boot with
    fuseCrcBad := (List.range 4).map bad.contains
    fuseMarks := (List.range 4).map fun d => if bad.contains d then 0 else s.fuses.badCores.getD d 0 } }.stepTaken 0 0

def execFuseReadout (e : Env) (crcBad : List Nat) (s : State) : Host.Outcome State Fault Refusal :=
  let s := advance e.dt s
  .next (if s.actionDue 3 then s.fuseReadout crcBad else s)

/-- BIST: step 4. `bad` lists the physical cores that fail, `dies` the dies that fail outside their cores. -/
def State.runBist (s : State) (bad : List (Nat × Nat)) (dies : List Nat) : State :=
  let present := List.range s.dieCount
  let mask := fun d : Nat => maskOf ((List.range 36).filter fun p => bad.contains (d, p))
  let s := { s with boot.bistBad := (List.range 4).map fun d => if present.contains d then mask d else 0 }
  match present.find? dies.contains with
  | some d => s.stepTaken 2 (d * 64 + 0x3F)
  | none => s.stepTaken (degradedIf (s.boot.bistBad.any (· ≠ 0))) 0

def execBist (e : Env) (badCores : List (Nat × Nat)) (badDies : List Nat) (s : State) : Host.Outcome State Fault Refusal :=
  let s := advance e.dt s
  .next (if s.actionDue 4 then s.runBist badCores badDies else s)

/-- Marks on a die: fuse, BIST, and the host's enable. -/
def State.coreMarks (s : State) (d p : Nat) : Bool × Bool × Bool :=
  ((s.boot.fuseMarks.getD d 0).testBit p, (s.boot.bistBad.getD d 0).testBit p, (s.set.coreEnable.getD d 0).testBit p)

/-- How R525 logs a core that is not enabled. -/
def defectKind : Bool × Bool × Bool → Option Nat
  | (false, true, _) => some 1
  | (true, false, _) => some 2
  | (true, true, _) => none
  | (false, false, false) => some 5
  | (false, false, true) => none

/-- Step 5 on one die: enabled cores, of which the first 32 stay, and the log (04 R118, R525). -/
def State.enableDie (s : State) (d : Nat) : State :=
  let good := (List.range 36).filter fun p => s.coreMarks d p = (false, false, true)
  let kept := good.take 32
  let s := (List.range 36).foldl (fun s p =>
    match defectKind (s.coreMarks d p) with
    | some k => s.logDefect d p k
    | none => s) s
  let s := (good.drop 32).foldl (fun s p => s.logDefect d p 4) s
  let s := { s with boot.enabled := s.boot.enabled.set d (maskOf kept) }
  (List.range 32).foldl (fun s i => s.modCore (32 * d + i) fun c => { c with phys := kept[i]? }) s

/-- The masks applied and the remap derived, on every die present (04 R117). -/
def State.applyEnable (s : State) : State := (List.range s.dieCount).foldl State.enableDie s

/-- CORE_ENABLE_APPLY: step 5; a die left with fewer than 32 cores is degraded (R526). -/
def execCoreEnableApply (e : Env) (s : State) : Host.Outcome State Fault Refusal :=
  let s := advance e.dt s
  .next (if s.actionDue 5 then
    let s := s.applyEnable
    s.stepTaken (degradedIf (decide (s.enabledCores.length < 32 * s.dieCount))) 0
  else s)

/-! ## Steps 6 to 8: HBM and links (R528 to R532) -/

/-- Stacks come out of training: those that failed are out of service, the others have their results stored. -/
def State.trainStacks (s : State) (failed : List Nat) : State :=
  (List.range (8 * s.dieCount)).foldl (fun s k =>
    let ok := !failed.contains k
    let s := s.modStack k fun _ => { Stack.reset with inService := ok }
    if ok then { s with flash.hbmTraining := s.flash.hbmTraining.set k (some k) } else s) s

/-- HBM_TRAINING: step 6. -/
def State.hbmTraining (s : State) (failed : List Nat) : State :=
  let s := s.trainStacks failed
  if (s.stacksOf .firebox).isEmpty then s.stepTaken 2 0
  else if (s.stacksOf .woodshed).isEmpty then s.stepTaken 2 1
  else s.stepTaken (degradedIf ((List.range (8 * s.dieCount)).any failed.contains)) 0

def execHbmTraining (e : Env) (failed : List Nat) (s : State) : Host.Outcome State Fault Refusal :=
  let s := advance e.dt s
  .next (if s.actionDue 6 then s.hbmTraining failed else s)

/-- A link that nobody answered on. -/
def silentLink (k : Nat) : LinkOutcome :=
  { link := k, peerSeen := false, width := 0, lanes := 0, passed := 0, passedLanes := 0, peerSerial := 0, peerMin := 0, peerMax := 0 }

def outcomeOf (os : List LinkOutcome) (k : Nat) : LinkOutcome := (os.find? (·.link = k)).getD (silentLink k)

/-- A link after step 7: the group that trained is recorded; it is DOWN until step 8 has checked it. -/
def Link.afterTraining (l : Link) (o : LinkOutcome) (now : Nat) : Link :=
  { l.trained o now with state := .down, reason := (linkVerdict { o with passed := o.width }).2 }

/-- Every present link trains. -/
def State.trainLinks (s : State) (os : List LinkOutcome) : State :=
  (List.range (16 * s.dieCount)).foldl (fun s k =>
    let o := outcomeOf os k
    let s := s.modLink k fun l => l.afterTraining o s.clock.steady
    if o.peerSeen && decide (o.width ≠ 0) then
      { s with flash.linkTraining := s.flash.linkTraining.set k (some o.peerSerial.toNat) }
    else s) s

/-- LINK_TRAINING: step 7 never fails. -/
def execLinkTraining (e : Env) (outcomes : List LinkOutcome) (s : State) : Host.Outcome State Fault Refusal :=
  let s := advance e.dt s
  .next (if s.actionDue 7 then
    let s := s.trainLinks outcomes
    s.stepTaken (degradedIf ((List.range (16 * s.dieCount)).any fun k => (s.linkAt k).reason ≠ 0 || (s.linkAt k).trainedWidth ≠ 4)) 0
  else s)

/-- The check of step 8 on a link that trained: the widest group that passed, or DEGRADED at the widest that trained
(R530, R531). -/
def Link.checked (l : Link) (o : LinkOutcome) : Link :=
  if l.reason ≠ 0 ∨ l.trainedWidth = 0 then l
  else
    let ok := decide (o.passed ≠ 0)
    let w := if ok then o.passed else l.trainedWidth
    { l with state := if ok then .up else .degraded, reason := if ok then 0 else 5, width := widthCode w,
             narrow := decide (w < 4), lanes := (if ok then o.passedLanes else l.trainedLanes) % 16 }

def State.checkLinks (s : State) (os : List LinkOutcome) : State :=
  (List.range (16 * s.dieCount)).foldl (fun s k => s.modLink k fun l => l.checked (outcomeOf os k)) s

/-- PRBS31_CHECK: step 8 never fails; it is degraded when a link present is not UP (log entry 33). -/
def execPrbs31Check (e : Env) (outcomes : List LinkOutcome) (s : State) : Host.Outcome State Fault Refusal :=
  let s := advance e.dt s
  .next (if s.actionDue 8 then
    let s := s.checkLinks outcomes
    s.stepTaken (degradedIf ((List.range (16 * s.dieCount)).any fun k => !s.linkUp k)) 0
  else s)

/-! ## Step 9: Stoker firmware (R533, 18 R569, R572, R573) -/

/-- The image in a slot verifies and lists the module's Nervia and Zhevub versions, 1.0 both. -/
def State.bootable (s : State) (k : Nat) : Bool :=
  let b := (s.fwSlot k).bytes
  s.slotState k ≠ .empty && (s.fwBad b).isNone
    && decide (leAt b 20 1 ≤ 0x10) && decide (0x10 ≤ leAt b 21 1) && decide (leAt b 22 1 ≤ 0x10) && decide (0x10 ≤ leAt b 23 1)

/-- The slot programmed through RAP goes first, once (R573). -/
def State.takeProgrammed (s : State) : State :=
  match s.fw.progSlot with
  | some k =>
    if s.fw.progFirst then
      let b := (s.fwSlot k).bytes
      let (s, bad) := (s.setFwSlot k { bytes := b.take (fwLength b), digest := [] }).verifySlot k
      let s := { s with fw.progFirst := false }
      if bad.isSome then s else s.setBoot { s.bootRecord with trial := some k, trialBoots := 0 }
    else s
  | none => s

/-- A slot is marked BAD, and is no trial any more. -/
def State.spoil (s : State) (k : Nat) : State :=
  let r := s.bootRecord
  s.setBoot { slots := r.slots.set k .bad, trial := if r.trial = some k then none else r.trial,
              trialBoots := if r.trial = some k then 0 else r.trialBoots }

/-- The slot that step 9 tries, with the use of a trial slot counted, and one given up after two trial boots. -/
def State.chooseSlot (s : State) : Nat × State :=
  let r := s.bootRecord
  match r.trial with
  | some t =>
    if 2 ≤ r.trialBoots then (1 - t, { s.spoil t with fw.fellBack := true })
    else (t, s.setBoot { r with trialBoots := r.trialBoots + 1 })
  | none => (if s.slotState 1 = .active then 1 else 0, s)

/-- Heartwood at its shipped defaults, but for the epoch second and the port's addresses (R572). -/
def Settings.defaulted (x : Settings) : Settings :=
  { Settings.shipped with
    mtEpoch := x.mtEpoch, netFlags := x.netFlags, ipv4Addr := x.ipv4Addr, ipv4Prefix := x.ipv4Prefix,
    ipv4Gateway := x.ipv4Gateway, ipv6Addr := x.ipv6Addr, ipv6Prefix := x.ipv6Prefix, ipv6Gateway := x.ipv6Gateway }

/-- The image of a slot is the one that runs. -/
def State.bootSlot (s : State) (k : Nat) : State :=
  let format := fwFormat (s.fwSlot k).bytes
  let s := { s with fw.activeSlot := k }
  if format = s.boot.format then s.stepTaken 0 0
  else
    ({ s with set := s.set.defaulted, boot.format := format, fw.defaulted := true }.storeHeartwood).stepTaken 0 0

/-- STOKER_FIRMWARE_LOAD: step 9. -/
def State.loadStoker (s : State) : State :=
  let (k, s) := s.takeProgrammed.chooseSlot
  if s.bootable k then s.bootSlot k
  else
    let s := { s.spoil k with fw.fellBack := true }
    if s.bootable (1 - k) then s.bootSlot (1 - k) else (s.spoil (1 - k)).stepTaken 2 1

def execStokerFirmwareLoad (e : Env) (s : State) : Host.Outcome State Fault Refusal :=
  let s := advance e.dt s
  .next (if s.actionDue 9 then s.loadStoker else s)

/-! ## Steps 10 and 11 (R533, R519, 18 R570, 03 R64) -/

/-- CORE_FIRMWARE_DISTRIBUTION: step 10. A core whose second copy fails too ends the step. -/
def execCoreFirmwareDistribution (e : Env) (failedTwice : List (Nat × Nat)) (s : State) : Host.Outcome State Fault Refusal :=
  let s := advance e.dt s
  .next (if s.actionDue 10 then
    match failedTwice.find? fun x => (s.boot.enabled.getD x.1 0).testBit x.2 with
    | some x => s.stepTaken 2 (x.1 * 64 + x.2)
    | none => s.stepTaken 0 0
  else s)

/-- A trial image is committed (18 R570); any other booted image is the ACTIVE one (18 R552, log entry 34). -/
def State.commitTrial (s : State) : State :=
  let k := s.fw.activeSlot
  let r := s.bootRecord
  let b := (s.fwSlot k).bytes
  let old := r.slots.getD (1 - k) .empty
  let slots := (r.slots.set k .active).set (1 - k) (if old = .active then .staged else old)
  if r.trial = some k then
    let s := s.setBoot { slots := slots, trial := none, trialBoots := 0 }
    let revoked := (List.range s.fuses.keys.length).map fun i =>
      let x := s.fuses.keys.getD i KeySlot.reset
      { x with revoked := x.revoked || (fwRevokes b).testBit i }
    { s with fuses := { s.fuses with
      keys := revoked
      minSecurity := if fwAdvances b then max s.fuses.minSecurity (fwSecurity b) else s.fuses.minSecurity } }
  else if slots = r.slots then s else s.setBoot { r with slots := slots }

def v6Of (ws : List Nat) : Nat := ws.foldl (fun n w => n * 2 ^ 32 + w) 0

/-- The port takes the addresses of R64, and announces each. -/
def State.takeAddresses (s : State) : State :=
  let v4 := if s.set.netFlags.testBit 0 ∧ s.set.ipv4Addr ≠ 0 then some s.set.ipv4Addr else none
  let v6 := if s.set.netFlags.testBit 1 ∧ v6Of s.set.ipv6Addr ≠ 0 then some (v6Of s.set.ipv6Addr) else none
  let s := { s with net := { s.net with
    useV4 := v4, useV6 := v6, v4Prefix := s.set.ipv4Prefix, v4Gateway := s.set.ipv4Gateway,
    v6Prefix := s.set.ipv6Prefix, v6Gateway := v6Of s.set.ipv6Gateway } }
  let own := v4.toList.map fun a => Emission.gratuitousArp (BitVec.ofNat 32 a)
  let link := [Emission.unsolicitedAdvert (linkLocal s.fuses.mac)]
  s.emitAll (own ++ link ++ v6.toList.map fun a => Emission.unsolicitedAdvert (BitVec.ofNat 128 a))

/-- READY: step 11 completes. An automatic run writes its masks and modes to Heartwood (R523). -/
def State.becomeReady (s : State) : State :=
  let s := s.commitTrial
  let s := if s.boot.autoRun then s.storeHeartwood else s
  let s := { s with
    boot := { s.boot with
      mode := .ready, stepDone := 11, stepRunning := 0, stepActed := false, result := 0, failCode := 0,
      stepEnd := s.clock.steady, autoRun := false, owner := none, lastRap := none, caps := s.capsBlock }
    clock.lastBoundary := s.clock.mt / s.stokeNs * s.stokeNs
    ctrs.windowInForce := s.set.windowUs
    ctrs.lastWindow := s.clock.mt / (1000 * s.set.windowUs) * (1000 * s.set.windowUs) }
  s.takeAddresses

def execReady (e : Env) (s : State) : Host.Outcome State Fault Refusal :=
  let s := advance e.dt s
  .next (if s.actionDue 11 then s.becomeReady else s)

/-! ## Programming flash (18 R573) -/

/-- A write to FLASH_PROG_SLOT. -/
def State.progSlot (s : State) (k : Nat) : State :=
  { s.eraseSlot k with fw := { s.fw with progSlot := some k, progOffset := 0, progFirst := true } }

/-- A write of all 256 values of FLASH_PROG_BUFFER: 1,024 bytes at the offset, the low byte of each value first. A slot
holds 64 MiB. -/
def State.progBuffer (s : State) (values : List Nat) : State :=
  match s.fw.progSlot with
  | none => s
  | some k =>
    if s.fw.progOffset + 1024 ≤ 67108864 then
      let b := (s.fwSlot k).bytes.take s.fw.progOffset ++ (values.map (leBytes 4)).flatten
      { s.setFwSlot k { bytes := b, digest := [] } with fw.progOffset := s.fw.progOffset + 1024 }
    else s

def execFlashProgSlot (e : Env) (slot : W32) (s : State) : Host.Outcome State Fault Refusal :=
  let s := advance e.dt s
  .next (if s.boot.mode = .kindling ∧ slot.toNat < 2 then s.progSlot slot.toNat else s)

def execFlashProgBuffer (e : Env) (values : List W32) (s : State) : Host.Outcome State Fault Refusal :=
  let s := advance e.dt s
  .next (if s.boot.mode = .kindling ∧ values.length = 256 then s.progBuffer (values.map (·.toNat)) else s)

/-! ## Low-power states (R540 to R542) -/

/-- A write of TARGET. Entry waits for its own event; a write of 0 starts the exit from S2 or S3. -/
def State.writeTarget (s : State) (v : Nat) : State :=
  let s := { s with boot.target := v }
  if v = 0 ∧ (s.boot.pstate = .s2 ∨ s.boot.pstate = .s3) then
    { s with boot := { s.boot with pdeep := if s.boot.pstate = .s2 then 2 else 3, pstate := .leaving } }
  else s

def execPowerTargetRun (e : Env) (s : State) : Host.Outcome State Fault Refusal :=
  let s := advance e.dt s
  .next (if s.portUp then s.writeTarget 0 else s)
def execPowerTargetS1 (e : Env) (s : State) : Host.Outcome State Fault Refusal :=
  let s := advance e.dt s
  .next (if s.portUp then s.writeTarget 1 else s)
def execPowerTargetS2 (e : Env) (s : State) : Host.Outcome State Fault Refusal :=
  let s := advance e.dt s
  .next (if s.portUp then s.writeTarget 2 else s)
def execPowerTargetS3 (e : Env) (s : State) : Host.Outcome State Fault Refusal :=
  let s := advance e.dt s
  .next (if s.portUp then s.writeTarget 3 else s)

/-- A Mantel cache is written back and emptied. -/
def State.flushCache (s : State) (d : Nat) : State :=
  let s := (s.dieAt d).cache.foldl (fun s l => if l.dirty then s.portBytes (s.stackOfVa l.partition l.va) 0 64 else s) s
  s.modDie d fun x => { x with cache := [] }

/-- S2 is entered: the caches are written back, cores lose power with all they hold, codec handles close (R541, R542). -/
def State.enterS2 (s : State) : State :=
  let s := (List.range 4).foldl (fun s d => (s.drainStage d fun _ => true).flushCache d) s
  { s with
    boot.pstate := .s2
    cores := s.cores.map fun c => { CoreSt.reset with phys := c.phys, nextMessage := c.nextMessage }
    mem.hob := [], mem.hobPoison := []
    codec.handles := [], codec.pushes := []
    kv := { s.kv with ptc := List.replicate 4 [], ptcHits := [0, 0, 0, 0], ptcMisses := [0, 0, 0, 0] } }

/-- S3 is entered: as S2, then HBM and the hearth dies lose power and every link goes DOWN. No rule names the links'
reason: DISABLED (log entry 35). -/
def State.enterS3 (s : State) : State :=
  let s := s.enterS2
  let s := (List.range (16 * s.dieCount)).foldl (fun s k => s.changeLink k .down 7) s
  let links := (List.range 64).map fun k => { Link.reset with state := .down, reason := (s.linkAt k).reason }
  let parts := s.ctrs.ports.map fun _ => Port.reset
  { s with
    boot.pstate := .s3
    boot.enabled := [0, 0, 0, 0]
    parts := []
    mem := { Mem.reset with nextHandle := s.mem.nextHandle, nextImage := s.mem.nextImage, nextOp := s.mem.nextOp,
                            dies := s.mem.dies.map fun d => { Die.reset with ticks := d.ticks } }
    kv := Kv.reset
    seqs := { Seqs.reset with nextSeq := s.seqs.nextSeq, nextId := s.seqs.nextId }
    watch := WatchSt.reset
    zhevub := { Zhevub.reset with links := links, nextOp := s.zhevub.nextOp }
    net.windowGens := s.net.windowGens
    ctrs := { s.ctrs with parts := [], freezes := [], ports := parts } }

/-- POWER_STATE_ENTRY: no command is in flight and no window is open (R541). -/
def State.powerEntry (s : State) : State :=
  if s.boot.mode = .ready && s.cmds.isEmpty && s.net.windows.isEmpty then
    match s.boot.target, s.boot.pstate with
    | 2, .run | 2, .s1 => s.enterS2
    | 3, .run | 3, .s1 | 3, .s2 => s.enterS3
    | _, _ => s
  else s

def execPowerStateEntry (e : Env) (s : State) : Host.Outcome State Fault Refusal :=
  .next ((advance e.dt s).powerEntry)

/-- The exit from S3: steps 6 to 8 on the fast-resume path, then step 5 with the stored masks and no BIST. A stack that
fails leaves EXIT_FAILED. -/
def State.leaveS3 (s : State) (failed : List Nat) (os : List LinkOutcome) : State :=
  let s := (((s.trainStacks failed).trainLinks os).checkLinks os).applyEnable
  { s with boot.pstate := if (List.range (8 * s.dieCount)).any failed.contains then .exitFailed else .run }

/-- POWER_STATE_EXIT_DONE: the exit from S2 or S3 is over. -/
def execPowerStateExitDone (e : Env) (failedStacks : List Nat) (outcomes : List LinkOutcome) (s : State) :
    Host.Outcome State Fault Refusal :=
  let s := advance e.dt s
  .next (if s.boot.pstate = .leaving then
    (if s.boot.pdeep = 3 then s.leaveS3 failedStacks outcomes else { s with boot.pstate := .run }).leaveFields
  else s)

/-! ## Supply dips (R543 to R548) -/

/-- The 16-byte payload of R545. -/
def State.supplyPayload (s : State) (d belowUs : Nat) : List Byte :=
  beBytes 1 d ++ zeros 1 ++ beBytes 2 (s.dieAt d).minMv ++ beBytes 2 (s.dieMhz d) ++ zeros 2
    ++ beBytes 4 (min belowUs (2 ^ 32 - 1)) ++ zeros 4

/-- Readings at or below which the rail is below the warning level (604.5 mV), and at the reset level. -/
def warnMv : Nat := 604
def resetMv : Nat := 572

/-- A reading of a die's rail. -/
def Die.reading (x : Die) (mv : Nat) : Die :=
  { x with railMv := mv, minMv := if x.inEpisode then min x.minMv mv else mv }

/-- SUPPLY_WARNING: the first fall of an episode, or a further fall within it (R544 to R546). -/
def State.supplyFall (s : State) (d mv : Nat) : State :=
  let now := s.clock.steady
  let x := s.dieAt d
  if x.inEpisode then s.modDie d fun x => { x.reading mv with fellLast := now }
  else
    let s := s.modDie d fun x =>
      { x.reading mv with inEpisode := true, episodes := satAdd 16 x.episodes 1, fellFirst := now, fellLast := now,
                          warnSeq := s.net.eventSeq + 1 }
    let s := s.raise 0x0301 255 d (s.supplyPayload d 0)
    let s := if s.phys.ibiEnabled then s.emit (.ibi 0x02) else s
    s.strike 1 0 fun c => c.contract && c.dies.contains d

def execSupplyWarning (e : Env) (die mv : Nat) (s : State) : Host.Outcome State Fault Refusal :=
  let s := advance e.dt s
  .next (if s.portUp && decide (die < s.dieCount) && decide (mv ≤ warnMv) then s.supplyFall die mv else s)

/-- SUPPLY_SUSTAINED: 2 ms below the warning level without a break. -/
def State.supplyLong (s : State) (d mv : Nat) : State :=
  let x := s.dieAt d
  if x.inEpisode && !x.sustained && decide (x.fellLast + 2000000 ≤ s.clock.steady) then
    let s := s.modDie d fun x => { x.reading mv with sustained := true }
    s.raise 0x0302 255 d (s.supplyPayload d ((s.clock.steady - x.fellFirst) / 1000))
  else s

def execSupplySustained (e : Env) (die mv : Nat) (s : State) : Host.Outcome State Fault Refusal :=
  let s := advance e.dt s
  .next (if s.portUp && decide (die < s.dieCount) && decide (mv ≤ warnMv) then s.supplyLong die mv else s)

/-- SUPPLY_RECOVERED: 50 µs at or above the warning level end the episode. -/
def State.supplyRise (s : State) (d mv : Nat) : State :=
  let x := s.dieAt d
  if x.inEpisode && decide (x.fellLast + 50000 ≤ s.clock.steady) then
    let s := s.modDie d fun x => { x.reading mv with inEpisode := false, sustained := false }
    s.raise 0x0303 255 d (s.supplyPayload d ((s.clock.steady - 50000 - x.fellFirst) / 1000))
  else s

def execSupplyRecovered (e : Env) (die mv : Nat) (s : State) : Host.Outcome State Fault Refusal :=
  let s := advance e.dt s
  .next (if s.portUp && decide (die < s.dieCount) && decide (warnMv < mv) then s.supplyRise die mv else s)

/-- SUPPLY_RESET_LEVEL: completions are stamped, and a warm reset is requested (R547). -/
def execSupplyResetLevel (e : Env) (die mv : Nat) (s : State) : Host.Outcome State Fault Refusal :=
  let s := advance e.dt s
  .next (if s.portUp && decide (die < s.dieCount) && decide (mv ≤ resetMv) then
    ((s.modDie die fun x => x.reading mv).endAll).requestReset (.warm 3 die)
  else s)

end Sys2Proof.Machine
end

