-- ==== Sys2Proof/Machine/ConvView.lean ====
section
/-! DEFINITION. The input view of CONV3D: its descriptor, feature maps, regrouping, resampling, padding and carries (10
R331 to R339, R344 to R347). -/

namespace Sys2Proof.Machine

/-! ## The convolution descriptor (R332) -/

/-- What a descriptor says of one axis: kernel, stride, dilation, padding, and the factors of up-sampling and regrouping. -/
structure Axis where
  k : Nat
  s : Nat
  d : Nat
  mode : Nat
  before : Nat
  after : Nat
  value : FVal
  up : Nat
  group : Nat
  deriving DecidableEq, Repr

/-- Axes in the order T, H, W. -/
structure ConvDesc where
  causal : Bool
  groups : Nat
  t : Axis
  h : Axis
  w : Axis
  resample : Nat
  regroup : Nat
  carry : Nat
  save : Nat
  boxList : Nat
  boxCount : Nat
  deriving DecidableEq, Repr

def axisOf (d : List Byte) (i : Nat) : Axis :=
  { k := leAt d (4 + i) 1, s := leAt d (8 + i) 1, d := leAt d (12 + 2 * i) 2, mode := leAt d 11 1 / 4 ^ i % 4,
    before := leAt d (20 + 4 * i) 2, after := leAt d (22 + 4 * i) 2, value := dec32 (leAt d (32 + 4 * i) 4),
    up := 2 ^ (leAt d 45 1 / 4 ^ i % 4), group := 2 ^ (leAt d 47 1 / 4 ^ i % 4) }

def Axis.ok (a : Axis) : Bool :=
  decide (1 ≤ a.k) && decide (a.k ≤ 16) && decide (1 ≤ a.s) && decide (a.s ≤ 8) && decide (1 ≤ a.d) && decide (a.d ≤ 4096)
    && a.value.isFin

def ConvDesc.crop (c : ConvDesc) : Bool := c.resample = 3

/-- The fields of a convolution descriptor; none when one is reserved or out of its range. -/
def convFields (d : List Byte) : Option ConvDesc :=
  let c : ConvDesc :=
    { causal := (leAt d 1 1).testBit 0, groups := leAt d 2 2, t := axisOf d 0, h := axisOf d 1, w := axisOf d 2,
      resample := leAt d 44 1, regroup := leAt d 46 1, carry := leAt d 48 4, save := leAt d 52 4, boxList := leAt d 56 4,
      boxCount := leAt d 60 2 }
  let ok := leAt d 0 1 = 7 && decide (leAt d 1 1 < 2) && decide (1 ≤ c.groups) && leAt d 7 1 = 0 && decide (leAt d 11 1 < 64)
    && zeroBytes d 18 20 && decide (leAt d 45 1 < 64) && decide (leAt d 47 1 < 64) && zeroBytes d 62 64
    && c.t.ok && c.h.ok && c.w.ok && decide (c.resample < 4) && decide (c.regroup < 3)
    && !(c.regroup ≠ 0 && c.resample ≠ 0) && (c.boxList = absent || c.boxList % 8 = 0)
    && (if c.crop then decide (1 ≤ c.boxCount) && decide (c.boxCount ≤ 1024) && c.boxList ≠ absent else c.boxCount = 0)
    && (!c.causal || (c.t.after = 0 && c.t.before = c.t.d * (c.t.k - 1)))
    && (!c.crop || [c.t, c.h, c.w].all fun a => a.k = 1 && a.s = 1 && a.before = 0 && a.after = 0 && a.up = 1)
  if ok then some c else none

/-- A box of CROP_RESIZE (R347). -/
structure Box where
  frame : Nat
  y0 : FVal
  x0 : FVal
  y1 : FVal
  x1 : FVal
  deriving DecidableEq, Repr

def boxOf (b : List Byte) : Box :=
  { frame := leAt b 0 4, y0 := dec32 (leAt b 8 4), x0 := dec32 (leAt b 12 4), y1 := dec32 (leAt b 16 4),
    x1 := dec32 (leAt b 20 4) }

def Box.ok (b : Box) (frames : Nat) : Bool :=
  decide (b.frame < frames) && [b.y0, b.x0, b.y1, b.x1].all FVal.isFin && b.y0.lt b.y1 && b.x0.lt b.x1

/-! ## Members -/

/-- A CONV3D as read: alone, or one of a fuse group. -/
structure ConvMember where
  entry : Entry
  desc : ConvDesc
  input : Tensor
  weights : Tensor
  out : Tensor
  epi : Epilogue
  carry : Option Tensor
  save : Option Tensor
  boxes : List Box
  deriving DecidableEq, Repr

/-- BILINEAR and CROP_RESIZE make the view BF16 (R346). -/
def ConvDesc.interpolates (c : ConvDesc) : Bool := decide (2 ≤ c.resample)

def ConvMember.fmtIn (m : ConvMember) : Fmt := if m.desc.interpolates then .bf16 else m.input.fmt
def ConvMember.scaleIn (m : ConvMember) : FVal := if m.desc.interpolates then .fin false 1 else m.input.T

/-- The extent of the view on an axis whose input extent is n (R334). -/
def ConvDesc.viewExtent (c : ConvDesc) (a : Axis) (n : Nat) : Nat :=
  if c.regroup = 1 then n / a.group else if c.resample = 1 || c.resample = 2 then n * a.up else n

def ConvMember.viewT (m : ConvMember) : Nat := m.desc.viewExtent m.desc.t (m.input.e 3)
def ConvMember.viewH (m : ConvMember) : Nat := m.desc.viewExtent m.desc.h (m.input.e 2)
def ConvMember.viewW (m : ConvMember) : Nat := m.desc.viewExtent m.desc.w (m.input.e 1)

def ConvDesc.regroupSize (c : ConvDesc) : Nat := c.t.group * c.h.group * c.w.group

/-- Channels of the view. -/
def ConvMember.viewC (m : ConvMember) : Nat := if m.desc.regroup = 1 then m.input.e 0 * m.desc.regroupSize else m.input.e 0

def Axis.outExtent (a : Axis) (n : Nat) : Nat :=
  (max 0 (((n : Int) + a.before + a.after - a.d * (a.k - 1) - 1) / a.s + 1)).toNat

/-- Extents (T, H, W) of what is computed, before DEPTH_TO_SPACE. -/
def ConvMember.grid (m : ConvMember) : Nat × Nat × Nat :=
  let c := m.desc
  if c.crop then (c.boxCount, m.out.e 2, m.out.e 1)
  else (c.t.outExtent m.viewT, c.h.outExtent m.viewH, c.w.outExtent m.viewW)

def ConvMember.taps (m : ConvMember) : Nat := m.desc.t.k * m.desc.h.k * m.desc.w.k
/-- Channels computed. -/
def ConvMember.cOut (m : ConvMember) : Nat := m.weights.e 2
/-- Channels of a group. -/
def ConvMember.cg (m : ConvMember) : Nat := m.viewC / m.desc.groups
def ConvMember.groupOf (m : ConvMember) (n : Nat) : Nat := n / max 1 (m.cOut / m.desc.groups)
def ConvMember.kpc (m : ConvMember) : Nat := kpcOf m.fmtIn m.weights.fmt

/-- A regrouped operand keeps its blocks whole (R344). -/
def regroupOk (t : Tensor) (c : Nat) : Bool := (!t.scaled || c % t.fmt.block = 0) && t.frc = 0

/-- The shapes of R331, R334, R337 and R344. -/
def ConvMember.shapeOk (m : ConvMember) : Bool :=
  let c := m.desc
  let (gt, gh, gw) := m.grid
  pairOk m.fmtIn m.weights.fmt && decide (c.groups ≤ m.viewC) && m.viewC % c.groups = 0 && m.cOut % c.groups = 0
    && m.weights.e 0 = m.cg && m.weights.e 1 = m.taps && m.weights.e 3 = 1
    && (c.regroup ≠ 1 || (m.input.e 3 % c.t.group = 0 && m.input.e 2 % c.h.group = 0 && m.input.e 1 % c.w.group = 0
      && regroupOk m.input (m.input.e 0)))
    && (if c.regroup = 2 then regroupOk m.out (m.out.e 0)
          && m.out.ext = [m.out.e 0, gw * c.w.group, gh * c.h.group, gt * c.t.group] && m.cOut = m.out.e 0 * c.regroupSize
        else m.out.ext = [m.cOut, gw, gh, gt])

/-- A carry or carry-save has the input's shape, format and SCALE_MODE, with PAD_BEFORE_T frames. -/
def ConvMember.carryShape (m : ConvMember) (t : Tensor) : Bool :=
  t.ext = [m.input.e 0, m.input.e 1, m.input.e 2, m.desc.t.before] && t.fmt = m.input.fmt && t.mode = m.input.mode

/-! ## Feature maps -/

/-- A row of channels at one position: its elements, and its bytes as they are stored. -/
structure FRow where
  row : Row
  raw : RowOut
  bad : List Bool
  deriving DecidableEq, Repr

/-- A feature map: a tensor with its rows, W innermost; `live` when they lie in the tensor's memory. -/
structure FMap where
  tensor : Tensor
  live : Bool
  rows : List FRow
  deriving DecidableEq, Repr

def FRow.none : FRow := { row := { elems := [], scaleBytes := [], bad := false }, raw := RowOut.none, bad := [] }

def FMap.get (f : FMap) (t h w : Nat) : FRow :=
  f.rows.getD ((t * f.tensor.e 2 + h) * f.tensor.e 1 + w) FRow.none

/-- The rows of a tensor in memory. -/
def State.fmap (s : State) (j : Job) (t : Tensor) : FMap :=
  { tensor := t, live := true
    rows := t.rows.map fun i =>
      let r := s.rawRow j t i.1 i.2.1 i.2.2
      { row := s.readRow j t i.1 i.2.1 i.2.2, raw := r.1, bad := r.2 } }

/-- A row that has been encoded, as the next member of a fuse group reads it (R352). -/
def Tensor.reread (t : Tensor) (o : RowOut) (bad : Bool) : FRow :=
  let bytes := o.data.foldl (fun bs p => bs.take p.1 ++ p.2 ++ bs.drop (p.1 + p.2.length)) (zeros t.rowBytes)
  let sbs := o.scales.map (·.toNat)
  let b := t.fmt.block
  let elems :=
    if t.frc ≠ 0 then
      (((pieces (frcBytes t.frc) bytes).map (frcDecode t.fmt t.frc)).flatten).map fun v =>
        ({ code := v, scale := 1, zeroBlock := false, bad := bad } : Elem)
    else
      let codes := unpackCodes t.fmt.bits (t.e 0) bytes
      (List.range (t.e 0)).map fun e =>
        let sb := sbs.getD (e / b) 0
        ({ code := readCode t.fmt t.mode sb (codes.getD e 0), scale := (t.mode.decode sb).rat,
           zeroBlock := t.zeroAt sbs (e / b), bad := bad } : Elem)
  { row := { elems := elems, scaleBytes := sbs, bad := bad }, raw := { o with data := [(0, bytes)] },
    bad := List.replicate (t.e 0) bad }

/-! ## Regrouping and resampling (R344, R346, R347) -/

/-- Input positions (t, h, w) whose rows make up the view at (t, h, w), each with the first view channel it serves. -/
def ConvMember.sources (m : ConvMember) (t h w : Nat) : List ((Nat × Nat × Nat) × Nat) :=
  let c := m.desc
  if c.regroup = 1 then
    (List.range c.regroupSize).map fun k =>
      let it := k / (c.h.group * c.w.group)
      let ih := k / c.w.group % c.h.group
      let iw := k % c.w.group
      ((t * c.t.group + it, h * c.h.group + ih, w * c.w.group + iw), k * m.input.e 0)
  else if c.resample = 1 then [((t / c.t.up, h / c.h.up, w / c.w.up), 0)]
  else [((t, h, w), 0)]

/-- Two neighbours on an axis with their weights: s clamped to the axis. -/
def tapsAt (s : FVal) (n : Nat) : (Nat × FVal) × (Nat × FVal) :=
  let s := FVal.min (FVal.max s .zero) (FVal.ofNat (n - 1))
  let i0 := s.rat.floor.toNat
  let a := sub32 s (FVal.ofNat i0)
  ((i0, sub32 (.fin false 1) a), (min (i0 + 1) (n - 1), a))

def half : FVal := .fin false (1 / 2)

/-- bilinear_tap of R346. -/
def bilinearTap (v f n : Nat) : (Nat × FVal) × (Nat × FVal) :=
  tapsAt (sub32 (div32 (add32 (FVal.ofNat v) half) (FVal.ofNat f)) half) n

/-- The sample of R347 for output index i of `size` between two edges. -/
def cropTap (lo hi : FVal) (i size n : Nat) : (Nat × FVal) × (Nat × FVal) :=
  let step := div32 (mul32 (add32 (FVal.ofNat i) half) (sub32 hi lo)) (FVal.ofNat size)
  tapsAt (sub32 (add32 lo step) half) n

/-- Where an interpolated view element comes from: frame, and the neighbours in H and W. -/
def ConvMember.neighbours (m : ConvMember) (t h w : Nat) : Nat × ((Nat × FVal) × (Nat × FVal)) × ((Nat × FVal) × (Nat × FVal)) :=
  let c := m.desc
  if c.crop then
    let b := m.boxes.getD t { frame := 0, y0 := .zero, x0 := .zero, y1 := .zero, x1 := .zero }
    (b.frame, cropTap b.y0 b.y1 h (m.out.e 2) (m.input.e 2), cropTap b.x0 b.x1 w (m.out.e 1) (m.input.e 1))
  else (t / c.t.up, bilinearTap h c.h.up (m.input.e 2), bilinearTap w c.w.up (m.input.e 1))

/-- The four weighted neighbours of every channel, summed in FP32 and rounded to BF16. -/
def ConvMember.interpolate (m : ConvMember) (f : FMap) (t h w : Nat) : List Elem :=
  let (fr, ys, xs) := m.neighbours t h w
  let ps := [(ys.1, xs.1), (ys.1, xs.2), (ys.2, xs.1), (ys.2, xs.2)]
  let rows := ps.map fun p => (f.get fr p.1.1 p.2.1).row.elems
  let weights := ps.map fun p => mul32 p.1.2 p.2.2
  (List.range (m.input.e 0)).map fun c =>
    let xs := rows.map fun r => r.getD c Elem.zero
    let terms := (weights.zip xs).map fun p => mul32 p.1 (f.tensor.flame p.2)
    { code := rne16 ((terms.drop 1).foldl add32 (terms.headD .zero)), scale := 1, zeroBlock := false,
      bad := xs.any (·.bad) : Elem }

/-- The view's elements at (t, h, w). -/
def ConvMember.viewRow (m : ConvMember) (f : FMap) (t h w : Nat) : List Elem :=
  if m.desc.interpolates then m.interpolate f t h w
  else ((m.sources t h w).map fun p => (f.get p.1.1 p.1.2.1 p.1.2.2).row.elems).flatten

/-- Input positions fetched for the view at (t, h, w), each with the first view channel it serves. -/
def ConvMember.fetched (m : ConvMember) (t h w : Nat) : List ((Nat × Nat × Nat) × Nat) :=
  if m.desc.interpolates then
    let (fr, ys, xs) := m.neighbours t h w
    ([(ys.1.1, xs.1.1), (ys.1.1, xs.2.1), (ys.2.1, xs.1.1), (ys.2.1, xs.2.1)].map fun p => ((fr, p.1, p.2), 0)).eraseDups
  else m.sources t h w

/-! ## Padding and carries (R335 to R337) -/

/-- Where an axis takes a coordinate. -/
inductive Hit where
  | zero
  | pad
  | at_ (i : Nat)
  deriving DecidableEq, Repr

def Axis.resolve (a : Axis) (i : Int) (n : Nat) : Hit :=
  if 0 ≤ i ∧ i < n then .at_ i.toNat
  else match a.mode with
    | 0 => .zero
    | 1 => .pad
    | 3 => .at_ (if i < 0 then 0 else n - 1)
    | _ =>
      if n ≤ 1 then .at_ 0
      else
        let k := (i % (2 * ((n : Int) - 1))).toNat
        .at_ (if k < n then k else 2 * (n - 1) - k)

/-- What a tap reads: zero, the pad element of an axis, or a position of the view of the carry or of the input. -/
inductive Src where
  | zero
  | pad (axis : Nat)
  | carry (t h w : Nat)
  | view (t h w : Nat)
  deriving DecidableEq, Repr

/-- resolve of R335: a carry frame stands in for T, and H and W follow. -/
def ConvMember.resolve (m : ConvMember) (it ih iw : Int) : Src :=
  let c := m.desc
  let inCarry := m.carry.isSome && decide (it < 0)
  let t := if inCarry then Hit.at_ (it + c.t.before).toNat else c.t.resolve it m.viewT
  match t with
  | .zero => .zero
  | .pad => .pad 0
  | .at_ t =>
    match c.h.resolve ih m.viewH with
    | .zero => .zero
    | .pad => .pad 1
    | .at_ h =>
      match c.w.resolve iw m.viewW with
      | .zero => .zero
      | .pad => .pad 2
      | .at_ w => if inCarry then .carry t h w else .view t h w

/-- The source of a tap at an output position. -/
def ConvMember.src (m : ConvMember) (tap : Nat) (p : Nat × Nat × Nat) : Src :=
  let c := m.desc
  if c.crop then .view p.1 p.2.1 p.2.2
  else
    let (kt, kh, kw) := (tap / (c.h.k * c.w.k), tap / c.w.k % c.h.k, tap % c.w.k)
    let at_ := fun (a : Axis) (o k : Nat) => ((o * a.s + k * a.d : Nat) : Int) - (a.before : Int)
    m.resolve (at_ c.t p.1 kt) (at_ c.h p.2.1 kh) (at_ c.w p.2.2 kw)

/-- The pad element of R336, in the input's stored form. -/
def Tensor.padElem (t : Tensor) (v : FVal) : Elem :=
  if t.scaled then
    let o := writeBlock (List.replicate t.fmt.block v) t.T.rat t.fmt t.mode
    { code := readCode t.fmt t.mode o.scale ((o.codes.getD []).headD 0), scale := (t.mode.decode o.scale).rat,
      zeroBlock := decide (o.scale = 0), bad := false }
  else { code := t.fmt.decode (t.fmt.write (v.over t.T.rat)).code, scale := 1, zeroBlock := false, bad := false }

/-- A pad element as it enters the sum: with interpolation the view is BF16. -/
def ConvMember.padIn (m : ConvMember) (axis : Nat) : Elem :=
  let v := (if axis = 0 then m.desc.t else if axis = 1 then m.desc.h else m.desc.w).value
  let x := m.input.padElem v
  if m.desc.interpolates then { code := rne16 (m.input.flame x), scale := 1, zeroBlock := false, bad := false } else x

/-- A zero that is not a zero block. -/
def zeroElem : Elem := { code := .zero, scale := 1, zeroBlock := false, bad := false }

end Sys2Proof.Machine
end

