-- ==== Sys2Proof/Machine/Conv.lean ====
section
/-! DEFINITION. CONV3D: the reduction, its tiles, the carry-save, and fuse groups (10 R331 to R358). -/

namespace Sys2Proof.Machine

/-! ## Reading at issue -/

/-- The output descriptor of a member of a fuse group other than the last: its place is not used (R352). -/
def shapeAt (h : Hob) (a : Nat) : Rd Tensor := do
  let d ← descriptor h a 64
  match tensorFields d true with
  | none => throw Stop.field
  | some t =>
    let t := { t with ext := ← extentsAt h (leAt d 3 1) t.ext }
    stopIf (t.frc ≠ 0 && t.e 0 * t.fmt.bits / 8 % 256 ≠ 0) .field
    stopIf (t.status ≠ absent && decide (0x7FFFF0 < t.status)) .bounds
    stopIf (t.status ≠ absent && t.status % 16 ≠ 0) .field
    pure t

/-- Byte ranges of a tensor. -/
def Tensor.spans (t : Tensor) : List Span :=
  if t.empty then [] else if t.scaled then [t.dataSpan, t.scaleSpan] else [t.dataSpan]

def tensorsMeet (a b : Tensor) : Bool := a.module = b.module && meets a.spans b.spans

/-- One CONV3D: `input` is what an earlier member of its group computes, and `last` says that its output is written. -/
def memberAt (h : Hob) (s : State) (j : Job) (e : Entry) (input : Option Tensor) (last : Bool) : Rd ConvMember := do
  let inp ← match input with
    | some t => pure t
    | none => tensorAt h s j (e.opnd 0) true false
  let weights ← tensorAt h s j (e.opnd 1) false false
  let out ← if last then tensorAt h s j (e.opnd 2) true true else shapeAt h (e.opnd 2)
  let d ← descriptor h (e.opnd 3) 64
  match convFields d with
  | none => throw Stop.field
  | some c =>
    stopIf (c.crop && decide (hobTop < c.boxList + 24 * c.boxCount)) .bounds
    let boxes ← (List.range (if c.crop then c.boxCount else 0)).mapM fun k => do
      let b ← copied h (c.boxList + 24 * k) 24
      stopIf (!(boxOf b).ok (inp.e 3) || !zeroBytes b 4 8) .field
      pure (boxOf b)
    let epi ← epilogueAt h s j (weights.e 2) (e.opnd 4) true
    let carry ← optionally c.carry (tensorAt h s j c.carry true false)
    let save ← optionally c.save (tensorAt h s j c.save true true)
    let m : ConvMember :=
      { entry := e, desc := c, input := inp, weights := weights, out := out, epi := epi, carry := carry, save := save,
        boxes := boxes }
    stopIf (!m.shapeOk) .field
    stopIf (carry.any fun t => !m.carryShape t || c.t.before = 0 || c.t.up ≠ 1 || c.regroup ≠ 0) .field
    stopIf (save.any fun t => !m.carryShape t || (carry.any (tensorsMeet t)) || (input.isNone && tensorsMeet t inp)
      || (last && tensorsMeet t out)) .field
    pure m

/-- The unit of a member's resampler (R345). -/
def memberUnits (s : State) (m : ConvMember) : Rd Unit := do
  frcUnit s ([m.input, m.out] ++ m.carry.toList ++ m.save.toList)
  stopIf ((m.desc.resample = 1 || m.desc.resample = 2) && !s.unitPresent 3) (.unit 3)
  stopIf (m.desc.crop && !s.unitPresent 4) (.unit 4)

/-- How the output is walked: ORDER, and tile sizes in channels, T, H and W. -/
structure ConvGrid where
  order : Nat
  tn : Nat
  tt : Nat
  th : Nat
  tw : Nat
  deriving DecidableEq, Repr

structure ConvPlan where
  members : List ConvMember
  grid : ConvGrid
  scratch : Span
  deriving DecidableEq, Repr

/-- A CONV3D outside a fuse group (R333). -/
def readAlone (h : Hob) (s : State) (j : Job) : Rd ConvPlan := do
  let i := j.entry.imm
  let g : ConvGrid :=
    { order := i % 2, tn := 32 * 2 ^ bitsOf i 2 1, tw := bitsOf i 10 3, th := bitsOf i 18 11, tt := bitsOf i 26 19 }
  entryStop j.entry (decide (2 ^ 27 ≤ i) || g.tw = 0 || g.th = 0 || g.tt = 0
    || decide (32768 < g.tt * g.th * g.tw * g.tn))
  let m ← memberAt h s j j.entry none true
  stopIf (m.out.frc ≠ 0 && g.tn % frcElems m.out.fmt ≠ 0) .field
  memberUnits s m
  pure { members := [m], grid := g, scratch := (0, 0) }

/-- dilation × (kernel extent − 1). -/
def Axis.halo (a : Axis) : Nat := a.d * (a.k - 1)

/-- Halos in T, H and W of some members together. -/
def haloOf (ms : List ConvMember) : Nat × Nat × Nat :=
  (sumOf (fun m : ConvMember => m.desc.t.halo) ms, sumOf (fun m : ConvMember => m.desc.h.halo) ms,
   sumOf (fun m : ConvMember => m.desc.w.halo) ms)

/-- Scratch bytes of member `k` (R351). -/
def ConvPlan.region (p : ConvPlan) (k : Nat) : Nat :=
  match p.members[k]? with
  | none => 0
  | some m =>
    let (ht, hh, hw) := haloOf (p.members.drop (k + 1))
    ceilDiv ((p.grid.tt + ht) * (p.grid.th + hh) * (p.grid.tw + hw) * (m.out.rowBytes + m.out.scaleCount)) 64 * 64

/-- The entries of a group's members (R349). -/
def memberEntries (h : Hob) (s : State) (j : Job) (n : Nat) : Rd (List Entry) := do
  let c := s.coreAt j.core
  stopIf (decide (c.progLen < j.index + n)) .field
  let rest ← (List.range (n - 1)).mapM fun k => do
    let e := macroEntry (← peeked h (c.progBase + 32 * (j.index + 1 + k)) 32)
    entryStop e (e.op ≠ 2 || e.imm ≠ 0 || e.opnd 5 ≠ j.entry.opnd 5)
    pure e
  pure (j.entry :: rest)

/-- The members in order, each reading what the one before it computes. -/
def convMembers (h : Hob) (s : State) (j : Job) : Option ConvMember → List Entry → Rd (List ConvMember)
  | _, [] => pure []
  | prev, e :: rest => do
    stopIf (prev.any fun p => p.entry.opnd 2 ≠ e.opnd 0) .field
    let m ← memberAt h s j e (prev.map (·.out)) rest.isEmpty
    stopIf ([m.desc.t, m.desc.h, m.desc.w].any (fun a => a.s ≠ 1) || m.desc.resample ≠ 0 || m.desc.regroup ≠ 0) .field
    return m :: (← convMembers h s j (some m) rest)

/-- A fuse group (R348 to R351). -/
def readGroup (h : Hob) (s : State) (j : Job) : Rd ConvPlan := do
  entryStop j.entry (decide (2 ≤ j.entry.imm))
  let d ← descriptor h (j.entry.opnd 5) 64
  let n := leAt d 1 1
  let g : ConvGrid := { order := j.entry.imm % 2, tn := 0, tt := leAt d 8 2, th := leAt d 6 2, tw := leAt d 4 2 }
  let scratch := leAt d 12 4
  let size := leAt d 16 4
  let sizeOk := fun k => decide (1 ≤ k) && decide (k ≤ 1024)
  stopIf (leAt d 0 1 ≠ 8 || decide (n < 2) || decide (8 < n) || !zeroBytes d 2 4 || !zeroBytes d 10 12 || !zeroBytes d 20 64
    || !sizeOk g.tt || !sizeOk g.th || !sizeOk g.tw || scratch % 64 ≠ 0) .field
  let ms ← convMembers h s j none (← memberEntries h s j n)
  let p : ConvPlan :=
    { members := ms, grid := { g with tn := max 1 ((ms.getLast?.map (·.cOut)).getD 1) }, scratch := (scratch, scratch + size) }
  let (ht, hh, hw) := haloOf ms
  stopIf (decide (g.tt < ht) || decide (g.th < hh) || decide (g.tw < hw)) { status := 0x0202, cause := 0 }
  stopIf (decide (size < sumOf p.region (List.range (n - 1))) || decide (hobTop < scratch + size)) .bounds
  ms.forM (memberUnits s)
  pure p

def readConv (h : Hob) (s : State) (j : Job) : Rd ConvPlan :=
  if j.entry.opnd 5 = absent then readAlone h s j else readGroup h s j

/-! ## The reduction (R340, R341) -/

/-- Segments [lo, hi) of a tap's `n` channels: 16 positions at most, none across a block boundary of the input, whose
first channel is `first`, or of the weights. -/
def segments (n first blockA blockB : Nat) : List (Nat × Nat) :=
  let starts := (List.range n).filter fun k => k % 16 = 0 || (first + k) % blockA = 0 || k % blockB = 0
  (List.range starts.length).map fun i => (starts.getD i 0, starts.getD (i + 1) n)

/-- A segment of some elements. -/
def segAt (xs : List Elem) (r : Nat × Nat) : Seg :=
  let ys := (xs.drop r.1).take (r.2 - r.1)
  { vals := ys.map (·.code), scale := (ys.headD Elem.zero).scale, zero := (ys.headD Elem.zero).zeroBlock }

/-- A member ready to compute. -/
structure ConvCtx where
  mem : ConvMember
  input : FMap
  carry : Option FMap
  weights : List Row
  fn : FVal → FVal
  drain : Drain

/-- The row of weights of output channel n at a tap. -/
def ConvCtx.wrow (c : ConvCtx) (n tap : Nat) : Row :=
  c.weights.getD (n * c.mem.taps + tap) { elems := [], scaleBytes := [], bad := false }

/-- All channels that a tap reads. -/
def ConvCtx.elems (c : ConvCtx) : Src → List Elem
  | .zero => List.replicate c.mem.viewC zeroElem
  | .pad k => List.replicate c.mem.viewC (c.mem.padIn k)
  | .carry t h w => (c.carry.map fun f => c.mem.viewRow f t h w).getD []
  | .view t h w => c.mem.viewRow c.input t h w

/-- Block sizes that cut segments; none for operands without block scales. -/
def ConvMember.blockA (m : ConvMember) : Nat := if m.input.scaled && !m.desc.interpolates then m.input.fmt.block else 0
def ConvMember.blockB (m : ConvMember) : Nat := if m.weights.scaled then m.weights.fmt.block else 0

/-- Taps that read ZERO padding at every position of a sub-tile row. -/
def ConvMember.skipped (m : ConvMember) (row : List (Nat × Nat × Nat)) : List Nat :=
  (List.range m.taps).filter fun k => row.all fun p => m.src k p = .zero

/-- What the taps that are not skipped read at a position. -/
def ConvCtx.gather (c : ConvCtx) (skip : List Nat) (p : Nat × Nat × Nat) : List (Nat × List Elem) :=
  ((List.range c.mem.taps).filter fun k => !skip.contains k).map fun k => (k, c.elems (c.mem.src k p))

/-- The accumulation of one lane over what its position gathered. -/
def ConvCtx.lane (c : ConvCtx) (got : List (Nat × List Elem)) (n : Nat) : FVal :=
  let m := c.mem
  let first := m.cg * m.groupOf n
  let cuts := segments m.cg first m.blockA m.blockB
  got.foldl (fun acc g =>
    let xs := (g.2.drop first).take m.cg
    let ws := (c.wrow n g.1).elems
    cuts.foldl (fun acc r => add32 acc (segProduct (segAt xs r) (segAt ws r))) acc) .zero

/-- The same lane as the witness path forms it (12 R390). -/
def ConvCtx.witnessLane (c : ConvCtx) (got : List (Nat × List Elem)) (n : Nat) : FVal :=
  let m := c.mem
  let first := m.cg * m.groupOf n
  let wide := fun (x : Elem) => if m.desc.interpolates then rne16 x.code else rne16 (m.input.flame x)
  got.foldl (fun acc g =>
    let xs := plainSegs (((g.2.drop first).take m.cg).map wide)
    let ws := c.mem.weights.witnessRow (c.wrow n g.1).elems
    (xs.zip ws).foldl (fun acc p => add32 acc (segProduct p.1 p.2)) acc) .zero

/-- The accumulator after R207, and the drained element. -/
def ConvCtx.scaled (c : ConvCtx) (got : List (Nat × List Elem)) (n : Nat) : FVal :=
  mul32 (c.lane got n) (mul32 c.mem.scaleIn c.mem.weights.T)

def ConvCtx.drained (c : ConvCtx) (n : Nat) (y : FVal) : FVal := c.mem.epi.apply c.fn c.drain n y

/-- What a position gathered, or a weight or epilogue column of channels [n0, n1), is poisoned. -/
def ConvCtx.badAt (c : ConvCtx) (got : List (Nat × List Elem)) (n0 n1 : Nat) : Bool :=
  let m := c.mem
  let lo := m.cg * m.groupOf n0
  let hi := m.cg * (m.groupOf (n1 - 1) + 1)
  got.any fun g => ((g.2.drop lo).take (hi - lo)).any (·.bad)

def ConvCtx.colsBad (c : ConvCtx) (n0 n1 : Nat) : Bool :=
  (List.range (n1 - n0)).any fun i => c.drain.colBad (n0 + i)
    || (List.range c.mem.taps).any fun k => (c.wrow (n0 + i) k).bad

/-! ## Fetching a tile -/

/-- Sectors of view channels [lo, hi) at a source: scales, then data. -/
def ConvCtx.sectors (c : ConvCtx) (src : Src) (lo hi : Nat) : List Nat × List Nat :=
  let m := c.mem
  let of := fun (f : FMap) (t h w : Nat) =>
    if !f.live then ([], [])
    else
      let n := f.tensor.e 0
      let xs := (m.fetched t h w).map fun p =>
        f.tensor.sectors p.1.2.2 p.1.2.1 p.1.1 (f.get p.1.1 p.1.2.1 p.1.2.2).row (min n (lo - p.2)) (min n (hi - p.2))
      ((xs.map Prod.fst).flatten, (xs.map Prod.snd).flatten)
  match src with
  | .carry t h w => (c.carry.map fun f => of f t h w).getD ([], [])
  | .view t h w => of c.input t h w
  | _ => ([], [])

/-- Fetch the K blocks of a tile of positions, in sub-tile rows, and channels [n0, n1). -/
def ConvCtx.fetch (c : ConvCtx) (s : State) (j : Job) (kb : Nat) (rows : List (List (Nat × Nat × Nat))) (n0 n1 : Nat) : State :=
  let m := c.mem
  let skips := rows.map m.skipped
  let groups := ((List.range (n1 - n0)).map fun i => m.groupOf (n0 + i)).eraseDups
  let s := (chunksOf kb (m.cg * m.taps)).foldl (fun s k =>
    let parts := (List.range m.taps).filterMap fun tap =>
      let lo := max k.1 (tap * m.cg) - tap * m.cg
      let hi := min k.2 ((tap + 1) * m.cg) - tap * m.cg
      if lo < hi ∧ tap * m.cg < k.2 ∧ !(skips.all fun x => x.contains tap) then some (tap, lo, hi) else none
    let a := (parts.map fun x => ((rows.zip skips).map fun r => if r.2.contains x.1 then [] else
      (r.1.map fun p => groups.map fun g => c.sectors (m.src x.1 p) (g * m.cg + x.2.1) (g * m.cg + x.2.2)).flatten).flatten).flatten
    let b := (parts.map fun x => (List.range (n1 - n0)).map fun i =>
      m.weights.sectors x.1 (n0 + i) 0 (c.wrow (n0 + i) x.1) x.2.1 x.2.2).flatten
    (((s.demand j (a.map Prod.fst).flatten).demand j (b.map Prod.fst).flatten).demand j (a.map Prod.snd).flatten).demand j
      (b.map Prod.snd).flatten) s
  c.drain.cols.foldl (fun s x => s.fetchRow j x.1 0 0 0 x.2 n0 n1) s

/-- Array clocks of a tile (R342): each sub-tile row takes those of the taps that it does not skip. -/
def ConvMember.clocks (m : ConvMember) (kpc : Nat) (rows : List (List (Nat × Nat × Nat))) (cols : Nat) : Nat :=
  ceilDiv cols 32 * sumOf (fun r => ceilDiv (m.cg * (m.taps - (m.skipped r).length)) kpc) rows

/-! ## Tiles -/

/-- Positions (t, h, w) of a box, T outermost. -/
def positions (t0 t1 h0 h1 w0 w1 : Nat) : List (Nat × Nat × Nat) :=
  ((List.range (t1 - t0)).map fun t => ((List.range (h1 - h0)).map fun h =>
    (List.range (w1 - w0)).map fun w => (t0 + t, h0 + h, w0 + w)).flatten).flatten

/-- The box [lo, hi) on each axis of the positions of a tile row, in T, H and W. -/
def ConvGrid.box (g : ConvGrid) (ext : Nat × Nat × Nat) (row : Nat) : (Nat × Nat) × (Nat × Nat) × (Nat × Nat) :=
  let gh := ceilDiv ext.2.1 g.th
  let gw := ceilDiv ext.2.2 g.tw
  let cut := fun k size n => (k * size, min n ((k + 1) * size))
  (cut (row / (gh * gw)) g.tt ext.1, cut (row / gw % gh) g.th ext.2.1, cut (row % gw) g.tw ext.2.2)

/-- Tiles of the output in walk order: row box, and channels [n0, n1). -/
def ConvGrid.tiles (g : ConvGrid) (ext : Nat × Nat × Nat) (cOut : Nat) :
    List (((Nat × Nat) × (Nat × Nat) × (Nat × Nat)) × Nat × Nat) :=
  let gm := ceilDiv ext.1 g.tt * ceilDiv ext.2.1 g.th * ceilDiv ext.2.2 g.tw
  (walkOrder gm (ceilDiv cOut g.tn) g.order).map fun p =>
    (g.box ext p.2, p.1 * g.tn, min cOut ((p.1 + 1) * g.tn))

/-- Results of a tile: one piece of channels per position. -/
structure TileOut where
  n0 : Nat
  cells : List ((Nat × Nat × Nat) × List FVal)
  bad : Bool
  deriving DecidableEq, Repr

/-- Compute a tile of the member that writes: traffic, clocks, the witness, and the results. -/
def ConvCtx.tile (c : ConvCtx) (s : State) (j : Job) (ps : List (Nat × Nat × Nat)) (n0 n1 : Nat) : State × TileOut :=
  let m := c.mem
  let rows := pieces 32 ps
  let s := c.fetch s j (8 * m.kpc) rows n0 n1
  let s := s.tileSpent j (m.clocks m.kpc rows (n1 - n0)) ps.length (n1 - n0)
  let got := (rows.map fun r => r.map fun p => (p, c.gather (m.skipped r) p)).flatten
  let cols := (List.range (n1 - n0)).map (n0 + ·)
  let ys := got.map fun g => (g.1, cols.map fun n => c.scaled g.2 n)
  let (s, due) := s.witnessDue j m.out
  let s := match due with
    | none => s
    | some e =>
      let s := (c.fetch s j 128 rows n0 n1).modCore j.core fun x => x.count 0x05 (m.clocks 16 rows (n1 - n0)) j.entry.op
      s.noteWitness j e (ys.map Prod.snd).flatten (got.map fun g => cols.map fun n => c.witnessLane g.2 n).flatten
  (s, { n0 := n0, cells := ys.map fun y => (y.1, (cols.zip y.2).map fun x => c.drained x.1 x.2)
        bad := j.bad || c.colsBad n0 n1 || got.any fun g => c.badAt g.2 n0 n1 })

/-- Rows of the output that a tile writes, without regrouping. -/
def TileOut.rows (t : TileOut) : List OutRow := t.cells.map fun x =>
  { i1 := x.1.2.2, i2 := x.1.2.1, i3 := x.1.1, lo := t.n0, vals := x.2, bad := List.replicate x.2.length t.bad }

/-- Rows of a DEPTH_TO_SPACE output from all its tiles (R344). -/
def ConvMember.spread (m : ConvMember) (ts : List TileOut) : List OutRow :=
  let c := m.desc
  let find := fun p n => ts.findSome? fun t =>
    (t.cells.find? fun x => x.1 = p && decide (t.n0 ≤ n) && decide (n < t.n0 + x.2.length)).map fun x =>
      (x.2.getD (n - t.n0) .zero, t.bad)
  m.out.rows.map fun i =>
    let (iw, ih, it) := (i.1 % c.w.group, i.2.1 % c.h.group, i.2.2 % c.t.group)
    let p := (i.2.2 / c.t.group, i.2.1 / c.h.group, i.1 / c.w.group)
    let xs := (List.range (m.out.e 0)).map fun ch =>
      (find p (((it * c.h.group + ih) * c.w.group + iw) * m.out.e 0 + ch)).getD (.zero, false)
    { i1 := i.1, i2 := i.2.1, i3 := i.2.2, vals := xs.map Prod.fst, bad := xs.map Prod.snd }

/-! ## The carry-save (R338) -/

/-- What the carry-save holds at a position: a stored row of the carry or of the input, or a constant. -/
inductive Saved where
  | row (f : FMap) (t : Nat)
  | value (v : FVal)

def ConvCtx.saved (c : ConvCtx) (k : Nat) : Saved :=
  let before := c.mem.desc.t.before
  let frames := c.mem.input.e 3
  if before ≤ frames + k then .row c.input (frames + k - before)
  else
    match c.carry with
    | some f => .row f (frames + k)
    | none =>
      match c.mem.desc.t.resolve ((frames + k : Nat) - (before : Int)) frames with
      | .at_ t => .row c.input t
      | .pad => .value c.mem.desc.t.value
      | .zero => .value .zero

/-- Store one row of the carry-save; whether it is poisoned. -/
def ConvCtx.saveRow (c : ConvCtx) (s : State) (j : Job) (t : Tensor) (i : Nat × Nat × Nat) : State × Bool :=
  match c.saved i.2.2 with
  | .value v =>
    let o := { t with scale := c.mem.input.scale }.encode (List.replicate (t.e 0) v)
    (s.putRow j t i.1 i.2.1 i.2.2 0 { o with zero := [] } fun _ => j.bad, j.bad)
  | .row f fr =>
    let r := f.get fr i.2.1 i.1
    let s := if f.live then s.demand j (f.tensor.rawSectors i.1 i.2.1 fr) else s
    let bad := j.bad || r.bad.any id
    if f.tensor.frc = t.frc then
      (s.putRow j t i.1 i.2.1 i.2.2 0 { r.raw with zero := [] } fun e => j.bad || r.bad.getD e false, bad)
    else
      ((s.storeRow j false t i.1 i.2.1 i.2.2 0 (r.row.elems.map f.tensor.flame) fun e => j.bad || r.bad.getD e false).1, bad)

def ConvCtx.saveCarry (c : ConvCtx) (s : State) (j : Job) : State × Bool :=
  match c.mem.save with
  | none => (s, false)
  | some t => t.rows.foldl (fun acc i => let (s, b) := c.saveRow acc.1 j t i; (s, acc.2 || b)) (s, false)

/-! ## Members in a chain (R352) -/

/-- The custom tables of a plan, each once. -/
def ConvPlan.keys (p : ConvPlan) : List (Nat × Nat) := ((p.members.map fun m => m.epi.key).flatten).eraseDups

def ConvPlan.context (p : ConvPlan) (s : State) (j : Job) (mac : Macro) (m : ConvMember) (input : FMap) : ConvCtx :=
  let bank := mac.banks.getD (p.keys.idxOf (m.epi.key.headD (0, 0))) 0
  { mem := m, input := input, carry := m.carry.map (s.fmap j)
    weights := ((List.range (m.weights.e 2)).map fun n => (List.range (m.weights.e 1)).map fun k =>
      s.readRow j m.weights k n 0).flatten
    fn := (s.coreAt j.core).evalFn bank m.epi.func, drain := s.drainOf j bank (m.weights.e 2) m.epi }

/-- The rows that a member writes to scratch, with what each counts. -/
def ConvCtx.inner (c : ConvCtx) (j : Job) : List (FRow × Tally) :=
  let m := c.mem
  let n := m.cOut
  (m.out.rows).map fun i =>
    let p := (i.2.2, i.2.1, i.1)
    let got := c.gather (m.skipped [p]) p
    let o := m.out.encode ((List.range n).map fun k => c.drained k (c.scaled got k))
    (m.out.reread o (j.bad || c.colsBad 0 n || c.badAt got 0 n), o.tally)

/-- The contexts of the members of a plan, first to last, with the tallies of the rows of those before the last. -/
def ConvPlan.contexts (p : ConvPlan) (s : State) (j : Job) (mac : Macro) : List (ConvCtx × List Tally) :=
  (p.members.foldl (fun (acc : List (ConvCtx × List Tally) × Option FMap) m =>
    let c := p.context s j mac m (acc.2.getD (s.fmap j m.input))
    if acc.1.length + 1 = p.members.length then (acc.1 ++ [(c, [])], acc.2)
    else
      let rows := c.inner j
      (acc.1 ++ [(c, rows.map Prod.snd)], some { tensor := m.out, live := false, rows := rows.map Prod.fst })) ([], none)).1

/-- The range of an axis that a member must have computed for [lo, hi) of the next. -/
def Axis.back (a : Axis) (r : Int × Int) : Int × Int := (r.1 - a.before, r.2 - a.before + a.halo)

/-- Within an axis of n positions. -/
def clip (r : Int × Int) (n : Nat) : Nat × Nat := (min n r.1.toNat, min n r.2.toNat)

/-- Fetch and compute a tile's region of every member before the last, and what those regions count. -/
def regions (s : State) (j : Job) (box : (Nat × Nat) × (Nat × Nat) × (Nat × Nat)) (cs : List (ConvCtx × List Tally)) :
    State × List (ConvMember × Tally) :=
  let int := fun (r : Nat × Nat) => ((r.1 : Int), (r.2 : Int))
  let (_, _, _, _, s, out) := cs.reverse.foldl (fun acc x =>
    let (first, t, h, w, s, out) := acc
    let m := x.1.mem
    let jm := { j with entry := m.entry }
    let back := (false, m.desc.t.back t, m.desc.h.back h, m.desc.w.back w)
    if first then (back.1, back.2.1, back.2.2.1, back.2.2.2, s, out)
    else
      let (t0, t1) := clip t (m.out.e 3)
      let (h0, h1) := clip h (m.out.e 2)
      let (w0, w1) := clip w (m.out.e 1)
      let ps := positions t0 t1 h0 h1 w0 w1
      let rows := pieces 32 ps
      let s := (x.1.fetch s jm (8 * m.kpc) rows 0 m.cOut).tileSpent jm (m.clocks m.kpc rows m.cOut) ps.length m.cOut
      let tally := Tally.sum (ps.map fun p => x.2.getD ((p.1 * m.out.e 2 + p.2.1) * m.out.e 1 + p.2.2) Tally.none)
      (back.1, back.2.1, back.2.2.1, back.2.2.2, s, (m, tally) :: out))
    (true, int box.1, int box.2.1, int box.2.2, s, [])
  (s, out)

/-- The scratch of a fuse group holds regions whose layout no rule gives. -/
def State.fillScratch (s : State) (j : Job) (r : Span) : State :=
  if r.2 ≤ r.1 then s
  else
    let (n, s) := s.take
    s.hobWrite j.core r.1 ((List.range (r.2 - r.1)).map (Config.freeByte n))

/-- All tiles of the output: traffic, results in walk order, and what the regions of earlier members count. -/
def ConvPlan.walk (p : ConvPlan) (c : ConvCtx) (cs : List (ConvCtx × List Tally)) (j : Job) (s : State) :
    State × List TileOut × List (ConvMember × Tally) :=
  (p.grid.tiles c.mem.grid c.mem.cOut).foldl (fun acc t =>
    let (s, counts) := if 1 < cs.length then regions acc.1 j t.1 cs else (acc.1, [])
    let ps := positions t.1.1.1 t.1.1.2 t.1.2.1.1 t.1.2.1.2 t.1.2.2.1 t.1.2.2.2
    let (s, o) := c.tile s { j with entry := c.mem.entry } ps t.2.1 t.2.2
    (s, acc.2.1 ++ [o], acc.2.2 ++ counts)) (s, [], [])

def runConv (p : ConvPlan) (j : Job) (mac : Macro) (s0 : State) : State × Macro :=
  let cs := p.contexts s0 j mac
  match cs.getLast? with
  | none => (s0, mac)
  | some (c, _) =>
    if c.mem.out.empty then (s0, mac)
    else
      let (s, outs, counts) := p.walk c cs j s0
      let jo := { j with entry := c.mem.entry }
      let rows := if c.mem.desc.regroup = 2 then c.mem.spread outs else (outs.map TileOut.rows).flatten
      let (s, tally, bad) := s.storeRows jo true c.mem.out rows
      let (s, bad) := cs.foldl (fun acc x =>
        let (s, b) := x.1.saveCarry acc.1 { j with entry := x.1.mem.entry }
        (s, acc.2 || b)) (s, bad)
      let s := s.fillScratch j p.scratch
      let inner := p.members.dropLast.map fun m =>
        m.out.gains (Tally.sum ((counts.filter fun x => x.1 = m).map Prod.snd))
      (s, { mac with status := inner.flatten ++ c.mem.out.gains tally, poisoned := mac.poisoned || bad })

/-! ## The kind -/

/-- Hob ranges that a member reads. -/
def ConvMember.reads (m : ConvMember) (first : Bool) : List Span :=
  (if first then m.input.hobSpans else []) ++ m.weights.hobSpans
    ++ ((m.carry.toList ++ m.epi.tensors).map Tensor.hobSpans).flatten

def ConvPlan.reads (p : ConvPlan) : List Span :=
  ((List.range p.members.length).zip p.members |>.map fun x => x.2.reads (decide (x.1 = 0))).flatten

/-- Hob ranges that a plan writes: output, carry-saves, status words and scratch. -/
def ConvPlan.writes (p : ConvPlan) : List Span :=
  let word := fun (t : Tensor) => if t.status = absent then [] else [(t.status, t.status + 16)]
  (p.members.dropLast.map fun m => word m.out).flatten ++ ((p.members.getLast?.map fun m => m.out.outSpans).getD [])
    ++ (p.members.map fun m => (m.save.map Tensor.hobSpans).getD []).flatten
    ++ (if p.scratch.1 < p.scratch.2 then [p.scratch] else [])

def ConvPlan.empty (p : ConvPlan) : Bool := (p.members.getLast?.map fun m => m.out.empty).getD true

def kindConv : Kind ConvPlan :=
  { mine := fun _ e => e.op = 0x02, read := readConv, reads := ConvPlan.reads, writes := ConvPlan.writes,
    span := fun p => p.members.length, dma := false, blocked := fun _ c => c.arrayHeld,
    table := fun p => if p.empty then [] else p.keys, run := runConv }

/-- CONV3D (R331), alone or as the first member of a fuse group. -/
def execConv3d (e : Env) (core : Nat) (s : State) : Host.Outcome State Fault Refusal :=
  .next ((enter e s).issue kindConv core)

end Sys2Proof.Machine
end

