-- ==== Sys2Proof/Machine/Matmul.lean ====
section
/-! DEFINITION. MATMUL with the Ember side path (05 R169 to R176, 06 R206, R207, R211 to R214). -/

namespace Sys2Proof.Machine

/-! ## The Ember descriptor (06 R211 to R213) -/

structure Ember where
  replace : Bool
  /-- ascending channel indices -/
  channels : List Nat
  /-- side values, one list per output column -/
  side : List (List FVal)
  scale : FVal
  /-- sectors of the side matrix in module memory -/
  sectors : List Nat
  deriving DecidableEq, Repr

/-- Numbers in strictly ascending order, all below `top`. -/
def ascending (top : Nat) : List Nat → Bool
  | a :: b :: rest => decide (a < b) && ascending top (b :: rest)
  | [a] => decide (a < top)
  | [] => true

def emberAt (h : Hob) (s : State) (j : Job) (b : Tensor) (a : Nat) : Rd Ember := do
  let d ← descriptor h a 64
  let c := leAt d 1 1
  let module := leAt d 2 1 = 1
  let list := leAt d 4 4
  let values := leAt d 16 8
  let stride := leAt d 24 6
  let n := b.e 1
  stopIf (leAt d 0 1 ≠ 2 || c = 0 || decide (64 < c) || decide (2 ≤ leAt d 2 1) || decide (2 ≤ leAt d 3 1) || list % 4 ≠ 0
    || !zeroBytes d 12 16 || !zeroBytes d 30 64 || !scaleWordOk (leAt d 8 4) || decide (stride < 2 * c) || stride % 2 ≠ 0
    || b.e 2 ≠ 1 || b.e 3 ≠ 1) .field
  stopIf (decide (hobTop < list + 4 * c)) .bounds
  let bytes ← copied h list (4 * c)
  let channels := (List.range c).map fun k => leAt bytes (4 * k) 4
  stopIf (!ascending (b.e 0) channels) .field
  stopIf (n ≠ 0 && !s.fits j module (values, values + (n - 1) * stride + 2 * c)) .bounds
  let side ← (List.range n).mapM fun k => do
    let r ← copied h ((if module then moduleMark else 0) + values + k * stride) (2 * c)
    pure ((List.range c).map fun i => dec16 (leAt r (2 * i) 2))
  let secs := if module then ((List.range n).map fun k => sectorsOf (values + k * stride) (2 * c)).flatten else []
  pure { replace := (leAt d 3 1).testBit 0, channels := channels, side := side, scale := dec32 (leAt d 8 4), sectors := secs }

/-- ember(m, n) of R213: `row` is a row of A. -/
def Ember.term (x : Ember) (ta : FVal) (row : List Elem) (n : Nat) : FVal :=
  let side := x.side.getD n []
  let products := (x.channels.zip side).map fun p =>
    let a := row.getD p.1 Elem.zero
    mul32 (if a.zeroBlock then .zero else mul32 a.code (.fin false a.scale)) p.2
  mul32 (products.foldl add32 .zero) (mul32 ta x.scale)

/-- A row of B in the main reduction: with REPLACE the listed channels read as zero. -/
def Ember.main (x : Ember) (row : List Elem) : List Elem :=
  if x.replace then (List.range row.length).map fun k =>
    if x.channels.contains k then { row.getD k Elem.zero with code := .zero } else row.getD k Elem.zero
  else row

/-! ## MATMUL (05 R170 to R173) -/

structure MatPlan where
  a : Tensor
  b : Tensor
  out : Tensor
  epi : Epilogue
  ember : Option Ember
  grid : TileGrid
  deriving DecidableEq, Repr

def readMatmul (h : Hob) (s : State) (j : Job) : Rd MatPlan := do
  let e := j.entry
  let g := tileGridOf e.imm
  entryStop e (decide (32 ≤ e.imm))
  let a ← tensorAt h s j (e.opnd 0) true false
  let b ← tensorAt h s j (e.opnd 1) false false
  let out ← tensorAt h s j (e.opnd 2) true true
  stopIf (g.bad out || !pairOk a.fmt b.fmt) .field
  stopIf (a.e 0 ≠ b.e 0 || a.e 1 ≠ out.e 1 || b.e 1 ≠ out.e 0 || a.ext.drop 2 ≠ out.ext.drop 2
    || (b.e 2 ≠ a.e 2 && b.e 2 ≠ 1) || (b.e 3 ≠ a.e 3 && b.e 3 ≠ 1)) .field
  let epi ← epilogueAt h s j (out.e 0) (e.opnd 3) false
  let bias ← optionally (e.opnd 4) (vectorAt h s j (out.e 0) (e.opnd 4))
  let ember ← optionally (e.opnd 5) (emberAt h s j b (e.opnd 5))
  frcUnit s [a, out]
  stopIf (ember.isSome && !s.unitPresent 2) (.unit 2)
  pure { a := a, b := b, out := out, epi := { epi with bias := bias }, ember := ember, grid := g }

/-- Fetch the K blocks of a tile: of each, the scales of A and B, then their data (R174). -/
def State.fetchTile (s : State) (j : Job) (kb k : Nat) (as bs : List (Tensor × (Nat × Nat × Nat) × Row)) : State :=
  (chunksOf kb k).foldl (fun s c =>
    let secs := fun (xs : List (Tensor × (Nat × Nat × Nat) × Row)) =>
      xs.map fun x => x.1.sectors x.2.1.1 x.2.1.2.1 x.2.1.2.2 x.2.2 c.1 c.2
    let (sa, sb) := (secs as, secs bs)
    (((s.demand j (sa.map Prod.fst).flatten).demand j (sb.map Prod.fst).flatten).demand j
      (sa.map Prod.snd).flatten).demand j (sb.map Prod.snd).flatten) s

/-- The scaled result of one element before the epilogue: accumulation, R207 and the Ember term. -/
def MatPlan.scaled (p : MatPlan) (row : List Elem) (sa sb : List Seg) (n : Nat) : FVal × FVal :=
  let y := mul32 (lane sa sb) (mul32 p.a.T p.b.T)
  (y, match p.ember with
      | some x => add32 y (x.term p.a.T row n)
      | none => y)

/-- One output tile of batch (i2, i3). -/
def MatPlan.tile (p : MatPlan) (fn : FVal → FVal) (d : Drain) (j : Job) (i2 i3 : Nat) (as bs : List (Row × List Seg))
    (acc : State × Tally × Bool) (t : Tile) : State × Tally × Bool :=
  let k := p.a.e 0
  let (b2, b3) := (p.b.at_ 2 i2, p.b.at_ 3 i3)
  let row := fun (xs : List (Row × List Seg)) i => xs.getD i ({ elems := [], scaleBytes := [], bad := false }, [])
  let fa := t.rows.map fun m => (p.a, (m, i2, i3), (row as m).1)
  let fb := t.cols.map fun n => (p.b, (n, b2, b3), (row bs n).1)
  let kpc := kpcOf p.a.fmt p.b.fmt
  let nr := t.m1 - t.m0
  let nc := t.n1 - t.n0
  let s := acc.1.fetchTile j (8 * kpc) k fa fb
  let s := s.tileSpent j (tileClocks nr nc k kpc) nr nc
  let s := d.cols.foldl (fun s x => s.fetchRow j x.1 0 0 0 x.2 t.n0 t.n1) s
  let cell := fun m n => p.scaled (row as m).1.elems (row as m).2 (row bs n).2 n
  let cells := t.rows.map fun m => t.cols.map fun n => cell m n
  let (s, due) := s.witnessDue j p.out
  let s := match due with
    | none => s
    | some e =>
      let s := (s.fetchTile j 128 k fa fb).modCore j.core fun c => c.count 0x05 (tileClocks nr nc k 16) j.entry.op
      let wa := t.rows.map fun m => p.a.witnessRow (row as m).1.elems
      let wb := t.cols.map fun n =>
        let xs := (row bs n).1.elems
        p.b.witnessRow (match p.ember with | some x => x.main xs | none => xs)
      s.noteWitness j e (cells.map fun r : List (FVal × FVal) => r.map Prod.fst).flatten (wa.map fun x => wb.map fun y => lane x y).flatten
  let bad := fa.any (·.2.2.bad) || fb.any (·.2.2.bad) || t.cols.any d.colBad
  let rows := (List.range nr).map fun r =>
    { i1 := t.m0 + r, i2 := i2, i3 := i3, lo := t.n0
      vals := (List.range nc).map fun c => p.epi.apply fn d (t.n0 + c) (((cells.getD r []).getD c (.zero, .zero)).2)
      bad := List.replicate nc bad : OutRow }
  let (s, tally, b) := s.storeRows j true p.out rows
  (s, acc.2.1.add tally, acc.2.2 || b)

def runMatmul (p : MatPlan) (j : Job) (m : Macro) (s0 : State) : State × Macro :=
  if p.out.empty then (s0, m)
  else
    let fn := (s0.coreAt j.core).evalFn (m.banks.headD 0) p.epi.func
    let d := s0.drainOf j (m.banks.headD 0) (p.out.e 0) p.epi
    let s := match p.ember with | some x => s0.demand j x.sectors | none => s0
    let main := fun xs => match p.ember with | some x => x.main xs | none => xs
    let batches := ((List.range (p.out.e 3)).map fun i3 => (List.range (p.out.e 2)).map fun i2 => (i2, i3)).flatten
    let (s, tally, bad) := batches.foldl (fun acc i =>
      let as := (List.range (p.out.e 1)).map fun m =>
        let r := s0.readRow j p.a m i.1 i.2
        (r, segsOf r.elems)
      let bs := (List.range (p.out.e 0)).map fun n =>
        let r := s0.readRow j p.b n (p.b.at_ 2 i.1) (p.b.at_ 3 i.2)
        (r, segsOf (main r.elems))
      (p.grid.tiles (p.out.e 1) (p.out.e 0)).foldl (p.tile fn d j i.1 i.2 as bs) acc) (s, Tally.none, false)
    (s, { m with status := p.out.gains tally, poisoned := m.poisoned || bad })

def kindMatmul : Kind MatPlan :=
  { mine := fun _ e => e.op = 0x01, read := readMatmul,
    reads := fun p => p.a.hobSpans ++ p.b.hobSpans ++ (p.epi.tensors.map Tensor.hobSpans).flatten,
    writes := fun p => p.out.outSpans, span := fun _ => 1, dma := false, blocked := fun _ c => c.arrayHeld,
    table := fun p => if p.out.empty then [] else p.epi.key, run := runMatmul }

/-- MATMUL (R170). -/
def execMatmul (e : Env) (core : Nat) (s : State) : Host.Outcome State Fault Refusal :=
  .next ((enter e s).issue kindMatmul core)

end Sys2Proof.Machine
end

