-- ==== Sys2Proof/Machine/Physical.lean ====
section
/-! DEFINITION. Pins and the management target: power sequencing, RESET_N, the input voltage, and I3C (20 R594 to R601). -/

namespace Sys2Proof.Machine

/-! ## Power (R594, R595, R598) -/

/-- Every rail is gone. Fuses and flash alone keep what they hold (17 R536). -/
def State.railsOff (s : State) : State :=
  { State.reset with
    fuses := s.fuses, flash := s.flash, pending := s.pending, out := s.out, fresh := s.fresh,
    phys := { Phys.reset with pwrEn := s.phys.pwrEn, pwrGood := false, addrSel := s.phys.addrSel }
    boot := { Boot.reset with mode := .off, stepDone := 0 } }

/-- PWR_EN_HIGH: the Chimney rails rise, and the I3C target answers. -/
def execPwrEnHigh (e : Env) (s : State) : Host.Outcome State Fault Refusal :=
  let s := advance e.dt s
  .next (if s.boot.mode = .off then { s with phys.pwrEn := true, boot.mode := .rails } else s)

/-- PWR_GOOD: every rail is up, and step 2 begins; it ends here (log entry 39). -/
def execPwrGood (e : Env) (s : State) : Host.Outcome State Fault Refusal :=
  let s := advance e.dt s
  .next (if s.boot.mode = .rails then { s.powerOn with phys := { s.phys with pwrGood := true } } else s)

def execPwrEnLow (e : Env) (s : State) : Host.Outcome State Fault Refusal :=
  let s := advance e.dt s
  let s := { s with phys.pwrEn := false }
  .next (if s.boot.mode = .off then s else s.railsOff)

/-- RESET_N_LOW: a low of 10 µs or more is a power-on reset, which records POWER_ON; a shorter one is ignored (R598). -/
def execResetNLow (e : Env) (ns : Nat) (s : State) : Host.Outcome State Fault Refusal :=
  let s := advance e.dt s
  .next (if s.portUp ∧ 10000 ≤ ns then s.powerOn else s)

/-- An input of `mv` millivolts for `ns` nanoseconds that the module does not ride through (R594). -/
def vinBad (mv ns : Nat) : Bool :=
  decide (mv < 44000) || decide (65000 < mv) || ((decide (mv < 48000) || decide (60000 < mv)) && decide (10000000 < ns))

/-- VIN_OUT_OF_RANGE: the module removes every rail. -/
def execVinOutOfRange (e : Env) (mv ns : Nat) (s : State) : Host.Outcome State Fault Refusal :=
  let s := advance e.dt s
  .next (if s.boot.mode ≠ .off ∧ vinBad mv ns then s.railsOff else s)

/-! ## I3C addresses and CCCs (R599, R601) -/

/-- The target answers while the Chimney die is powered. -/
def State.chimneyUp (s : State) : Bool := s.boot.mode ≠ .off

def State.staticAddr (s : State) : Nat := 0x4C + s.phys.addrSel

/-- A transfer is addressed to the target: at its dynamic address, or at the static one while it has none (log entry
40). -/
def State.addressed (s : State) (a : Nat) : Bool :=
  s.chimneyUp && decide (a = s.phys.dynAddr.getD s.staticAddr)

/-- `n` bytes whose value no rule states. -/
def State.openBytes (s : State) (n : Nat) : List Byte × State :=
  ((List.range n).map fun i => Config.freeByte s.fresh i, { s with fresh := s.fresh + 1 })

/-- Send `n` bytes whose value no rule states. -/
def State.sendOpen (s : State) (n : Nat) : State :=
  let (bs, s) := s.openBytes n
  s.emit (.i3cData bs)

/-- ENTDAA: the target gives its 8 identifying bytes and takes the address, unless it has one. -/
def execEntdaa (e : Env) (address : Nat) (s : State) : Host.Outcome State Fault Refusal :=
  let s := advance e.dt s
  .next (if s.chimneyUp && s.phys.dynAddr.isNone then
    ({ s with phys.dynAddr := some (address % 128) }.sendOpen 8).emit .i3cAck else s)

/-- SETDASA: the target at the static address takes the dynamic one. -/
def execSetdasa (e : Env) (static address : Nat) (s : State) : Host.Outcome State Fault Refusal :=
  let s := advance e.dt s
  .next (if s.chimneyUp && s.phys.dynAddr.isNone && decide (static = s.staticAddr) then
    { s with phys.dynAddr := some (address % 128) }.emit .i3cAck else s)

def execRstdaa (e : Env) (s : State) : Host.Outcome State Fault Refusal :=
  let s := advance e.dt s
  .next (if s.chimneyUp then { s with phys.dynAddr := none }.emit .i3cAck else s)

/-- A CCC that reads `n` bytes of the target, whose values no rule states. -/
def readCcc (n : Nat) (e : Env) (address : Nat) (s : State) : State :=
  let s := advance e.dt s
  if s.addressed address then (s.emit .i3cAck).sendOpen n else s

def execGetpid (e : Env) (address : Nat) (s : State) : Host.Outcome State Fault Refusal := .next (readCcc 6 e address s)
def execGetbcr (e : Env) (address : Nat) (s : State) : Host.Outcome State Fault Refusal := .next (readCcc 1 e address s)
def execGetdcr (e : Env) (address : Nat) (s : State) : Host.Outcome State Fault Refusal := .next (readCcc 1 e address s)
def execGetstatus (e : Env) (address : Nat) (s : State) : Host.Outcome State Fault Refusal := .next (readCcc 2 e address s)
def execGetmxds (e : Env) (address : Nat) (s : State) : Host.Outcome State Fault Refusal := .next (readCcc 2 e address s)

/-- ENEC and DISEC, to the target or broadcast: bit 0 of the events byte is the in-band interrupt (log entry 40). -/
def setIbi (on : Bool) (e : Env) (address : Nat) (events : Byte) (s : State) : State :=
  let s := advance e.dt s
  if s.addressed address || (s.chimneyUp && decide (address = 0x7E)) then
    (if events.toNat.testBit 0 then { s with phys.ibiEnabled := on } else s).emit .i3cAck
  else s

def execEnec (e : Env) (address : Nat) (events : Byte) (s : State) : Host.Outcome State Fault Refusal :=
  .next (setIbi true e address events s)
def execDisec (e : Env) (address : Nat) (events : Byte) (s : State) : Host.Outcome State Fault Refusal :=
  .next (setIbi false e address events s)

/-- The CCCs of R599, by their MIPI codes: broadcast and direct (log entry 40). -/
def knownCcc (code : Nat) : Bool :=
  [0x00, 0x01, 0x06, 0x07, 0x80, 0x81, 0x87, 0x8D, 0x8E, 0x8F, 0x90, 0x94].contains code

/-- I3C_OTHER_CCC: every CCC that R599 does not name is NACKed. -/
def execI3cOtherCcc (e : Env) (code : Byte) (s : State) : Host.Outcome State Fault Refusal :=
  let s := advance e.dt s
  .next (if s.chimneyUp && !knownCcc code.toNat then s.emit .i3cNack else s)

/-! ## Private transfers (R600) -/

/-- A write of one byte sets the read offset; a longer one is NACKed after its first byte. -/
def execI3cPrivateWrite (e : Env) (address : Nat) (bytes : List Byte) (s : State) : Host.Outcome State Fault Refusal :=
  let s := advance e.dt s
  .next (if s.addressed address then
    match bytes with
    | [] => s.emit .i3cAck
    | [b] => { s with phys := { s.phys with readOffset := b.toNat, sample := [] } }.emit .i3cAck
    | _ => s.emit .i3cNack
  else s)

/-- First offset and size of the field that holds an offset. -/
def mgmtField (o : Nat) : Option (Nat × Nat) :=
  [(0x00, 2), (0x02, 1), (0x03, 1), (0x04, 8), (0x0C, 2), (0x0E, 2), (0x10, 2), (0x12, 2), (0x14, 1), (0x15, 1),
    (0x16, 1), (0x17, 1), (0x18, 8)].find? fun f => decide (f.1 ≤ o) && decide (o < f.1 + f.2)

/-- MGMT_FLAGS: VIN_OUT_OF_RANGE shows an input outside its operating range. -/
def State.mgmtFlags (s : State) (tel : Telemetry) : Nat :=
  b2n (s.boot.mode = .ready) + b2n (s.boot.mode = .kindling) * 2
    + b2n (decide (tel.vinMv < 48000) || decide (60000 < tel.vinMv)) * 4

def Variant.mgmt : Variant → Nat
  | .ix8a => 0
  | .ix8s => 1
  | .ix4c => 2

/-- PEAK_W: at least every PIN_W the model has seen since the last read of the field. -/
def State.peakOf (s : State) (tel : Telemetry) : Nat :=
  min (max (max s.phys.peakW tel.pinW) (Config.freeNat s.fresh % 2 ^ 16)) (2 ^ 16 - 1)

/-- A sample of the field that begins at an offset. -/
def State.mgmtValue (s : State) (tel : Telemetry) (o : Nat) : List Byte :=
  let live := fun bs : List Byte => if s.phys.pwrGood then bs else zeros bs.length
  let hbmSet := (List.range 32).map s.stackAt
  match o with
  | 0x00 => beBytes 2 1
  | 0x02 => beBytes 1 s.fuses.variant.mgmt
  | 0x03 => beBytes 1 (s.mgmtFlags tel)
  | 0x04 => beBytes 8 s.fuses.serial
  | 0x0C => live (beBytes 2 tel.vinMv)
  | 0x0E => live (beBytes 2 tel.iinCa)
  | 0x10 => live (beBytes 2 tel.pinW)
  | 0x12 => live (beBytes 2 (s.peakOf tel))
  | 0x14 => live (beBytes 1 tel.inletC)
  | 0x15 => live (beBytes 1 ((hbmSet.map (·.tempC)).foldl max 0))
  | 0x16 => live (beBytes 1 ((hbmSet.map (·.level)).foldl max 0))
  | 0x17 => live (beBytes 1 (maskOf ((List.range 4).filter fun d => (s.dieAt d).inEpisode)))
  | _ => zeros 8

/-- Read one byte and move on. A field read from its first byte comes from one sample; past the last field nothing is
stated. -/
def State.mgmtByte (s : State) (tel : Telemetry) : State × Byte :=
  let o := s.phys.readOffset
  let next := (o + 1) % 256
  match mgmtField o with
  | none => ({ s with phys := { s.phys with readOffset := next, sample := [] }, fresh := s.fresh + 1 }, Config.freeByte s.fresh 0)
  | some (f, n) =>
    if o = f then
      let bs := s.mgmtValue tel f
      let peak := if f = 0x12 then 0 else s.phys.peakW
      ({ s with phys := { s.phys with readOffset := next, sample := bs.drop 1, peakW := peak }, fresh := s.fresh + 1 }, bs.getD 0 0)
    else
      let bs := if s.phys.sample.length = f + n - o then s.phys.sample else (s.mgmtValue tel f).drop (o - f)
      ({ s with phys := { s.phys with readOffset := next, sample := bs.drop 1 } }, bs.getD 0 0)

/-- Read `n` bytes from the offset onward. -/
def State.mgmtRead (s : State) (tel : Telemetry) : Nat → State × List Byte
  | 0 => (s, [])
  | n + 1 =>
    let (s, bs) := s.mgmtRead tel n
    let (s, b) := s.mgmtByte tel
    (s, bs ++ [b])

def execI3cPrivateRead (e : Env) (address length : Nat) (tel : Telemetry) (s : State) : Host.Outcome State Fault Refusal :=
  let s := advance e.dt s
  .next (if s.addressed address then
    let s := { s with phys.peakW := max s.phys.peakW tel.pinW }
    let (s, bs) := s.mgmtRead tel length
    (s.emit .i3cAck).emit (.i3cData bs)
  else s)

end Sys2Proof.Machine
end

