-- ==== Sys2Proof/Machine/Registers.lean ====
section
/-! DEFINITION. The register map, REG_READ and REG_WRITE, and the register access of kindling mode (00 R6, R7, 03 R93 to
R96, 17 R513 to R521, and the register rules of every chapter). -/

namespace Sys2Proof.Machine

/-- What a read of a register gives: its value, and the state after the read (00 R7). -/
abbrev RegRead := Option (Nat × State)

/-- A register that a read leaves as it is. -/
def State.gives (s : State) (v : Nat) : RegRead := some (v % 2 ^ 32, s)

/-- A register with fields that a read clears: `f` is the state with them cleared. -/
def State.givesRc (_ : State) (v : Nat) (f : State) : RegRead := some (v % 2 ^ 32, f)

/-- The least significant 32 bits, and the next 32. -/
def lo32 (n : Nat) : Nat := n % 2 ^ 32
def hi32 (n : Nat) : Nat := n / 2 ^ 32 % 2 ^ 32

/-- Word `i` of a byte string in the order of 18 R554. -/
def wordOf (bs : List Byte) (i : Nat) : Nat := leAt bs (4 * i) 4

/-! ## Identity and fuse readout (17 R521, R522, 18 R557, R574) -/

def State.kindleCtrl (s : State) : Nat :=
  b2n s.boot.fastResume * 16 + s.set.distMode * 32 + s.set.autoResume * 64 + s.set.checkWindow * 128

/-- Milliseconds in the running step, or in the last one. -/
def State.elapsedMs (s : State) : Nat :=
  min 0x3FFF (((if s.boot.stepRunning = 0 then s.boot.stepEnd else s.clock.steady) - s.boot.stepStart) / 1000000)

def State.kindleStatus (s : State) : Nat :=
  s.boot.stepDone + s.boot.stepRunning * 16 + s.boot.result * 256 + s.boot.failCode * 1024 + s.elapsedMs * 2 ^ 18

/-- The registers of die d's fuse record and masks, by block offset. -/
def State.maskReg (s : State) (d off : Nat) : Option Nat :=
  match off with
  | 0x00 => some (lo32 (s.fuseBad d))
  | 0x04 => some (hi32 (s.fuseBad d))
  | 0x08 => some (lo32 (s.boot.bistBad.getD d 0))
  | 0x0C => some (hi32 (s.boot.bistBad.getD d 0))
  | 0x10 => some (lo32 (s.set.coreEnable.getD d 0))
  | 0x14 => some (hi32 (s.set.coreEnable.getD d 0))
  | 0x18 => some (lo32 (s.boot.enabled.getD d 0))
  | 0x1C => some (hi32 (s.boot.enabled.getD d 0))
  | _ => none

def State.readIdentity (s : State) (a : Nat) : RegRead :=
  if a = 0x8000 then s.gives s.kindleCtrl
  else if a = 0x8004 then s.gives s.kindleStatus
  else if 0x8100 ≤ a ∧ a < 0x8100 + s.dieCount * 0x20 then
    (s.maskReg ((a - 0x8100) / 0x20) (a % 0x20)).bind s.gives
  else if a = 0x9000 then s.gives (lo32 s.fuses.serial)
  else if a = 0x9004 then s.gives (hi32 s.fuses.serial)
  else if a = 0x9008 then s.gives s.fuses.keyStatus
  else if 0x9100 ≤ a ∧ a < 0x9180 then
    s.gives (wordOf (keyDigest (s.fuses.keys.getD ((a - 0x9100) / 0x20) KeySlot.reset)) (a % 0x20 / 4))
  else if 0x9200 ≤ a ∧ a ≤ 0x9238 then s.gives (wordOf s.fuses.identityKey ((a - 0x9200) / 4))
  else none

/-! ## NCP and Flue (03 R64, R95, R96) -/

def State.readNcp (s : State) (a : Nat) : RegRead :=
  match a with
  | 0x10000 => s.gives (s.set.mtu + s.set.notifyRetry * 2 ^ 16 + s.set.sessionTimeout * 2 ^ 24)
  | 0x10004 => s.givesRc s.net.discards { s with net.discards := 0 }
  | 0x10008 => s.givesRc s.net.duplicates { s with net.duplicates := 0 }
  | 0x1000C => s.givesRc s.net.notifyDiscards { s with net.notifyDiscards := 0 }
  | 0x10010 => s.gives (s.net.sessions.filter (·.opened)).length
  | 0x10100 => s.gives s.set.netFlags
  | 0x10104 => s.gives s.set.ipv4Addr
  | 0x10108 => s.gives s.set.ipv4Prefix
  | 0x1010C => s.gives s.set.ipv4Gateway
  | 0x10110 => s.gives (s.set.ipv6Addr.getD 0 0)
  | 0x10114 => s.gives (s.set.ipv6Addr.getD 1 0)
  | 0x10118 => s.gives (s.set.ipv6Addr.getD 2 0)
  | 0x1011C => s.gives (s.set.ipv6Addr.getD 3 0)
  | 0x10120 => s.gives s.set.ipv6Prefix
  | 0x10130 => s.gives (s.set.ipv6Gateway.getD 0 0)
  | 0x10134 => s.gives (s.set.ipv6Gateway.getD 1 0)
  | 0x10138 => s.gives (s.set.ipv6Gateway.getD 2 0)
  | 0x1013C => s.gives (s.set.ipv6Gateway.getD 3 0)
  | _ => none

/-! ## Stoker and media time -/

/-- Whole seconds of holdover left, 0 outside HOLDOVER (02 R24, R29). -/
def State.holdoverLeft (s : State) : Nat :=
  if s.clock.state = .holdover then (s.clock.holdoverSince + 60000000000 - s.clock.steady) / 1000000000 else 0

def State.mtStatus (s : State) : Nat :=
  s.clock.state.code + b2n s.clock.ppsPresent * 4 + b2n s.clock.fsyncPresent * 8 + b2n s.clock.arbSeen * 16
    + b2n s.clock.stepPending * 32 + s.holdoverLeft * 2 ^ 16

def PState.code : PState → Nat
  | .run => 0
  | .s1 => 1
  | .s2 => 2
  | .s3 => 3
  | .entering => 4
  | .leaving => 5
  | .exitFailed => 6

/-- SUPPLY_STATUS of a die (17 R548). -/
def Die.supplyStatus (x : Die) : Nat :=
  x.railMv % 1024 + b2n x.inEpisode * 1024 + b2n x.sustained * 2048 + x.episodes * 2 ^ 16

/-- The single registers of the Stoker's region; `now` is the media time that a read of MT_NOW_LO gives. -/
def State.readStoker (s : State) (now a : Nat) : RegRead :=
  match a with
  | 0x24000 => s.gives s.mtCtrl
  | 0x24004 => s.gives s.mtStatus
  | 0x24008 => s.givesRc (lo32 now) { s with clock.mtNowHi := hi32 now }
  | 0x2400C => s.gives s.clock.mtNowHi
  | 0x24010 => s.gives 0
  | 0x24014 => s.gives s.set.mtEpoch
  | 0x24100 => s.gives s.set.stallLimit
  | 0x24200 => s.gives (s.set.fbLowWater + s.set.fbHighWater * 2 ^ 16)
  | 0x24204 => s.gives (s.freeGranules .firebox)
  | 0x24208 => s.gives (s.freeGranules .woodshed)
  | 0x2420C => s.givesRc s.mem.demotions { s with mem.demotions := 0 }
  | 0x24210 => s.givesRc s.mem.reclaims { s with mem.reclaims := 0 }
  | 0x24400 => s.gives (s.kv.frames.filter fun f => f.state = .free).length
  | 0x24404 => s.gives (s.kv.frames.filter fun f => f.state = .ash).length
  | 0x24408 => s.gives (65536 - s.kv.boughsUsed)
  | 0x2440C => s.givesRc s.kv.pagesKept { s with kv.pagesKept := 0 }
  | 0x24410 => s.givesRc s.kv.pagesCulled { s with kv.pagesCulled := 0 }
  | 0x24500 => s.gives (s.seqs.table.filter fun q => q.state ≠ .closed).length
  | 0x24504 => s.givesRc s.seqs.computed { s with seqs.computed := 0 }
  | 0x24508 => s.givesRc s.seqs.reused { s with seqs.reused := 0 }
  | 0x24600 => s.givesRc s.watch.replays { s with watch.replays := 0 }
  | 0x24604 => s.givesRc s.watch.widened { s with watch.widened := 0 }
  | 0x24608 => s.givesRc s.watch.witnessTiles { s with watch.witnessTiles := 0 }
  | 0x2460C => s.givesRc s.watch.witnessFails { s with watch.witnessFails := 0 }
  | 0x24700 => s.gives (s.set.collWaitLimit + s.set.collSettleLimit * 2 ^ 16)
  | 0x24704 => s.givesRc s.zhevub.mismatches { s with zhevub.mismatches := 0 }
  | 0x24708 => s.givesRc s.zhevub.retracts { s with zhevub.retracts := 0 }
  | 0x2470C => s.givesRc s.zhevub.resends { s with zhevub.resends := 0 }
  | 0x24710 => s.givesRc s.zhevub.tainted { s with zhevub.tainted := 0 }
  | 0x24A20 => s.gives (s.boot.lastCause + s.boot.supplyDie * 8)
  | 0x24A24 => s.gives s.boot.target
  | 0x24A28 => s.gives s.boot.pstate.code
  | 0x25000 => s.gives s.set.windowUs
  | _ => none

/-- A partition's block (15 R485, R486): one that does not exist reads zero. -/
def State.readPart (s : State) (q off : Nat) : RegRead :=
  match s.part? q with
  | none => if off < 0x20 then s.gives 0 else none
  | some p =>
    if off = 0 then s.gives (p.clusters + 2 ^ 16 + b2n p.resetting * 2 ^ 17)
    else if off = 4 then s.gives (s.slotsUsed q + p.slotQuota * 2 ^ 16)
    else if off < 0x1C then
      let k := (off - 8) / 4
      s.givesRc (p.damper k).waitUs (s.modDamper q k fun d => { d with waitUs := 0 })
    else s.gives 0

/-- A port's block (19 R591). A read of a low half latches its high half. -/
def State.readPort (s : State) (n off : Nat) : RegRead :=
  let p := s.ctrs.ports.getD n Port.reset
  let put := fun q : Port => { s with ctrs.ports := s.ctrs.ports.set n q }
  match off with
  | 0x00 => s.gives p.last0
  | 0x04 => s.gives p.last1
  | 0x08 => s.givesRc p.peak (put { p with peak := 0 })
  | 0x0C => s.gives 0
  | 0x10 => s.givesRc (lo32 (p.total0 / 64)) (put { p with hi0 := hi32 (p.total0 / 64) })
  | 0x14 => s.gives p.hi0
  | 0x18 => s.givesRc (lo32 (p.total1 / 64)) (put { p with hi1 := hi32 (p.total1 / 64) })
  | 0x1C => s.gives p.hi1
  | _ => none

/-- The watch entry of a partition, if it has one. -/
def State.watchEntry? (s : State) (q e : Nat) : Option WatchEntry :=
  (s.watch.parts.find? (·.partition = q)).bind fun w => w.entries.find? (·.index = e)

/-- WATCH_NORM and WATCH_STATE (12 R408). -/
def State.readWatch (s : State) (q e : Nat) (state : Bool) : RegRead :=
  match s.watchEntry? q e with
  | none => s.gives 0
  | some w =>
    if state then s.gives (w.silence + w.holdLeft * 2 ^ 16 + b2n w.wide * 2 ^ 24 + b2n w.flagged * 2 ^ 25)
    else s.gives w.norm

def State.readStokerBlocks (s : State) (a : Nat) : RegRead :=
  if 0x24300 ≤ a ∧ a < 0x24400 then
    let q := (a - 0x24300) / 16
    if a % 16 = 0 then s.gives (s.held q .firebox) else if a % 16 = 4 then s.gives (s.held q .woodshed) else none
  else if 0x24800 ≤ a ∧ a < 0x24A00 then s.readPart ((a - 0x24800) / 0x20) (a % 0x20)
  else if 0x24A00 ≤ a ∧ a < 0x24A00 + 4 * s.dieCount then
    let d := (a - 0x24A00) / 4
    s.givesRc (s.dieAt d).supplyStatus (s.modDie d fun x => { x with episodes := 0 })
  else if 0x25100 ≤ a ∧ a < 0x25100 + 101 * 0x20 then s.readPort ((a - 0x25100) / 0x20) (a % 0x20)
  else if 0x28000 ≤ a ∧ a < 0x30000 then
    s.readWatch ((a - 0x28000) / 2048) ((a - 0x28000) / 8 % 256) (decide (a % 8 = 4))
  else none

/-! ## Flash and Heartwood (17 R527, 18 R553, R554, R573) -/

def SlotState.code : SlotState → Nat
  | .empty => 0
  | .staged => 1
  | .active => 2
  | .bad => 3

def State.fwStatus (s : State) : Nat :=
  s.fw.activeSlot + (s.slotState 0).code * 2 + (s.slotState 1).code * 8 + b2n s.fw.fellBack * 32
    + b2n s.fw.armed.isSome * 64 + b2n s.fwBusy * 128 + b2n s.fw.defaulted * 256 + s.fuses.minSecurity * 2 ^ 16

/-- A defect-log entry as it lies (R527). -/
def Defect.bytes (x : Defect) : List Byte := leBytes 1 x.die ++ leBytes 1 x.core ++ leBytes 1 x.kind ++ zeros 1 ++ leBytes 4 x.bootCount ++ zeros 8

def State.readFlash (s : State) (a : Nat) : RegRead :=
  if a = 0x40000 then s.gives s.fwStatus
  else if a = 0x40004 then s.gives (fwVersion (s.slotImage 0))
  else if a = 0x40008 then s.gives (fwVersion (s.slotImage 1))
  else if a = 0x4000C then s.gives (fwSecurity (s.slotImage 0) % 128 + fwSecurity (s.slotImage 1) % 128 * 256)
  else if a = 0x40010 then s.gives (lo32 ((s.fw.armed.map Prod.snd).getD 0))
  else if a = 0x40014 then s.gives (hi32 ((s.fw.armed.map Prod.snd).getD 0))
  else if 0x40040 ≤ a ∧ a ≤ 0x4007C then s.gives (wordOf (s.fwSlot 0).digest ((a - 0x40040) / 4))
  else if 0x40080 ≤ a ∧ a ≤ 0x400BC then s.gives (wordOf (s.fwSlot 1).digest ((a - 0x40080) / 4))
  else if a = 0x40100 then s.gives (s.fw.progSlot.getD 0)
  else if a = 0x40104 then s.gives s.fw.progOffset
  else if 0x40400 ≤ a ∧ a ≤ 0x407FC then s.gives 0
  else if a = 0x41000 then s.gives s.flash.defects.length
  else if 0x41010 ≤ a ∧ a < 0x41010 + 16 * 1024 then
    s.gives (wordOf ((s.flash.defects[(a - 0x41010) / 16]?.map Defect.bytes).getD []) ((a - 0x41010) % 16 / 4))
  else none

/-! ## Hearth dies (04 R156 to R161, 07 R252, R257, 08 R298, 11 R380, 13 R427, R428, 14 R439 to R442) -/

/-- CORE_STATUS. -/
def State.coreStatus (s : State) (n : Nat) : Nat :=
  let c := s.coreAt n
  if !s.enabled n then 4
  else if c.run = 0 then 0
  else
    let state := if c.halting then 3 else if c.stalledSince.isSome then 2 else 1
    state + (match c.unretired with | m :: _ => m.index | [] => c.next) * 256

def State.readCore (s : State) (n off : Nat) : RegRead :=
  let c := s.coreAt n
  let put := fun (f : CoreSt → CoreSt) => s.modCore n f
  match off with
  | 0x00 => s.gives (s.coreStatus n)
  | 0x04 => s.gives (((s.seqs.runs.find? fun r => r.id = c.run && decide (c.run ≠ 0)).map (·.launchSeq)).getD 0)
  | 0x08 => match c.phys with
    | some p => s.gives (p % 6 + p / 6 * 8 + 64)
    | none => s.gives 0
  | 0x0C => s.givesRc (c.slotsUsed + c.dropped * 256) (put fun c => { c with dropped := 0 })
  | 0x10 => s.givesRc (c.hobCorrected + c.hobPoisoned * 2 ^ 16) (put fun c => { c with hobCorrected := 0, hobPoisoned := 0 })
  | 0x14 => s.gives (c.poisonSector * 64 + b2n c.poisonValid * 2 ^ 31)
  | 0x18 => s.givesRc (c.tableLoads + c.monoFails * 2 ^ 16 + b2n (c.banks.getD 0 Bank.reset).valid * 2 ^ 24
      + b2n (c.banks.getD 1 Bank.reset).valid * 2 ^ 25) (put fun c => { c with tableLoads := 0, monoFails := 0 })
  | 0x1C => s.givesRc (c.updates + c.nonfiniteWeights * 2 ^ 16) (put fun c => { c with updates := 0, nonfiniteWeights := 0 })
  | 0x20 => s.givesRc (c.rootConverged + c.rootSkipped * 2 ^ 8 + c.rootNotConverged * 2 ^ 16 + c.rootNonfinite * 2 ^ 24)
      (put fun c => { c with rootConverged := 0, rootSkipped := 0, rootNotConverged := 0, rootNonfinite := 0 })
  | _ => none

def State.readStack (s : State) (k off : Nat) : RegRead :=
  let x := s.stackAt k
  match off with
  | 0x00 => s.givesRc (x.corrected + x.uncorrectable * 2 ^ 16)
      (s.modStack k fun x => { x with corrected := 0, uncorrectable := 0 })
  | 0x04 => s.givesRc (x.tempC % 256 + x.level * 256 + x.levelChanges * 2 ^ 16) (s.modStack k fun x => { x with levelChanges := 0 })
  | _ => none

/-- LINK_STATUS. -/
def State.linkStatus (s : State) (k : Nat) : Nat :=
  let l := s.linkAt k
  l.state.code + l.width * 4 + b2n l.narrow * 16 + l.reason * 32 + l.lanes * 256 + l.protoMinor * 2 ^ 12
    + l.protoMajor * 2 ^ 16 + s.set.linkRetrain.getD k 0 * 2 ^ 20

def State.readLink (s : State) (k off : Nat) : RegRead :=
  let l := s.linkAt k
  match off with
  | 0x00 => s.gives (s.linkStatus k)
  | 0x04 => s.gives (lo32 l.peerSerial)
  | 0x08 => s.gives (hi32 l.peerSerial)
  | 0x0C => s.givesRc (l.fecErrors + l.crcFails * 2 ^ 16 + l.checksumFails * 2 ^ 24)
      (s.modLink k fun l => { l with fecErrors := 0, crcFails := 0, checksumFails := 0 })
  | 0x10 => s.givesRc l.replaysCount (s.modLink k fun l => { l with replaysCount := 0 })
  | 0x14 => s.givesRc l.unknownFrames (s.modLink k fun l => { l with unknownFrames := 0 })
  | 0x18 => s.givesRc l.forwardDiscards (s.modLink k fun l => { l with forwardDiscards := 0 })
  | _ => none

/-- Hearth die d, by the offset in its region. -/
def State.readDie (s : State) (d off : Nat) : RegRead :=
  if 0x10000 ≤ off ∧ off < 0x18000 then s.readCore (32 * d + (off - 0x10000) / 0x400) (off % 0x400)
  else if 0x20000 ≤ off ∧ off < 0x20800 then s.readStack (8 * d + (off - 0x20000) / 0x100) (off % 0x100)
  else if off = 0x30000 then s.givesRc (s.kv.ptcHits.getD d 0) { s with kv.ptcHits := s.kv.ptcHits.set d 0 }
  else if off = 0x30004 then s.givesRc (s.kv.ptcMisses.getD d 0) { s with kv.ptcMisses := s.kv.ptcMisses.set d 0 }
  else if 0x40000 ≤ off ∧ off < 0x40400 then s.readLink (16 * d + (off - 0x40000) / 0x40) (off % 0x40)
  else none

/-! ## Codec engines (16 R510, R511) -/

def State.readCodec (s : State) (e off : Nat) : RegRead :=
  let x := s.codec.engines.getD e CodecEngine.reset
  let put := fun (f : CodecEngine → CodecEngine) => { s with codec.engines := s.codec.engines.modify e f }
  match off with
  | 0x00 => s.gives ((s.codec.handles.filter (·.engine = e)).length + b2n x.busy * 32 + x.syntaxFill * 256)
  | 0x04 => s.givesRc x.framesEncoded (put fun x => { x with framesEncoded := 0 })
  | 0x08 => s.givesRc x.framesDecoded (put fun x => { x with framesDecoded := 0 })
  | 0x0C => s.givesRc x.requantCount (put fun x => { x with requantCount := 0 })
  | 0x10 => s.givesRc x.skipFrames (put fun x => { x with skipFrames := 0 })
  | 0x14 => s.givesRc x.fillerBytes (put fun x => { x with fillerBytes := 0 })
  | 0x18 => s.givesRc x.decodeErrors (put fun x => { x with decodeErrors := 0 })
  | _ => none

/-! ## The whole map -/

/-- Read one register; none when the address is unmapped: no rule names a register there, or its unit is absent (log
entry 36). -/
def State.readReg (s : State) (now a : Nat) : RegRead :=
  if a % 4 ≠ 0 then none
  else if a < 0x10000 then s.readIdentity a
  else if a < 0x20000 then s.readNcp a
  else if a < 0x30000 then
    match s.readStoker now a with
    | some r => some r
    | none => s.readStokerBlocks a
  else if 0x40000 ≤ a ∧ a < 0x50000 then s.readFlash a
  else if 0x100000 ≤ a ∧ a < 0x100000 * (1 + s.dieCount) then s.readDie (a / 0x100000 - 1) (a % 0x100000)
  else if 0x800000 ≤ a ∧ a < 0x800000 + 0x10000 * s.fuses.variant.engines then
    s.readCodec ((a - 0x800000) / 0x10000) (a % 0x10000)
  else none

def State.mapped (s : State) (a : Nat) : Bool := (s.readReg 0 a).isSome

/-- Read registers in ascending address order. -/
def State.readRegs (s : State) (now : Nat) : List Nat → State × List Nat
  | [] => (s, [])
  | a :: as =>
    match s.readReg now a with
    | none => (s, [])
    | some (v, s) =>
      let (s, vs) := s.readRegs now as
      (s, v :: vs)

/-! ## Writes -/

/-- Change a Heartwood field: it is in force at once and stored soon (18 R571). -/
def State.setField (s : State) (f : Settings → Settings) : State := { s with set := f s.set }.storeSoon

/-- A written field with its range: the state, and whether the value was out of its range. -/
def State.ranged (s : State) (ok : Bool) (f : Settings → Settings) : State × Bool := if ok then (s.setField f, false) else (s, true)

/-- Apply a list of field writes. -/
def State.fields (s : State) (ws : List (Bool × (Settings → Settings))) : State × Bool :=
  ws.foldl (fun acc w => let r := acc.1.ranged w.1 w.2; (r.1, acc.2 || r.2)) (s, false)

/-- The fields of KINDLE_CTRL that a write sets beside STEP. -/
def State.kindleFields (s : State) (v : Nat) : State × Bool :=
  { s with boot.fastResume := v.testBit 4 }.fields [
    (true, fun x => { x with distMode := bitsOf v 5 5, autoResume := bitsOf v 6 6 }),
    (decide (5 ≤ bitsOf v 12 7) && decide (bitsOf v 12 7 ≤ 50), fun x => { x with checkWindow := bitsOf v 12 7 })]

/-- A write of KINDLE_CTRL (17 R520). A write of 3 with a later step done begins with a warm reset. -/
def State.writeKindle (s : State) (v : Nat) : State × Bool :=
  let n := bitsOf v 3 0
  if s.boot.mode = .kindling ∧ s.boot.stepRunning = 0 ∧ 3 ≤ n ∧ n ≤ s.boot.stepDone + 1 ∧ n ≤ 11 then
    let s := if n = 3 ∧ 3 ≤ s.boot.stepDone then s.warmReset 4 0 else s
    let (s, bad) := s.kindleFields v
    (s.startStep n, bad)
  else (s, true)

/-- A write of half a CORE_ENABLE mask. -/
def State.writeEnable (s : State) (d : Nat) (high : Bool) (v : Nat) : State :=
  let old := s.set.coreEnable.getD d 0
  let new := if high then lo32 old + v % 16 * 2 ^ 32 else v % 2 ^ 32 + hi32 old * 2 ^ 32
  s.setField fun x => { x with coreEnable := x.coreEnable.set d new }

/-- A write that takes both of its fields or neither (07 R234). -/
def State.writePool (s : State) (v : Nat) : State × Bool :=
  s.ranged (decide (bitsOf v 15 0 < bitsOf v 31 16)) fun x => { x with fbLowWater := bitsOf v 15 0, fbHighWater := bitsOf v 31 16 }

/-- MT_CTRL as a register: some field written is out of its range (02 R28). -/
def mtCtrlBad (v : Nat) : Bool :=
  decide (bitsOf v 1 0 = 3) || decide (bitsOf v 3 2 = 3) || decide (127 < bitsOf v 15 8)
    || decide (bitsOf v 27 16 < 5) || decide (200 < bitsOf v 27 16)

def between (lo n hi : Nat) : Bool := decide (lo ≤ n) && decide (n ≤ hi)

/-- Write one mapped register: RO and RC fields are ignored without error (00 R7). Also whether some field was written
out of its range, and so kept its value. -/
def State.writeReg (s : State) (a v : Nat) : State × Bool :=
  match a with
  | 0x8000 => s.writeKindle v
  | 0x10000 => s.fields [
      (between 1280 (bitsOf v 13 0) 9000, fun x => { x with mtu := bitsOf v 13 0 }),
      (between 1 (bitsOf v 23 16) 255, fun x => { x with notifyRetry := bitsOf v 23 16 }),
      (between 1 (bitsOf v 31 24) 255, fun x => { x with sessionTimeout := bitsOf v 31 24 })]
  | 0x10100 => s.ranged true fun x => { x with netFlags := v % 4 }
  | 0x10104 => s.ranged true fun x => { x with ipv4Addr := v }
  | 0x10108 => s.ranged (decide (v % 64 ≤ 32)) fun x => { x with ipv4Prefix := v % 64 }
  | 0x1010C => s.ranged true fun x => { x with ipv4Gateway := v }
  | 0x10110 => s.ranged true fun x => { x with ipv6Addr := x.ipv6Addr.set 0 v }
  | 0x10114 => s.ranged true fun x => { x with ipv6Addr := x.ipv6Addr.set 1 v }
  | 0x10118 => s.ranged true fun x => { x with ipv6Addr := x.ipv6Addr.set 2 v }
  | 0x1011C => s.ranged true fun x => { x with ipv6Addr := x.ipv6Addr.set 3 v }
  | 0x10120 => s.ranged (decide (v % 256 ≤ 128)) fun x => { x with ipv6Prefix := v % 256 }
  | 0x10130 => s.ranged true fun x => { x with ipv6Gateway := x.ipv6Gateway.set 0 v }
  | 0x10134 => s.ranged true fun x => { x with ipv6Gateway := x.ipv6Gateway.set 1 v }
  | 0x10138 => s.ranged true fun x => { x with ipv6Gateway := x.ipv6Gateway.set 2 v }
  | 0x1013C => s.ranged true fun x => { x with ipv6Gateway := x.ipv6Gateway.set 3 v }
  | 0x24000 => (s.writeMtCtrl v, mtCtrlBad v)
  | 0x24004 => ({ s with clock.arbSeen := s.clock.arbSeen && !v.testBit 4 }, false)
  | 0x24010 => (s.writeMtSetSeconds v, false)
  | 0x24014 => s.ranged true fun x => { x with mtEpoch := v }
  | 0x24100 => s.ranged (between 1 (bitsOf v 13 0) 10000) fun x => { x with stallLimit := bitsOf v 13 0 }
  | 0x24200 => s.writePool v
  | 0x24700 => s.fields [
      (decide (bitsOf v 15 0 ≠ 0), fun x => { x with collWaitLimit := bitsOf v 15 0 }),
      (decide (bitsOf v 31 16 ≠ 0), fun x => { x with collSettleLimit := bitsOf v 31 16 })]
  | 0x24A24 => (s.writeTarget (v % 4), false)
  | 0x25000 => s.ranged (between 10 (bitsOf v 16 0) 100000) fun x => { x with windowUs := bitsOf v 16 0 }
  | 0x40100 => if v < 2 then (s.progSlot v, false) else (s, true)
  | _ =>
    if 0x8100 ≤ a ∧ a < 0x8180 ∧ (a % 0x20 = 0x10 ∨ a % 0x20 = 0x14) then
      (s.writeEnable ((a - 0x8100) / 0x20) (decide (a % 0x20 = 0x14)) v, false)
    else if 0x100000 ≤ a ∧ a < 0x500000 then
      let d := a / 0x100000 - 1
      let off := a % 0x100000
      if 0x10000 ≤ off ∧ off < 0x18000 ∧ off % 0x400 = 0x14 then
        (s.modCore (32 * d + (off - 0x10000) / 0x400) fun c => { c with poisonValid := c.poisonValid && !v.testBit 31 }, false)
      else if 0x40000 ≤ off ∧ off < 0x40400 ∧ off % 0x40 = 0 then
        s.ranged true fun x => { x with linkRetrain := x.linkRetrain.set (16 * d + (off - 0x40000) / 0x40) (bitsOf v 20 20) }
      else (s, false)
    else (s, false)

/-- Write registers in ascending address order. -/
def State.writeRegs (s : State) (ws : List (Nat × Nat)) : State × Bool :=
  ws.foldl (fun acc w => let r := acc.1.writeReg w.1 w.2; (r.1, acc.2 || r.2)) (s, false)

/-! ## REG_READ and REG_WRITE (03 R93, R94) -/

def opRegRead : Op := { code := 0x0F00, scope := .module, notify := false, deadline := false, minLen := 8 }
def opRegWrite : Op := { code := 0x0F01, scope := .module, notify := false, deadline := false, minLen := 8 }

/-- The addresses a range names. -/
def regRange (a n : Nat) : List Nat := (List.range n).map fun i => a + 4 * i

def Ctx.regRange (c : Ctx) : List Nat := Machine.regRange (c.be 0 4) (c.be 4 2)

/-- The regions REG_WRITE may write after READY (R94). -/
def regWritable (a : Nat) : Bool := decide (0x10000 ≤ a) && decide (a < 0x30000)

def regReadCheck (c : Ctx) (s : State) : Option Bad :=
  firstBad [
    badIf (c.be 0 4 % 4 ≠ 0 || decide (c.be 4 2 = 0) || decide (256 < c.be 4 2)) 7,
    badIf (!c.regRange.all s.mapped) 6]

def regWriteCheck (c : Ctx) (s : State) : Option Bad :=
  firstBad [
    badIf (c.be 0 4 % 4 ≠ 0 || decide (c.be 4 2 = 0) || decide (256 < c.be 4 2)) 7,
    badIf (decide (c.params.length < 8 + 4 * c.be 4 2)) 2,
    badIf (!c.regRange.all s.mapped) 6,
    badIf (!c.regRange.all regWritable) 0x10]

def regReadEffect (c : Ctx) (s : State) : State × List Byte :=
  let (s, vs) := s.readRegs c.stamp c.regRange
  (s, (vs.map (beBytes 4)).flatten)

def regWriteEffect (c : Ctx) (s : State) : State × List Byte :=
  ((s.writeRegs ((List.range (c.be 4 2)).map fun i => (c.be 0 4 + 4 * i, c.be (8 + 4 * i) 4))).1, [])

def execRegRead (p : Packet) (s : State) : Host.Outcome State Fault Refusal :=
  .next (replyOp opRegRead regReadCheck never nothing regReadEffect p s)

def execRegWrite (p : Packet) (s : State) : Host.Outcome State Fault Refusal :=
  .next (replyOp opRegWrite regWriteCheck never nothing regWriteEffect p s)

/-! ## RAP (17 R513 to R518) -/

/-- The bytes of a request or reply up to RAP_CRC (R514). -/
def rapBody (kind op seq address count status : Nat) (values : List Nat) : List Byte :=
  beBytes 2 0x4958 ++ beBytes 1 kind ++ beBytes 1 op ++ beBytes 4 seq ++ beBytes 4 address ++ beBytes 2 count
    ++ beBytes 2 status ++ (values.map (beBytes 4)).flatten

def withCrc (b : List Byte) : List Byte := b ++ beBytes 4 (crc32c b)

/-- The host's address is link-local: fe80::/10. -/
def linkLocalSource : IpAddr → Bool
  | .v4 _ => false
  | .v6 w => decide (w.toNat / 2 ^ 118 = 0xFE80 / 64)

/-- The conditions under which a RAP packet is discarded (R513, R515): `n` values belong to the request, COUNT of them
in a READ or WRITE (log entry 37). -/
def State.rapDiscards (s : State) (r : RapPacket) (op : Nat) : Bool :=
  let body := rapBody r.kind.toNat op r.seq.toNat r.address.toNat r.count.toNat r.status.toNat (r.values.map (·.toNat))
  let n := if op < 2 then r.count.toNat else 0
  decide (s.boot.mode ≠ .kindling) || !linkLocalSource r.src.ip || decide (r.magic.toNat ≠ 0x4958)
    || decide (r.kind.toNat ≠ 0x52) || decide (r.values.length ≠ n) || decide ((crc32c (beBytes 2 r.magic.toNat ++ body.drop 2)) ≠ r.crc.toNat)

def State.owns (s : State) (e : Endpoint) : Bool := s.boot.owner.any fun o => o.peer = e

/-- Send a reply; one to the owner is kept (R518). -/
def State.rapReply (s : State) (r : RapPacket) (op status : Nat) (values : List Nat) (keep : Bool) : State :=
  let b := withCrc (rapBody 0x72 op r.seq.toNat r.address.toNat r.count.toNat status values)
  let s := if keep then { s with boot.lastRap := some { seq := r.seq.toNat, bytes := b } } else s
  s.emit (.udp 46212 r.src b)

/-- The VALUES of a READ that is turned away, which no rule gives. -/
def State.openValues (s : State) (n : Nat) : List Nat × State :=
  ((List.range n).map fun i => Config.freeNat (s.fresh + i) % 2 ^ 32, { s with fresh := s.fresh + n })

/-- Turn a READ or WRITE away with a status. -/
def State.rapRefuse (s : State) (r : RapPacket) (op status : Nat) (keep : Bool) : State :=
  if op = 0 then
    let (vs, s) := s.openValues r.count.toNat
    s.rapReply r op status vs keep
  else s.rapReply r op status [] keep

/-- The owner has sent a packet. -/
def State.rapHeard (s : State) (e : Endpoint) : State :=
  if s.owns e then { s with boot.owner := some { peer := e, last := s.clock.steady } } else s

/-- COUNT and every address are in the map (R517). -/
def State.rapAddressOk (s : State) (r : RapPacket) : Bool :=
  between 1 r.count.toNat 256 && (regRange r.address.toNat r.count.toNat).all s.mapped

def State.rapRead (s : State) (r : RapPacket) : State :=
  if !s.owns r.src then s.rapRefuse r 0 1 false
  else if !s.rapAddressOk r then s.rapRefuse r 0 2 true
  else
    let (s, vs) := s.readRegs s.clock.mt (regRange r.address.toNat r.count.toNat)
    s.rapReply r 0 0 vs true

/-- Some address of a write lies in FLASH_PROG_BUFFER. -/
def touchesBuffer (as : List Nat) : Bool := as.any (between 0x40400 · 0x407FC)

def State.rapWrite (s : State) (r : RapPacket) : State :=
  if !s.owns r.src then s.rapRefuse r 1 1 false
  else if !s.rapAddressOk r then s.rapRefuse r 1 2 true
  else
    let as := regRange r.address.toNat r.count.toNat
    let vs := r.values.map (·.toNat)
    if touchesBuffer as then
      if r.address.toNat = 0x40400 ∧ r.count.toNat = 256 then (s.progBuffer vs).rapReply r 1 0 [] true
      else s.rapReply r 1 3 [] true
    else
      let (s, bad) := s.writeRegs (as.zip vs)
      s.rapReply r 1 (if bad then 3 else 0) [] true

/-- CLAIM: the sender becomes the owner, unless another owner has sent a packet in the last 10 s (R516). -/
def State.rapClaim (s : State) (r : RapPacket) : State :=
  if s.boot.owner.any fun o => o.peer ≠ r.src && decide (s.clock.steady < o.last + 10000000000) then s.rapReply r 2 1 [] false
  else { s with boot.owner := some { peer := r.src, last := s.clock.steady } }.rapReply r 2 0 [] true

/-- RELEASE: the owner's ends ownership; another sender's is answered NOT_OWNER (log entry 37). -/
def State.rapRelease (s : State) (r : RapPacket) : State :=
  if s.owns r.src then { s.rapReply r 3 0 [] true with boot.owner := none } else s.rapReply r 3 1 [] false

/-- A RAP request: discarded, answered from the stored reply, or acted on. -/
def rapOp (op : Nat) (act : State → RapPacket → State) (r : RapPacket) (s : State) : State :=
  let s := (advance r.dt s).received r.src.ip (20 + 4 * r.values.length)
  if s.rapDiscards r op then s
  else
    let s := s.rapHeard r.src
    match s.boot.lastRap with
    | some k => if s.owns r.src ∧ k.seq = r.seq.toNat then s.emit (.udp 46212 r.src k.bytes) else act s r
    | none => act s r

def execRapRead (r : RapPacket) (s : State) : Host.Outcome State Fault Refusal := .next (rapOp 0 State.rapRead r s)
def execRapWrite (r : RapPacket) (s : State) : Host.Outcome State Fault Refusal := .next (rapOp 1 State.rapWrite r s)
def execClaim (r : RapPacket) (s : State) : Host.Outcome State Fault Refusal := .next (rapOp 2 State.rapClaim r s)
def execReleaseRap (r : RapPacket) (s : State) : Host.Outcome State Fault Refusal := .next (rapOp 3 State.rapRelease r s)

end Sys2Proof.Machine
end

