-- ==== Sys2Proof/Machine/Tables.lean ====
section
/-! DEFINITION. The end of a load of a custom table (11 R369 to R372). -/

namespace Sys2Proof.Machine

/-- The tensors that a macro-instruction which waits for a table would store, and the status words it would add to. -/
def State.unwritten (s : State) (core : Nat) (r : Run) (m : Macro) : List Tensor × List Nat :=
  let j := m.job core r false
  let e := macroEntry m.entry
  let words := fun ts : List Tensor => (ts.filter (·.status ≠ absent)).map (·.status)
  if e.op = 0x01 then
    match (readMatmul m.hob s j).run.run { descs := [], peeks := [] } with
    | (.ok p, _) => ([p.out], words [p.out])
    | _ => ([], [])
  else if e.op = 0x02 then
    match (readConv m.hob s j).run.run { descs := [], peeks := [] } with
    | (.ok p, _) => ((p.members.getLast?.map (·.out)).toList ++ p.members.filterMap (·.save), words (p.members.map (·.out)))
    | _ => ([], [])
  else if kindPreload.mine m.hob e then ([], [])
  else
    match (readElt m.hob s j).run.run { descs := [], peeks := [] } with
    | (.ok p, _) => ([p.out], words [p.out])
    | _ => ([], [])

/-- What a macro-instruction that stops after issue leaves undefined, like its status words (06 R204, 04 R155). -/
def State.noteUnwritten (s : State) (core : Nat) (r : Run) (m : Macro) : State :=
  let j := m.job core r false
  let (ts, words) := s.unwritten core r m
  let note := fun (s : State) (t : Tensor) (lo n : Nat) =>
    if t.module then s.noteHome j lo n else s.noteOutput core none lo n
  let s := ts.foldl (fun s t => t.rows.foldl (fun s i =>
    let s := note s t (t.base + t.offset i.1 i.2.1 i.2.2) t.rowBytes
    if t.scaled then note s t (t.scaleAddr i.1 i.2.1 i.2.2) t.scaleCount else s) s) s
  (words.foldl (fun s a => s.noteOutput core none a 16) s).claim core m

/-- A load has failed: its bank is empty, and the launch stops at the macro-instruction that caused it. -/
def State.tableFailed (s : State) (core : Nat) (r : Run) (m : Macro) (x : Stop) : State :=
  let s := s.modCore core fun c =>
    { c with banks := c.banks.map fun b => if b.loading then Bank.reset else b
             monoFails := if x.status = 0x0203 then satAdd 8 c.monoFails 1 else c.monoFails }
  let s := (s.noteUnwritten core r m).modMacro core m.index fun m => { m with pending := .none, failed := true, banks := [], status := [] }
  (s.failRun r.id x.status x.cause (s.coreAt core).rel m.index).restall core true

/-- What waited for the table is carried out, by its kind. -/
def State.resumeBound (s : State) (core : Nat) (r : Run) (m : Macro) : State :=
  let e := macroEntry m.entry
  if e.op = 0x01 then s.resume kindMatmul core r m
  else if e.op = 0x02 then s.resume kindConv core r m
  else if kindPreload.mine m.hob e then s.resume kindPreload core r m
  else s.resume kindElt core r m

/-- A bank's table is checked; the macro-instruction that waits is bound to it once no other load of it is left. -/
def State.tableLoaded (s : State) (core : Nat) (r : Run) (m : Macro) (i : Nat) : State :=
  let b := (s.coreAt core).banks.getD i Bank.reset
  match tableStop b.table with
  | some x => s.tableFailed core r m x
  | none =>
    let s := s.modCore core fun c =>
      (c.setBank i { b with valid := true, loading := false }).count 0x06 (ceilDiv (leAt b.table 28 4) 16) (leAt m.entry 0 1)
    let left := m.banks.find? fun k => ((s.coreAt core).banks.getD k Bank.reset).loading
    match left with
    | some k => s.modMacro core m.index fun m => { m with pending := .table k }
    | none => s.resumeBound core r m

/-- FLAME_TABLE_LOAD (R369, R370). -/
def execFlameTableLoad (e : Env) (core : Nat) (s : State) : Host.Outcome State Fault Refusal :=
  let s := enter e s
  let c := s.coreAt core
  .next (match s.run? c.run, c.unretired.find? (fun m => match m.pending with | .table _ => true | _ => false) with
    | some r, some m =>
      match m.pending with
      | .table i => if s.dieMhz (coreDie core) = 0 then s else s.tableLoaded core r m i
      | _ => s
    | _, _ => s)

end Sys2Proof.Machine
end

