-- ==== Sys2Proof/Machine/Update.lean ====
section
/-! DEFINITION. The parameter update unit: the group table, UPDATE with its weight form and preconditioning, and ROOT (13
R411 to R429). -/

namespace Sys2Proof.Machine

/-! ## The group table (R411, R412) -/

structure UpdGroup where
  form : Nat
  flags : Nat
  rootP : Nat
  interval : Nat
  eta : FVal
  decay : FVal
  beta1 : FVal
  beta2 : FVal
  epsilon : FVal
  gradScale : FVal
  damping : FVal
  coeffs : List FVal
  /-- FP32 words of the two powers' bases -/
  words : Nat × Nat
  deriving DecidableEq, Repr

def groupFields (b : List Byte) : UpdGroup :=
  let f := fun o => dec32 (leAt b o 4)
  { form := leAt b 0 1, flags := leAt b 1 1, rootP := leAt b 2 1, interval := leAt b 4 4, eta := f 8, decay := f 12,
    beta1 := f 16, beta2 := f 20, epsilon := f 24, gradScale := f 28, damping := f 32,
    coeffs := (List.range 10).map fun k => f (48 + 4 * k), words := (leAt b 16 4, leAt b 20 4) }

/-- Reserved values and ROOT_P of an entry. -/
def groupShapeOk (b : List Byte) : Bool :=
  decide (leAt b 0 1 < 3) && decide (leAt b 1 1 < 4) && [1, 2, 4].contains (leAt b 2 1) && leAt b 3 1 = 0
    && zeroBytes b 36 48 && zeroBytes b 88 128

def UpdGroup.biasCorrect (g : UpdGroup) : Bool := g.flags.testBit 0
def UpdGroup.nesterov (g : UpdGroup) : Bool := g.flags.testBit 1

/-- A β lies in [0, 1). -/
def betaOk (v : FVal) : Bool := v.isFin && !v.lt .zero && v.lt (.fin false 1)

/-- What UPDATE refuses of an entry (R413). -/
def UpdGroup.bad (g : UpdGroup) : Bool :=
  let used := match g.form with
    | 0 => g.coeffs
    | 1 => [g.eta, g.decay, g.beta1, g.beta2, g.epsilon, g.gradScale]
    | _ => [g.eta, g.decay, g.beta1, g.gradScale]
  used.any (fun v => !v.isFin) || (g.form ≠ 0 && (!betaOk g.beta1 || !betaOk g.beta2))
    || [g.eta, g.decay, g.epsilon].any (fun v => v.lt .zero) || (g.biasCorrect && g.form ≠ 1) || (g.nesterov && g.form ≠ 2)

/-- Read one entry of a group table at issue. -/
def groupAt (h : Hob) (s : State) (j : Job) (a g : Nat) : Rd UpdGroup := do
  let d ← descriptor h a 64
  let base := leAt d 8 8
  let module := leAt d 2 1 = 1
  stopIf (leAt d 0 1 ≠ 0x0F || leAt d 1 1 ≠ 0 || decide (2 ≤ leAt d 2 1) || !zeroBytes d 3 8 || !zeroBytes d 16 64
    || base % 128 ≠ 0) .field
  stopIf (!s.fits j module (base, base + 32768)) .bounds
  let b ← copied h ((if module then moduleMark else 0) + base + 128 * g) 128
  stopIf (!groupShapeOk b) .field
  pure (groupFields b)

/-! ## Coefficients (R413) -/

/-- A unit in the last place of an FP32 value. -/
def ulp32 (x : Rat) : Rat := if x = 0 then pow2 (-149) else pow2 (max (-149) (log2Floor x - 23))

/-- β^t to within two units in the last place. -/
def powerOf (word t : Nat) : FVal :=
  let exact := (dec32 word).rat ^ t
  let near := (rne32 (.fin false exact)).rat
  let x := near + ((Config.power word t % 5 : Nat) - 2 : Int) * ulp32 exact
  if 0 ≤ x ∧ (x - exact) ≤ 2 * ulp32 exact ∧ (exact - x) ≤ 2 * ulp32 exact then rne32 (.fin false x) else .fin false near

/-- a0 to a9 at step t. -/
def UpdGroup.coefficients (g : UpdGroup) (t : Nat) : List FVal :=
  let one : FVal := .fin false 1
  let corr := fun w => if g.biasCorrect then sub32 one (powerOf w t) else one
  match g.form with
  | 0 => g.coeffs
  | 1 => [g.gradScale, g.beta1, sub32 one g.beta1, g.beta2, sub32 one g.beta2, div32 g.eta (corr g.words.1), .zero,
      div32 one (corr g.words.2), g.epsilon, mul32 g.eta g.decay]
  | _ => [g.gradScale, g.beta1, one, .zero, .zero, if g.nesterov then mul32 g.eta g.beta1 else g.eta,
      if g.nesterov then g.eta else .zero, .zero, one, mul32 g.eta g.decay]

/-! ## The weight form (R417, R418) -/

/-- next_up on the BF16 grid, by code; a zero comes out as +0. -/
def nextUp16 (code : Nat) : Nat :=
  if code < 0x8000 then code + 1 else if code = 0x8000 then 1 else if code = 0x8001 then 0 else code - 1

/-- Value of a BF16 code where the code past the largest finite value stands for that value plus 2^120. -/
def wide16 (code : Nat) : Rat := if code = 0x7F80 then pow2 128 else (dec16 code).rat

def ulp16 (code : Nat) : Rat := wide16 (nextUp16 code) - wide16 code

/-- Code of the largest BF16 value at or below w. -/
def floor16 (w : Rat) : Nat :=
  let m := if w < 0 then -w else w
  let e := if m = 0 then -126 else max (-126) (log2Floor m)
  let q := m / pow2 (e - 7)
  let k := if w < 0 then q.ceil.toNat else q.floor.toNat
  let code := ((e + 126) * 128 + k).toNat
  if w < 0 then 0x8000 + code else code

def rand16 (key step idx : Nat) : Nat :=
  let w := 2 ^ 64
  let x := (key + step * 0x9E3779B97F4A7C15 + idx * 0xD1B54A32D192ED03) % w
  let x := (x ^^^ (x / 2 ^ 30)) * 0xBF58476D1CE4E5B9 % w
  let x := (x ^^^ (x / 2 ^ 27)) * 0x94D049BB133111EB % w
  (x ^^^ (x / 2 ^ 31)) / 2 ^ 48

/-- split of R417: codes of h and q; `draw` with STOCHASTIC. -/
def splitWeight (draw : Option Nat) (w : FVal) : Nat × Nat :=
  match w with
  | .nan => (0x7FC0, 0)
  | .inf s => (if s then 0xFF80 else 0x7F80, 0)
  | v =>
    let x := v.rat
    let top := wide16 0x7F7F
    if x < -top then (0xFF80, 0)
    else if top + pow2 120 ≤ x then (0x7F80, 0)
    else
      let h := floor16 x
      let r := (x - wide16 h) * 256 / ulp16 h
      let q := match draw with
        | some d => (r + (d : Rat) / 65536).floor.toNat
        | none => rneNat r
      if q = 256 then (nextUp16 h, 0) else (h, q)

/-- The weight read from (h, q). -/
def joinWeight (h q : Nat) : FVal :=
  match dec16 h with
  | .fin s m => if q = 0 then .fin s m else FVal.ofRat ((FVal.fin s m).rat + q * ulp16 h / 256)
  | v => v

/-! ## UPDATE (R414 to R416) -/

structure UpdPlan where
  coeffs : List FVal
  step : Nat
  stochastic : Bool
  key : Nat
  grad : Tensor
  h : Tensor
  q : Tensor
  m : Option Tensor
  v : Option Tensor
  /-- left and right roots, and the block sizes, under PRECOND -/
  roots : Option (Tensor × Tensor)
  br : Nat
  bc : Nat
  scratch : Nat
  deriving DecidableEq, Repr

def plainTensor (f : Fmt) (t : Tensor) : Bool := t.fmt = f && t.mode = .none && t.scale = 0x3F800000

def momentOk (t : Tensor) : Bool :=
  t.fmt = .fp32 || t.fmt = .bf16 || (t.fmt = .e4m3 && t.mode = .ue4m3)

def wideOk (t : Tensor) : Bool := t.fmt = .fp32 || t.fmt = .bf16

def readUpdate (h : Hob) (s : State) (j : Job) : Rd UpdPlan := do
  let e := j.entry
  entryStop e (e.imm ≠ 0)
  let d ← descriptor h (e.opnd 1) 64
  let flags := leAt d 1 1
  let precond := flags.testBit 0
  let br := leAt d 20 2
  let bc := leAt d 22 2
  let scratch := leAt d 32 8
  let left := leAt d 12 4
  let right := leAt d 16 4
  stopIf (leAt d 0 1 ≠ 0x0E || decide (8 ≤ flags) || leAt d 3 1 ≠ 0 || !zeroBytes d 40 64
    || (if precond then br = 0 || decide (2048 < br) || bc = 0 || decide (2048 < bc) || scratch % 64 ≠ 0
        else left ≠ absent || right ≠ absent || br ≠ 0 || bc ≠ 0 || scratch ≠ 0)) .field
  let step ← if flags.testBit 2 then boundAt h (leAt d 4 4) else pure (leAt d 4 4)
  let g ← groupAt h s j (e.opnd 0) (leAt d 2 1)
  stopIf g.bad .field
  let grad ← tensorAt h s j (leAt d 8 4) true false
  let th ← tensorAt h s j (e.opnd 2) false true
  let tq ← tensorAt h s j (e.opnd 3) false true
  let tm ← optionally (e.opnd 4) (tensorAt h s j (e.opnd 4) false true)
  let tv ← optionally (e.opnd 5) (tensorAt h s j (e.opnd 5) false true)
  stopIf (!plainTensor .bf16 th || !plainTensor .int8 tq || tm.any (fun t => !momentOk t) || tv.any (fun t => !wideOk t)
    || th.e 2 ≠ 1 || th.e 3 ≠ 1 || ([grad, tq] ++ tm.toList ++ tv.toList).any fun t => t.ext ≠ th.ext) .field
  let roots ← if !precond then pure none
    else do
      let l ← tensorAt h s j left false false
      let r ← tensorAt h s j right false false
      let n := ceilDiv (th.e 1) br * ceilDiv (th.e 0) bc
      stopIf (!wideOk l || !wideOk r || l.ext ≠ [br, br, n, 1] || r.ext ≠ [bc, bc, n, 1]) .field
      stopIf (!s.fits j true (scratch, scratch + br * bc * 2)) .bounds
      pure (some (l, r))
  frcUnit s [grad]
  pure { coeffs := g.coefficients (step + 1), step := step, stochastic := flags.testBit 1, key := leAt d 24 8, grad := grad,
         h := th, q := tq, m := tm, v := tv, roots := roots, br := if precond then br else max 1 (th.e 1),
         bc := if precond then bc else max 1 (th.e 0), scratch := scratch }

/-- m1, v1 and w1 of an element (R416). -/
def UpdPlan.element (p : UpdPlan) (w pg m v : FVal) : FVal × FVal × FVal :=
  let a := fun k => p.coeffs.getD k .zero
  let u := mul32 (a 0) pg
  let m1 := add32 (mul32 (a 1) m) (mul32 (a 2) u)
  let v1 := add32 (mul32 (a 3) v) (mul32 (mul32 (a 4) u) u)
  let n := add32 (mul32 (a 5) m1) (mul32 (a 6) u)
  let d := add32 (sqrt32 (mul32 (a 7) v1)) (a 8)
  (m1, v1, sub32 (sub32 w (div32 n d)) (mul32 (a 9) w))

/-- A block of the layer: block row and column, rows [r0, r1) and columns [c0, c1). -/
structure UpdBlock where
  i : Nat
  j : Nat
  r0 : Nat
  r1 : Nat
  c0 : Nat
  c1 : Nat
  deriving DecidableEq, Repr

def UpdPlan.blocks (p : UpdPlan) : List UpdBlock :=
  let (n, k) := (p.h.e 1, p.h.e 0)
  ((List.range (ceilDiv n p.br)).map fun i => (List.range (ceilDiv k p.bc)).map fun j =>
    { i := i, j := j, r0 := i * p.br, r1 := min n ((i + 1) * p.br), c0 := j * p.bc, c1 := min k ((j + 1) * p.bc)
      : UpdBlock }).flatten

/-- Gradient rows of a block; under PRECOND Lr · G · Rr (R419). Each element has its poison. -/
def UpdPlan.gradient (p : UpdPlan) (s : State) (j : Job) (b : UpdBlock) : List (List (FVal × Bool)) :=
  let cut := fun (xs : List (FVal × Bool)) => (xs.drop b.c0).take (b.c1 - b.c0)
  let g := (List.range (b.r1 - b.r0)).map fun r => cut (s.readFlame j p.grad (b.r0 + r) 0 0)
  match p.roots with
  | none => g
  | some (l, r) =>
    let (rv, cv) := (b.r1 - b.r0, b.c1 - b.c0)
    let k := b.i * ceilDiv (p.h.e 0) p.bc + b.j
    let root := fun (t : Tensor) (n : Nat) => (List.range n).map fun i =>
      ((s.readFlame j t i k 0).take n).map fun x => (rne16 x.1, x.2)
    let (lr, rr) := (root l rv, root r cv)
    let col := fun (rows : List (List (FVal × Bool))) (c : Nat) => plainSegs (rows.map fun x => rne16 (x.getD c (.zero, false)).1)
    let gcols := (List.range cv).map (col g)
    let y := lr.map fun row => gcols.map fun c => rne16 (lane (plainSegs (row.map Prod.fst)) c)
    let rcols := (List.range cv).map (col rr)
    let gbad := g.any fun row => row.any (·.2)
    let cbad := (List.range cv).map fun c => rr.any fun row => (row.getD c (.zero, false)).2
    (List.range rv).map fun i =>
      let ys := plainSegs (y.getD i [])
      let bad := gbad || (lr.getD i []).any (·.2)
      (List.range cv).map fun c => (lane ys (rcols.getD c []), bad || cbad.getD c false)

/-- What UPDATE adds up. -/
structure UpdSum where
  inf : Nat
  nan : Nat
  mTally : Tally
  vTally : Tally
  bad : Bool
  deriving DecidableEq, Repr

/-- The pieces of a row that an UPDATE has computed: weights, moments, codes and poison. -/
structure UpdRow where
  w1 : List FVal
  m1 : List FVal
  v1 : List FVal
  codes : List (Nat × Nat)
  bad : List Bool
  deriving DecidableEq, Repr

/-- Compute columns [c0, c1) of row r. -/
def UpdPlan.row (p : UpdPlan) (s : State) (j : Job) (c0 c1 r : Nat) (pg : List (FVal × Bool)) : UpdRow :=
  let k := p.h.e 0
  let hs := (s.readRow j p.h r 0 0).elems
  let qs := s.spaceRead j p.q.module (p.q.base + p.q.offset r 0 0) k
  let qBad := (s.readRow j p.q r 0 0).elems
  let state := fun (t : Option Tensor) => match t with
    | some t => s.readFlame j t r 0 0
    | none => []
  let (ms, vs) := (state p.m, state p.v)
  let xs := (List.range (c1 - c0)).map fun i =>
    let e := c0 + i
    let hx := hs.getD e Elem.zero
    let w := joinWeight (enc16 hx.code) (qs.getD e 0).toNat
    let g := pg.getD i (.zero, false)
    let mx := ms.getD e (.zero, false)
    let vx := vs.getD e (.zero, false)
    (p.element w g.1 mx.1 vx.1, j.bad || hx.bad || (qBad.getD e Elem.zero).bad || g.2 || mx.2 || vx.2)
  let w1 := xs.map fun x => x.1.2.2
  { w1 := w1, m1 := xs.map fun x => x.1.1, v1 := xs.map fun x => x.1.2.1, bad := xs.map Prod.snd
    codes := (List.range w1.length).map fun i =>
      splitWeight (if p.stochastic then some (rand16 p.key p.step (c0 + i + k * r)) else none) (w1.getD i .zero) }

/-- Write a row's state in place, and let the gauge see w1, m1 and v1 (R426). -/
def UpdPlan.store (p : UpdPlan) (j : Job) (c0 r : Nat) (x : UpdRow) (acc : State × UpdSum) : State × UpdSum :=
  let (s, u) := acc
  let bad := fun e => x.bad.getD (e - c0) false
  let raw := fun (cs : List Nat) (w : Nat) =>
    ({ data := [(0, packCodes w cs)], scales := [], zero := [], tally := Tally.none } : RowOut)
  let hs := raw (x.codes.map Prod.fst) 16
  let s := (s.putRow j p.h r 0 0 c0 hs bad).tap j.run (p.h.taps r 0 0 c0 x.w1 hs)
  let s := s.putRow j p.q r 0 0 c0 (raw (x.codes.map Prod.snd) 8) bad
  let (s, mt) := match p.m with
    | some t => s.storeRow j true t r 0 0 c0 x.m1 bad
    | none => (s, Tally.none)
  let (s, vt) := match p.v with
    | some t => s.storeRow j true t r 0 0 c0 x.v1 bad
    | none => (s, Tally.none)
  let count := fun (q : FVal → Bool) => (x.codes.filter fun c => q (dec16 c.1)).length
  (s, { inf := u.inf + count FVal.isInf, nan := u.nan + count FVal.isNan, mTally := u.mTally.add mt, vTally := u.vTally.add vt,
        bad := u.bad || x.bad.any id })

/-- Fetch what a block reads: roots, then each row's gradient and state; under PRECOND the scratch is written and read. -/
def UpdPlan.fetchBlock (p : UpdPlan) (j : Job) (b : UpdBlock) (s : State) : State :=
  let (rv, cv) := (b.r1 - b.r0, b.c1 - b.c0)
  let s := match p.roots with
    | none => s
    | some (l, r) =>
      let k := b.i * ceilDiv (p.h.e 0) p.bc + b.j
      let all := fun (t : Tensor) (n : Nat) (s : State) => (List.range n).foldl (fun s i =>
        s.fetchRow j t i k 0 (s.readRow j t i k 0) 0 n) s
      let secs := sectorsOf p.scratch (2 * rv * cv)
      let s := ((all r cv (all l rv s)).touchWrites j j.hint secs).demand j secs
      s.modCore j.core fun c => c.count 0x05 (tileClocks rv cv rv 16 + tileClocks rv cv cv 16) j.entry.op
  (List.range rv).foldl (fun s r => ([p.grad, p.h, p.q] ++ p.m.toList ++ p.v.toList).foldl (fun s t =>
    s.fetchRow j t (b.r0 + r) 0 0 (s.readRow j t (b.r0 + r) 0 0) b.c0 b.c1) s) s

/-- Bytes that an instruction leaves in module memory in a layout no rule gives. -/
def State.fillModule (s : State) (j : Job) (a n : Nat) (bad : Bool) : State :=
  let (k, s) := s.take
  s.writeRange (s.viewOf j) j.q a ((List.range n).map (Config.freeByte k)) bad

def runUpdate (p : UpdPlan) (j : Job) (m : Macro) (s0 : State) : State × Macro :=
  if p.h.empty then (s0, m)
  else
    let init : UpdSum := { inf := 0, nan := 0, mTally := Tally.none, vTally := Tally.none, bad := false }
    let (s, u) := p.blocks.foldl (fun acc b =>
      let pg := p.gradient s0 j b
      let s := p.fetchBlock j b acc.1
      (List.range (b.r1 - b.r0)).foldl (fun acc i =>
        p.store j b.c0 (b.r0 + i) (p.row s0 j b.c0 b.c1 (b.r0 + i) (pg.getD i [])) acc) (s, acc.2)) (s0, init)
    let s := if p.roots.isSome then s.fillModule j p.scratch (p.br * p.bc * 2) u.bad else s
    let (k, s) := s.take
    let nans : Tally := if Config.freeBool k then { Tally.none with nanBlocks := u.nan } else { Tally.none with nanDropped := u.nan }
    let s := s.modCore j.core fun c => { c with nonfiniteWeights := satAdd 16 c.nonfiniteWeights (u.inf + u.nan) }
    let gains := p.h.gains { nans with infWritten := u.inf } ++ ((p.m.map fun t => t.gains u.mTally).getD [])
      ++ ((p.v.map fun t => t.gains u.vTally).getD [])
    (s, { m with status := gains, poisoned := m.poisoned || u.bad })

def UpdPlan.state (p : UpdPlan) : List Tensor := [p.h, p.q] ++ p.m.toList ++ p.v.toList

/-- The tensor array is busy for an UPDATE that needs it to itself. -/
def CoreSt.arrayBusy (c : CoreSt) : Bool :=
  c.arrayHeld || c.unretired.any fun m => decide (1 ≤ leAt m.entry 0 1) && decide (leAt m.entry 0 1 ≤ 3)

def kindUpdate : Kind UpdPlan :=
  { mine := fun _ e => e.op = 0x07, read := readUpdate
    reads := fun p => ((p.grad :: p.state ++ ((p.roots.map fun r => [r.1, r.2]).getD [])).map Tensor.hobSpans).flatten
    writes := fun p => (p.state.map Tensor.outSpans).flatten, span := fun _ => 1, dma := false
    blocked := fun p c => p.roots.isSome && c.arrayBusy, table := fun _ => [], run := runUpdate }

/-- UPDATE (R416). -/
def execUpdateLayer (e : Env) (core : Nat) (s : State) : Host.Outcome State Fault Refusal :=
  .next ((enter e s).issue kindUpdate core)

/-! ## ROOT (R421 to R424) -/

structure RootPlan where
  input : Tensor
  out : Tensor
  due : Bool
  p : Nat
  damping : FVal
  iterMax : Nat
  status : Nat
  scratch : Nat
  tol : FVal
  deriving DecidableEq, Repr

def RootPlan.n (r : RootPlan) : Nat := r.input.e 0

def readRoot (h : Hob) (s : State) (j : Job) : Rd RootPlan := do
  let e := j.entry
  entryStop e (e.imm ≠ 0)
  let a ← tensorAt h s j (e.opnd 0) false false
  let out ← tensorAt h s j (e.opnd 1) false true
  let d ← descriptor h (e.opnd 2) 64
  let flags := leAt d 1 1
  let iters := leAt d 3 1
  let status := leAt d 12 4
  let scratch := leAt d 16 8
  let tol := leAt d 24 4
  let n := a.e 0
  stopIf (leAt d 0 1 ≠ 0x10 || decide (4 ≤ flags) || decide (64 < iters) || scratch % 64 ≠ 0 || !zeroBytes d 28 64
    || (tol ≠ 0 && (!(dec32 tol).isFin || !FVal.zero.lt (dec32 tol))) || (status ≠ absent && status % 16 ≠ 0)) .field
  stopIf (status ≠ absent && decide (0x7FFFF0 < status)) .bounds
  stopIf (!a.module || !out.module || !wideOk a || !wideOk out || n = 0 || decide (2048 < n) || a.ext ≠ [n, n, 1, 1]
    || out.ext ≠ a.ext) .field
  let step ← if flags.testBit 0 then boundAt h (leAt d 4 4) else pure (leAt d 4 4)
  let g ← groupAt h s j (leAt d 8 4) (leAt d 2 1)
  let area : Span := (scratch, scratch + 12 * n * n)
  stopIf (!s.fits j true area || meets [area] [a.dataSpan, out.dataSpan]) .bounds
  pure { input := a, out := out, due := flags.testBit 1 || (g.interval ≠ 0 && step % g.interval = 0), p := g.rootP,
         damping := g.damping, iterMax := if iters = 0 then 32 else iters, status := status, scratch := scratch,
         tol := if tol = 0 then .fin false (pow2 (-10)) else dec32 tol }

/-- A square matrix of FP32 values, by rows. -/
abbrev Mat := List (List FVal)

def matOf (n : Nat) (f : Nat → Nat → FVal) : Mat := (List.range n).map fun i => (List.range n).map (f i)
def Mat.get (a : Mat) (i k : Nat) : FVal := (a.getD i []).getD k .zero

/-- The FP32 product: every product and sum rounded, in ascending k. -/
def Mat.mul (n : Nat) (a b : Mat) : Mat :=
  matOf n fun i c => (List.range n).foldl (fun acc k => add32 acc (mul32 (a.get i k) (b.get k c))) .zero

def Mat.frobenius (a : Mat) : FVal := sqrt32 (a.flatten.foldl (fun acc x => add32 acc (mul32 x x)) .zero)
def Mat.finite (a : Mat) : Bool := a.flatten.all FVal.isFin

/-- x^(−1/p), rounded once. -/
def invRoot (p : Nat) (x : FVal) : FVal :=
  let y := 1 / x.rat
  if p = 1 then rne32 (.fin false y) else if p = 2 then rne32 (.fin false (sqrtSticky y))
  else
    let k := (160 - log2Floor y).toNat / 4 + 1
    let z := y * pow2 (4 * k)
    let r := isqrt (isqrt (z.num.toNat / z.den))
    rne32 (.fin false (if ((r ^ 4 : Nat) : Rat) = z then (r : Rat) / pow2 k else ((2 * r + 1 : Nat) : Rat) / pow2 (k + 1)))

/-- OUTCOME of a due ROOT: 1 CONVERGED with its output, 2 NOT_CONVERGED, 3 NONFINITE. -/
structure RootOut where
  outcome : Nat
  iterations : Nat
  residual : FVal
  x : Mat
  deriving DecidableEq, Repr

/-- Iterations k to itmax (R422). -/
def rootFrom (n p : Nat) (tol : FVal) : Nat → Nat → Mat → Mat → FVal → RootOut
  | 0, k, x, _, res => { outcome := 2, iterations := k, residual := res, x := x }
  | left + 1, k, x, m, _ =>
    let pf := FVal.ofNat p
    let t := matOf n fun i c => div32 (sub32 (if i = c then FVal.ofNat (p + 1) else .zero) (m.get i c)) pf
    let x := x.mul n t
    let tp := if p = 1 then t else if p = 2 then t.mul n t else (t.mul n t).mul n (t.mul n t)
    let m := tp.mul n m
    let off : Mat := matOf n fun i c => if i = c then sub32 (m.get i c) (.fin false 1) else m.get i c
    let res := div32 off.frobenius (sqrt32 (FVal.ofNat n))
    if !t.finite || !x.finite || !m.finite || !res.isFin then { outcome := 3, iterations := k + 1, residual := res, x := x }
    else if !tol.lt res then { outcome := 1, iterations := k + 1, residual := res, x := x }
    else rootFrom n p tol left (k + 1) x m res

def RootPlan.compute (r : RootPlan) (a : Mat) : RootOut :=
  let n := r.n
  let s := matOf n fun i c =>
    let v := div32 (add32 (a.get i c) (a.get c i)) (FVal.ofNat 2)
    if i = c then add32 v r.damping else v
  let alpha := s.frobenius
  if alpha.isZero || !alpha.isFin then { outcome := 3, iterations := 0, residual := .nan, x := [] }
  else
    let top := invRoot r.p alpha
    rootFrom n r.p r.tol r.iterMax 0 (matOf n fun i c => if i = c then top else .zero)
      (matOf n fun i c => div32 (s.get i c) alpha) .nan

/-- The root status word (R423). -/
def rootStatus (iterations outcome : Nat) (residual : FVal) (damp : Nat) : List Byte :=
  leBytes 1 iterations ++ leBytes 1 outcome ++ zeros 2 ++ leBytes 4 (enc32 residual) ++ leBytes 4 damp ++ zeros 4

def runRoot (r : RootPlan) (j : Job) (m : Macro) (s0 : State) : State × Macro :=
  let late := fun bs => if r.status = absent then [] else [(r.status, bs)]
  if !r.due then
    let (k, s) := s0.take
    (s.modCore j.core fun c => { c with rootSkipped := satAdd 8 c.rootSkipped 1 },
     { m with late := late (rootStatus 0 0 .nan (Config.freeNat k % 2 ^ 32)) })
  else
    let rows := (List.range r.n).map fun i => s0.readFlame j r.input i 0 0
    let o := r.compute (rows.map fun x => x.map Prod.fst)
    let bad := j.bad || rows.any fun x => x.any (·.2)
    let s := (List.range r.n).foldl (fun s i => s.fetchRow j r.input i 0 0 (s.readRow j r.input i 0 0) 0 r.n) s0
    let s := s.fillModule j r.scratch (12 * r.n * r.n) bad
    let s := s.modCore j.core fun c =>
      if o.outcome = 1 then { c with rootConverged := satAdd 8 c.rootConverged 1 }
      else if o.outcome = 2 then { c with rootNotConverged := satAdd 8 c.rootNotConverged 1 }
      else { c with rootNonfinite := satAdd 8 c.rootNonfinite 1 }
    let (s, tally, _) := if o.outcome = 1 then
        s.storeRows j false r.out ((List.range r.n).map fun i =>
          { i1 := i, i2 := 0, i3 := 0, vals := o.x.getD i [], bad := List.replicate r.n bad })
      else (s, Tally.none, false)
    (s, { m with late := late (rootStatus o.iterations o.outcome o.residual (enc32 r.damping)), status := r.out.gains tally,
                 poisoned := m.poisoned || bad })

def kindRoot : Kind RootPlan :=
  { mine := fun _ e => e.op = 0x08, read := readRoot, reads := fun _ => [],
    writes := fun r => r.out.outSpans ++ (if r.status = absent then [] else [(r.status, r.status + 16)]),
    span := fun _ => 1, dma := false, blocked := fun _ _ => false, table := fun _ => [], run := runRoot }

/-- ROOT (R422). -/
def execRootMatrix (e : Env) (core : Nat) (s : State) : Host.Outcome State Fault Refusal :=
  .next ((enter e s).issue kindRoot core)

end Sys2Proof.Machine
end

