-- ==== Sys2Proof/Machine/Dispatch.lean ====
section
/-! DEFINITION. One arm per command: its meaning, or a refusal by name. -/

namespace Sys2Proof.Machine

def exec (i : Instr) (s : State) : Host.Outcome State Fault Refusal :=
  match i with
  | .hello p => Sys2Proof.Machine.execHello p s
  | .caps p => Sys2Proof.Machine.execCaps p s
  | .bye p => Sys2Proof.Machine.execBye p s
  | .notifyAck p => Sys2Proof.Machine.execNotifyAck p s
  | .alloc p => Sys2Proof.Machine.execAlloc p s
  | .freeAlloc p => Sys2Proof.Machine.execFreeAlloc p s
  | .freeGranulesReturn e handle => Sys2Proof.Machine.execFreeGranulesReturn e handle s
  | .setMobility p => Sys2Proof.Machine.execSetMobility p s
  | .setOwner p => Sys2Proof.Machine.execSetOwner p s
  | .touch p => Sys2Proof.Machine.execTouch p s
  | .promote p => Sys2Proof.Machine.execPromote p s
  | .tierMove e handle => Sys2Proof.Machine.execTierMove e handle s
  | .flueOpen p => Sys2Proof.Machine.execFlueOpen p s
  | .flueClose p => Sys2Proof.Machine.execFlueClose p s
  | .flueData f => Sys2Proof.Machine.execFlueData f s
  | .flueCredit f => Sys2Proof.Machine.execFlueCredit f s
  | .flueAckTimer e partition window => Sys2Proof.Machine.execFlueAckTimer e partition window s
  | .flueReadBurst e => Sys2Proof.Machine.execFlueReadBurst e s
  | .loadImage p => Sys2Proof.Machine.execLoadImage p s
  | .imageCheck e cmd => Sys2Proof.Machine.execImageCheck e cmd s
  | .unloadImage p => Sys2Proof.Machine.execUnloadImage p s
  | .launch p => Sys2Proof.Machine.execLaunch p s
  | .seqOpen p => Sys2Proof.Machine.execSeqOpen p s
  | .revive p => Sys2Proof.Machine.execRevive p s
  | .seqStep p => Sys2Proof.Machine.execSeqStep p s
  | .seqClose p => Sys2Proof.Machine.execSeqClose p s
  | .seqQuery p => Sys2Proof.Machine.execSeqQuery p s
  | .bindSeq p => Sys2Proof.Machine.execBindSeq p s
  | .appendPages p => Sys2Proof.Machine.execAppendPages p s
  | .replacePages p => Sys2Proof.Machine.execReplacePages p s
  | .truncate p => Sys2Proof.Machine.execTruncate p s
  | .ptFree p => Sys2Proof.Machine.execPtFree p s
  | .carve p => Sys2Proof.Machine.execCarve p s
  | .ptState p => Sys2Proof.Machine.execPtState p s
  | .collGroup p => Sys2Proof.Machine.execCollGroup p s
  | .collGroupDelete p => Sys2Proof.Machine.execCollGroupDelete p s
  | .collPost p => Sys2Proof.Machine.execCollPost p s
  | .codecOpen p => Sys2Proof.Machine.execCodecOpen p s
  | .codecPush p => Sys2Proof.Machine.execCodecPush p s
  | .codecClose p => Sys2Proof.Machine.execCodecClose p s
  | .codecUnitEnd e engine => Sys2Proof.Machine.execCodecUnitEnd e engine s
  | .setPolicy p => Sys2Proof.Machine.execSetPolicy p s
  | .setEntries p => Sys2Proof.Machine.execSetEntries p s
  | .clearAll p => Sys2Proof.Machine.execClearAll p s
  | .stepBegin p => Sys2Proof.Machine.execStepBegin p s
  | .stepCommit p => Sys2Proof.Machine.execStepCommit p s
  | .stepCommitPublish e partition => Sys2Proof.Machine.execStepCommitPublish e partition s
  | .stepAbort p => Sys2Proof.Machine.execStepAbort p s
  | .ctrConfig p => Sys2Proof.Machine.execCtrConfig p s
  | .ctrFreezeNow p => Sys2Proof.Machine.execCtrFreezeNow p s
  | .ctrFreezeAtBoundary p => Sys2Proof.Machine.execCtrFreezeAtBoundary p s
  | .ctrFreezeInstant e partition => Sys2Proof.Machine.execCtrFreezeInstant e partition s
  | .ctrReadLive p => Sys2Proof.Machine.execCtrReadLive p s
  | .ctrReadSnapshot p => Sys2Proof.Machine.execCtrReadSnapshot p s
  | .ctrReadSampleState p => Sys2Proof.Machine.execCtrReadSampleState p s
  | .fwStage p => Sys2Proof.Machine.execFwStage p s
  | .fwStageVerify e => Sys2Proof.Machine.execFwStageVerify e s
  | .fwRelay p => Sys2Proof.Machine.execFwRelay p s
  | .relayTimeout e => Sys2Proof.Machine.execRelayTimeout e s
  | .fwArm p => Sys2Proof.Machine.execFwArm p s
  | .fwDisarm p => Sys2Proof.Machine.execFwDisarm p s
  | .fwActivating e => Sys2Proof.Machine.execFwActivating e s
  | .attest p => Sys2Proof.Machine.execAttest p s
  | .attestQuote e => Sys2Proof.Machine.execAttestQuote e s
  | .partCreate p => Sys2Proof.Machine.execPartCreate p s
  | .partDestroy p => Sys2Proof.Machine.execPartDestroy p s
  | .damperSet p => Sys2Proof.Machine.execDamperSet p s
  | .regRead p => Sys2Proof.Machine.execRegRead p s
  | .regWrite p => Sys2Proof.Machine.execRegWrite p s
  | .mtCtrlWrite e value => Sys2Proof.Machine.execMtCtrlWrite e value s
  | .mtSetSecondsWrite e value => Sys2Proof.Machine.execMtSetSecondsWrite e value s
  | .heartwoodStore e => Sys2Proof.Machine.execHeartwoodStore e s
  | .resetCore p => Sys2Proof.Machine.execResetCore p s
  | .resetCluster p => Sys2Proof.Machine.execResetCluster p s
  | .resetPartition p => Sys2Proof.Machine.execResetPartition p s
  | .partResetDrained e partition => Sys2Proof.Machine.execPartResetDrained e partition s
  | .resetWarm p => Sys2Proof.Machine.execResetWarm p s
  | .resetPowerOn p => Sys2Proof.Machine.execResetPowerOn p s
  | .warmReset e => Sys2Proof.Machine.execWarmReset e s
  | .powerOnReset e => Sys2Proof.Machine.execPowerOnReset e s
  | .autoResume e => Sys2Proof.Machine.execAutoResume e s
  | .matmul e core => Sys2Proof.Machine.execMatmul e core s
  | .conv3d e core => Sys2Proof.Machine.execConv3d e core s
  | .attn e core => Sys2Proof.Machine.execAttn e core s
  | .attnHalfRelease e core => Sys2Proof.Machine.execAttnHalfRelease e core s
  | .eltwise e core => Sys2Proof.Machine.execEltwise e core s
  | .preload e core => Sys2Proof.Machine.execPreload e core s
  | .flameTableLoad e core => Sys2Proof.Machine.execFlameTableLoad e core s
  | .rowstat e core => Sys2Proof.Machine.execRowstat e core s
  | .norm e core => Sys2Proof.Machine.execNorm e core s
  | .updateLayer e core => Sys2Proof.Machine.execUpdateLayer e core s
  | .rootMatrix e core => Sys2Proof.Machine.execRootMatrix e core s
  | .copyTensor e core => Sys2Proof.Machine.execCopyTensor e core s
  | .reduceFp32 e core => Sys2Proof.Machine.execReduceFp32 e core s
  | .reduceBf16 e core => Sys2Proof.Machine.execReduceBf16 e core s
  | .atomic e core => Sys2Proof.Machine.execAtomic e core s
  | .sendMsg e core => Sys2Proof.Machine.execSendMsg e core s
  | .mailboxSlotGrant e core => Sys2Proof.Machine.execMailboxSlotGrant e core s
  | .recv e core => Sys2Proof.Machine.execRecv e core s
  | .waitCounter e core => Sys2Proof.Machine.execWaitCounter e core s
  | .clusterBarrier e core => Sys2Proof.Machine.execClusterBarrier e core s
  | .waitMailbox e core => Sys2Proof.Machine.execWaitMailbox e core s
  | .waitSatisfied e core => Sys2Proof.Machine.execWaitSatisfied e core s
  | .fenceCore e core => Sys2Proof.Machine.execFenceCore e core s
  | .fenceDie e core => Sys2Proof.Machine.execFenceDie e core s
  | .fenceModule e core => Sys2Proof.Machine.execFenceModule e core s
  | .bankchk e core => Sys2Proof.Machine.execBankchk e core s
  | .macroRetire e core index => Sys2Proof.Machine.execMacroRetire e core index s
  | .launchEnd e run => Sys2Proof.Machine.execLaunchEnd e run s
  | .stokeBoundary e => Sys2Proof.Machine.execStokeBoundary e s
  | .batchClose e batch => Sys2Proof.Machine.execBatchClose e batch s
  | .stallLimit e run => Sys2Proof.Machine.execStallLimit e run s
  | .damperRefill e => Sys2Proof.Machine.execDamperRefill e s
  | .thermalSample e temps => Sys2Proof.Machine.execThermalSample e temps s
  | .thermalLevelFall e stack => Sys2Proof.Machine.execThermalLevelFall e stack s
  | .hobScrub e core address => Sys2Proof.Machine.execHobScrub e core address s
  | .hbmScrub e partition va => Sys2Proof.Machine.execHbmScrub e partition va s
  | .ptpSync e m => Sys2Proof.Machine.execPtpSync e m s
  | .ptpAnnounce e m => Sys2Proof.Machine.execPtpAnnounce e m s
  | .sourceLost e => Sys2Proof.Machine.execSourceLost e s
  | .holdoverExpiry e => Sys2Proof.Machine.execHoldoverExpiry e s
  | .mtStepped e => Sys2Proof.Machine.execMtStepped e s
  | .ppsInEdge e falling => Sys2Proof.Machine.execPpsInEdge e falling s
  | .ppsAbsent e => Sys2Proof.Machine.execPpsAbsent e s
  | .frameSyncInPulse e falling => Sys2Proof.Machine.execFrameSyncInPulse e falling s
  | .frameSyncLost e partition gridId => Sys2Proof.Machine.execFrameSyncLost e partition gridId s
  | .notifyRetry e session => Sys2Proof.Machine.execNotifyRetry e session s
  | .sessionTimeout e session => Sys2Proof.Machine.execSessionTimeout e session s
  | .ringExpiry e session => Sys2Proof.Machine.execRingExpiry e session s
  | .otherUdpPort e port => Sys2Proof.Machine.execOtherUdpPort e port s
  | .ipFragment e => Sys2Proof.Machine.execIpFragment e s
  | .arpRequest e target sender => Sys2Proof.Machine.execArpRequest e target sender s
  | .neighbourDiscovery e target sender => Sys2Proof.Machine.execNeighbourDiscovery e target sender s
  | .echoRequest e dst src body => Sys2Proof.Machine.execEchoRequest e dst src body s
  | .chunk e f => Sys2Proof.Machine.execChunk e f s
  | .chunkSend e die => Sys2Proof.Machine.execChunkSend e die s
  | .linkCredit e f => Sys2Proof.Machine.execLinkCredit e f s
  | .linkAck e f => Sys2Proof.Machine.execLinkAck e f s
  | .linkNak e f => Sys2Proof.Machine.execLinkNak e f s
  | .abortFrame e f => Sys2Proof.Machine.execAbortFrame e f s
  | .chunkAcknowledge e f => Sys2Proof.Machine.execChunkAcknowledge e f s
  | .settleReport e f => Sys2Proof.Machine.execSettleReport e f s
  | .retract e f => Sys2Proof.Machine.execRetract e f s
  | .collWaitLimit e tag => Sys2Proof.Machine.execCollWaitLimit e tag s
  | .collSettleLimit e op => Sys2Proof.Machine.execCollSettleLimit e op s
  | .relayRoute e f => Sys2Proof.Machine.execRelayRoute e f s
  | .relayData e f => Sys2Proof.Machine.execRelayData e f s
  | .relayReport e f => Sys2Proof.Machine.execRelayReport e f s
  | .laneLockLoss e link => Sys2Proof.Machine.execLaneLockLoss e link s
  | .linkFecError e link count => Sys2Proof.Machine.execLinkFecError e link count s
  | .linkRetrain e o => Sys2Proof.Machine.execLinkRetrain e o s
  | .rapRead r => Sys2Proof.Machine.execRapRead r s
  | .rapWrite r => Sys2Proof.Machine.execRapWrite r s
  | .claim r => Sys2Proof.Machine.execClaim r s
  | .releaseRap r => Sys2Proof.Machine.execReleaseRap r s
  | .fuseReadout e crcBad => Sys2Proof.Machine.execFuseReadout e crcBad s
  | .bist e badCores badDies => Sys2Proof.Machine.execBist e badCores badDies s
  | .coreEnableApply e => Sys2Proof.Machine.execCoreEnableApply e s
  | .hbmTraining e failed => Sys2Proof.Machine.execHbmTraining e failed s
  | .linkTraining e outcomes => Sys2Proof.Machine.execLinkTraining e outcomes s
  | .prbs31Check e outcomes => Sys2Proof.Machine.execPrbs31Check e outcomes s
  | .stokerFirmwareLoad e => Sys2Proof.Machine.execStokerFirmwareLoad e s
  | .coreFirmwareDistribution e failedTwice => Sys2Proof.Machine.execCoreFirmwareDistribution e failedTwice s
  | .ready e => Sys2Proof.Machine.execReady e s
  | .kindleStepComplete e => Sys2Proof.Machine.execKindleStepComplete e s
  | .flashProgSlot e slot => Sys2Proof.Machine.execFlashProgSlot e slot s
  | .flashProgBuffer e values => Sys2Proof.Machine.execFlashProgBuffer e values s
  | .powerTargetRun e => Sys2Proof.Machine.execPowerTargetRun e s
  | .powerTargetS1 e => Sys2Proof.Machine.execPowerTargetS1 e s
  | .powerTargetS2 e => Sys2Proof.Machine.execPowerTargetS2 e s
  | .powerTargetS3 e => Sys2Proof.Machine.execPowerTargetS3 e s
  | .powerStateEntry e => Sys2Proof.Machine.execPowerStateEntry e s
  | .powerStateExitDone e failedStacks outcomes => Sys2Proof.Machine.execPowerStateExitDone e failedStacks outcomes s
  | .supplyWarning e die mv => Sys2Proof.Machine.execSupplyWarning e die mv s
  | .supplySustained e die mv => Sys2Proof.Machine.execSupplySustained e die mv s
  | .supplyRecovered e die mv => Sys2Proof.Machine.execSupplyRecovered e die mv s
  | .supplyResetLevel e die mv => Sys2Proof.Machine.execSupplyResetLevel e die mv s
  | .pwrEnHigh e => Sys2Proof.Machine.execPwrEnHigh e s
  | .pwrGood e => Sys2Proof.Machine.execPwrGood e s
  | .pwrEnLow e => Sys2Proof.Machine.execPwrEnLow e s
  | .resetNLow e ns => Sys2Proof.Machine.execResetNLow e ns s
  | .vinOutOfRange e mv ns => Sys2Proof.Machine.execVinOutOfRange e mv ns s
  | .entdaa e address => Sys2Proof.Machine.execEntdaa e address s
  | .setdasa e static address => Sys2Proof.Machine.execSetdasa e static address s
  | .rstdaa e => Sys2Proof.Machine.execRstdaa e s
  | .getpid e address => Sys2Proof.Machine.execGetpid e address s
  | .getbcr e address => Sys2Proof.Machine.execGetbcr e address s
  | .getdcr e address => Sys2Proof.Machine.execGetdcr e address s
  | .getstatus e address => Sys2Proof.Machine.execGetstatus e address s
  | .getmxds e address => Sys2Proof.Machine.execGetmxds e address s
  | .enec e address events => Sys2Proof.Machine.execEnec e address events s
  | .disec e address events => Sys2Proof.Machine.execDisec e address events s
  | .i3cOtherCcc e code => Sys2Proof.Machine.execI3cOtherCcc e code s
  | .i3cPrivateWrite e address bytes => Sys2Proof.Machine.execI3cPrivateWrite e address bytes s
  | .i3cPrivateRead e address length tel => Sys2Proof.Machine.execI3cPrivateRead e address length tel s
  | .portWindowEnd e => Sys2Proof.Machine.execPortWindowEnd e s
  | .unknownOpcode p opcode => Sys2Proof.Machine.execUnknownOpcode p opcode s
  | .fsyncAbsent e => Sys2Proof.Machine.execFsyncAbsent e s
  | .pauseFrame e => Sys2Proof.Machine.execPauseFrame e s
  | .unknownFrameKind e f kind => Sys2Proof.Machine.execUnknownFrameKind e f kind s
  | .linkCrcFailure e link => Sys2Proof.Machine.execLinkCrcFailure e link s
  | .chunkRequestedAgain e f => Sys2Proof.Machine.execChunkRequestedAgain e f s

end Sys2Proof.Machine
end

