-- ==== Sys2Proof/Safety.lean ====
section
/-! DEFINITION. What a safe step is. -/

namespace Sys2Proof.Machine

/-- A step is safe when it answers a next state. -/
def Safe (s : State) : Prop := ∃ t, step s = .next t

end Sys2Proof.Machine
end

