-- ==== Sys2Proof/Certificates/Slice0/Obligations.lean ====
section
/-! DEFINITION. The statements for the provers. The namespace Claims holds the words they are made of. -/

namespace Sys2Proof.Claims

open Sys2Proof.Machine

/-! ## Frames -/

/-- The parts of the state, for frames. -/
inductive StatePart where
  | fuses | flash | set | clock | net | cmds | nextCmd | parts | mem | cores | kv | seqs | watch | zhevub | codec | boot
  | fw | ctrs | phys | pending | out | fresh
  deriving DecidableEq, Repr

/-- Two states agree on a part. -/
def agree (s t : State) : StatePart → Prop
  | .fuses => t.fuses = s.fuses
  | .flash => t.flash = s.flash
  | .set => t.set = s.set
  | .clock => t.clock = s.clock
  | .net => t.net = s.net
  | .cmds => t.cmds = s.cmds
  | .nextCmd => t.nextCmd = s.nextCmd
  | .parts => t.parts = s.parts
  | .mem => t.mem = s.mem
  | .cores => t.cores = s.cores
  | .kv => t.kv = s.kv
  | .seqs => t.seqs = s.seqs
  | .watch => t.watch = s.watch
  | .zhevub => t.zhevub = s.zhevub
  | .codec => t.codec = s.codec
  | .boot => t.boot = s.boot
  | .fw => t.fw = s.fw
  | .ctrs => t.ctrs = s.ctrs
  | .phys => t.phys = s.phys
  | .pending => t.pending = s.pending
  | .out => t.out = s.out
  | .fresh => t.fresh = s.fresh

/-- Every part but those listed is as it was. -/
def KeepsBut (changed : List StatePart) (s t : State) : Prop := ∀ p : StatePart, p ∉ changed → agree s t p

/-- No byte of module memory and none of hob memory differs, read one byte at a time. -/
def SameBytes (s t : State) : Prop :=
  (∀ k, cellGet t.mem.cells k = cellGet s.mem.cells k) ∧ ∀ k, cellGet t.mem.hob k = cellGet s.mem.hob k

/-! ## Command packets (03 R65 to R90) -/

/-- A reply opcode is carried out: R67 does not discard the packet, orders 1 to 4 of R88 let it through as a new command
of session `n`, and none of the later refusals applies. -/
abbrev Takes (o : Op) (check quota : Ctx → State → Option Bad) (p : Packet) (n : Session) (s : State) : Prop :=
  (landed p s).verdict p = .command n ∧ (heard p n s).replyBad o check quota p n = none

/-- A notification opcode is accepted as far as the refusals go that precede admission. -/
abbrev TakesOn (o : Op) (check quota : Ctx → State → Option Bad) (p : Packet) (n : Session) (s : State) : Prop :=
  (landed p s).verdict p = .command n ∧ (heard p n s).notifyBad o check quota p n = none

/-- A free value has been taken. -/
def freshened (s : State) : State := { s with fresh := s.fresh + 1 }

/-- The command's parameters after any cost prefix (R69). -/
def body (p : Packet) : List Byte := p.params.drop (prefixLen p)

/-- The big-endian parameter of `len` bytes at `off`. -/
def arg (p : Packet) (off len : Nat) : Nat := beAt (body p) off len

/-- A status reply (R85) to packet `p` left the module: status, cause and data as given, carrying event number `seq` and
a media time at most `bound` nanoseconds after that of state `b` (R42, R87). -/
def Replied (p : Packet) (b t : State) (bound status cause seq : Nat) (data : List Byte) : Prop :=
  ∃ time, b.clock.mt ≤ time ∧ time ≤ b.clock.mt + bound ∧
    Emission.udp 46210 p.src (Reply.bytes { seq := p.seq.toNat, status := status, cause := cause, eventSeq := seq,
                                            mediaTime := time, data := data }) ∈ t.out

/-- The command a notification opcode puts into a slot: its number, opcode, session, SEQ, job tag and partition, and the
reservation of a contract. -/
def Slotted (o : Op) (p : Packet) (n : Session) (b : State) (r : Option Reservation) (c : Cmd) : Prop :=
  c.id = b.nextCmd ∧ c.opcode = o.code ∧ c.session = n.id ∧ c.seq = p.seq.toNat ∧ c.jobTag = p.jobTag.toNat
    ∧ c.partition = p.partition.toNat ∧ c.contract = r.isSome ∧ c.reserved = r.getD Reservation.empty
    ∧ c.deadline = (if r.isSome then p.deadline.toNat else 0)

/-- What an accepted notification command changes beside its own effect. -/
def acceptParts : List StatePart := [.net, .ctrs, .out, .fresh, .cmds, .nextCmd]

/-! ## Records (02 R49 to R55, 03 R100 to R105) -/

/-- A record stands in a ring, as a packet of its own. -/
def Ringed (m : Session) (r : NRecord) : Prop := ∃ k ∈ m.ring.packets, k.recs = [r]

/-- Command `c` has completed with its work's status and cause: it holds no slot, and its record, with the status that
R53 gives, joins the ring of its session. -/
def Completed (b t : State) (c : Cmd) (status cause : Nat) (payload : List Byte) : Prop :=
  (∀ d ∈ t.cmds, d.id ≠ c.id) ∧ ∃ seq, b.net.eventSeq < seq ∧ ∀ m ∈ t.net.sessions, m.id = c.session → Ringed m
    { kind := 1, partition := c.partition, code := (finalStatus c b.clock.mt status cause).1,
      cause := (finalStatus c b.clock.mt status cause).2, eventSeq := seq, mediaTime := stampTime c b.clock.mt,
      cmdSeq := c.seq, jobTag := c.jobTag, payload := payload }

/-- An event has been raised: its record joins the ring of every session that wants it, or is counted there as left
out. -/
def Raised (b t : State) (code part cause : Nat) (payload : List Byte) : Prop :=
  ∃ seq, b.net.eventSeq < seq ∧ ∀ m ∈ t.net.sessions, m.wants (eventClass code) part = true → 0 < m.ring.leftOut ∨ Ringed m
    { kind := 2, partition := part, code := code, cause := cause, eventSeq := seq, mediaTime := b.clock.mt, cmdSeq := 0,
      jobTag := 0, payload := payload }

/-- Commands in flight are numbered from 1 on, below the number that the next one takes. -/
abbrev Numbered (s : State) : Prop := 0 < s.nextCmd ∧ ∀ c ∈ s.cmds, c.id < s.nextCmd

/-- Memory is in its canonical form. -/
abbrev Canonical (s : State) : Prop := cellsWf s.mem.cells = true ∧ cellsWf s.mem.hob = true

/-! ## Steps -/

/-- A step takes the command at the front of the queue and runs it with the queue's rest; with none it idles. -/
def StepTakesFront : Prop :=
  (∀ (c : Instr) (rest : List Instr) (s : State), step { s with pending := c :: rest } = exec c { s with pending := rest })
    ∧ ∀ s : State, s.pending = [] → step s = .next s

/-- Every command of the table has an effect or is turned away with a status: none stops the module. -/
def AlwaysAnswers : Prop := ∀ (c : Instr) (s : State), ∃ t, exec c s = .next t

/-! ## Sessions and the port (03 R62 to R105) -/

/-- What a session command leaves alone: everything but sessions and windows, the port's counters and what is sent. -/
def KeepsModule (b t : State) : Prop := KeepsBut [.net, .ctrs, .out, .fresh] b t

/-- CAPS (01 R11, R19): the reply carries the capability block fixed at READY. -/
def CapsAnswers : Prop :=
  ∀ (p : Packet) (n : Session) (s : State), Takes opCaps never never p n s →
    ∃ t, exec (.caps p) s = .next t
      ∧ Replied p (heard p n s) t 200000 0 0 (s.net.eventSeq + 1) s.boot.caps
      ∧ t.net.eventSeq = s.net.eventSeq + 1 ∧ t.net.windows = s.net.windows ∧ KeepsModule (heard p n s) t

/-- BYE (R91): the session and its ring are gone, its windows are closed, and no other session or window is touched. -/
def ByeEnds : Prop :=
  ∀ (p : Packet) (n : Session) (s : State), Takes opBye never never p n s →
    ∃ t, exec (.bye p) s = .next t
      ∧ Replied p (heard p n s) t 200000 0 0 (s.net.eventSeq + 1) []
      ∧ (∀ m ∈ t.net.sessions, m.id ≠ n.id) ∧ (∀ m ∈ s.net.sessions, m.id ≠ n.id → m ∈ t.net.sessions)
      ∧ (∀ w ∈ t.net.windows, w.session ≠ n.id) ∧ (∀ w ∈ s.net.windows, w.session ≠ n.id → w ∈ t.net.windows)
      ∧ KeepsModule (heard p n s) t

/-- NOTIFY_ACK (R104, R105): every packet up to ACK_STREAM_SEQ leaves the session's ring, every later one stays, and at
most one record, EVENTS_LOST, joins it. -/
def AckEmpties : Prop :=
  ∀ (p : Packet) (n : Session) (s : State), Takes opNotifyAck never never p n s →
    ∃ t, exec (.notifyAck p) s = .next t
      ∧ (∃ seq, s.net.eventSeq < seq ∧ Replied p (heard p n s) t 200000 0 0 seq [])
      ∧ (∀ m ∈ t.net.sessions, m.id = n.id → ∃ m₀ ∈ s.net.sessions, m₀.id = n.id ∧ ∃ extra : List NPacket,
          m.ring.packets = (m₀.ring.packets.filter fun k => !streamCovers k.streamSeq (arg p 0 4)) ++ extra
            ∧ extra.length ≤ 1 ∧ ∀ k ∈ extra, ∀ r ∈ k.recs, r.kind = 4)
      ∧ KeepsModule (heard p n s) t

/-- An opcode that the table does not hold is answered with BAD_DESCRIPTOR, cause UNKNOWN_OPCODE (R90). -/
def UnknownRefused : Prop :=
  ∀ (p : Packet) (code : W16) (n : Session) (s : State), (landed p s).verdict p = .command n →
    ∃ t, exec (.unknownOpcode p code) s = .next t
      ∧ Replied p (heard p n s) t 200000 0x0201 1 (s.net.eventSeq + 1) [] ∧ KeepsModule (heard p n s) t

/-- The commands that arrive in a command packet of an opcode of the table, but HELLO. -/
def packetCommands : List (Packet → Instr) :=
  [.caps, .bye, .notifyAck, .alloc, .freeAlloc, .setMobility, .setOwner, .touch, .promote, .flueOpen, .flueClose,
    .loadImage, .unloadImage, .launch, .seqOpen, .revive, .seqStep, .seqClose, .seqQuery, .bindSeq, .appendPages,
    .replacePages, .truncate, .ptFree, .carve, .ptState, .collGroup, .collGroupDelete, .collPost, .codecOpen,
    .codecPush, .codecClose, .setPolicy, .setEntries, .clearAll, .stepBegin, .stepCommit, .stepAbort, .ctrConfig,
    .ctrFreezeNow, .ctrFreezeAtBoundary, .ctrReadLive, .ctrReadSnapshot, .ctrReadSampleState, .fwStage, .fwRelay,
    .fwArm, .fwDisarm, .attest, .partCreate, .partDestroy, .damperSet, .regRead, .regWrite, .resetCore,
    .resetCluster, .resetPartition, .resetWarm, .resetPowerOn]

/-- A command packet is turned away without an effect: nothing but event numbers, what is sent, the bytes of the port and
the supply of free values is touched, and no session and no window. -/
def TurnedAway (b t : State) : Prop :=
  t.net.sessions = b.net.sessions ∧ t.net.windows = b.net.windows ∧ KeepsBut [.net, .out, .fresh, .ctrs] b t

/-- R83: a command whose parameters fail their CRC is answered with PARAM_CRC and not recorded, and its SEQ counts as new as
before. -/
def CrcRefused : Prop :=
  (∀ (p : Packet) (code : W16) (n : Session) (s : State), (landed p s).verdict p = .crc n →
    ∀ c ∈ (fun p => Instr.unknownOpcode p code) :: packetCommands,
      ∃ t, exec (c p) s = .next t ∧ Replied p (heard p n s) t 200000 0x0204 0 (s.net.eventSeq + 1) []
        ∧ TurnedAway (heard p n s) t ∧ ∀ m, t.session? p.src = some m → ∃ h, m.judge p.seq.toNat = .fresh h)
  ∧ ∀ (p : Packet) (s : State), (landed p s).servesAddress p.dst = true → (landed p s).discards p = false →
    (((landed p s).session? p.src).bind fun n =>
      if n.helloSeq = p.seq.toNat then n.stored.find? (·.seq = n.helloSeq) else none) = none →
    negotiate (beAt p.params 0 1) (beAt p.params 1 1) moduleMin moduleMax = some 0x10 →
    crc32c p.params ≠ p.paramCrc.toNat →
    ∃ t, exec (.hello p) s = .next t ∧ Replied p (landed p s) t 200000 0x0204 0 (s.net.eventSeq + 1) []
      ∧ TurnedAway (landed p s).wake t

/-- What precedes an opcode's own checks (R67, R71, R73, R80, R81): a packet with a fault of R67 is counted and nothing else;
one without a session, of another version, or with a stale SEQ is answered with its status; a duplicate is answered with the
bytes stored and counted. None has another effect. -/
def PacketsJudged : Prop :=
  ∀ (p : Packet) (code : W16) (s : State), ∀ c ∈ (fun p => Instr.unknownOpcode p code) :: packetCommands,
    ((landed p s).verdict p = .discard → ∃ t, exec (c p) s = .next t ∧ t.net.discards = satAdd 32 s.net.discards 1
      ∧ t.net.sessions = s.net.sessions ∧ t.net.windows = s.net.windows ∧ t.net.eventSeq = s.net.eventSeq
      ∧ KeepsBut [.net] (landed p s) t)
    ∧ ((landed p s).verdict p = .noSession → ∃ t, exec (c p) s = .next t
      ∧ Replied p (landed p s) t 200000 0x0107 0 (s.net.eventSeq + 1) [] ∧ TurnedAway (landed p s).wake t)
    ∧ (∀ n, (landed p s).verdict p = .version n → ∃ t, exec (c p) s = .next t
      ∧ Replied p (landed p s) t 200000 0x0106 0 (s.net.eventSeq + 1) [0x10, 0x10, 0, 0] ∧ TurnedAway (heard p n s) t)
    ∧ (∀ n, (landed p s).verdict p = .stale n → ∃ t, exec (c p) s = .next t
      ∧ Replied p (landed p s) t 200000 0x0108 0 (s.net.eventSeq + 1) [] ∧ TurnedAway (heard p n s) t)
    ∧ ∀ n r, (landed p s).verdict p = .duplicate n r → ∃ t, exec (c p) s = .next t
      ∧ t.out = (landed p s).out ++ [.udp 46210 p.src r.bytes] ∧ t.net.duplicates = satAdd 32 s.net.duplicates 1
      ∧ t.net.sessions = ((landed p s).touchSession n.id).net.sessions ∧ t.net.eventSeq = s.net.eventSeq
      ∧ KeepsBut [.net, .out, .ctrs] (landed p s) t

/-- A HELLO is accepted: it reaches the port, repeats no HELLO of its session, offers a range that holds version 1.0, is
intact, and none of the refusals of R77 and R88 applies. -/
abbrev HelloTaken (p : Packet) (s : State) : Prop :=
  (landed p s).servesAddress p.dst = true ∧ (landed p s).discards p = false
    ∧ (((landed p s).session? p.src).bind fun n =>
        if n.helloSeq = p.seq.toNat then n.stored.find? (·.seq = n.helloSeq) else none) = none
    ∧ negotiate (beAt p.params 0 1) (beAt p.params 1 1) moduleMin moduleMax = some 0x10
    ∧ crc32c p.params = p.paramCrc.toNat ∧ (landed p s).wake.commonBad opHello p = none
    ∧ (landed p s).wake.helloBad p = none

/-- HELLO (R74, R76): a session opens at the packet's address and port under the next session number, with the port and
the masks of the parameters, and the reply carries the capability block. -/
def HelloOpens : Prop :=
  ∀ (p : Packet) (s : State), HelloTaken p s →
    ∃ t, exec (.hello p) s = .next t
      ∧ (∃ m ∈ t.net.sessions, m.id = s.net.nextSession ∧ m.opened = true ∧ m.peer = p.src ∧ m.version = 0x10
          ∧ m.notifyPort = beAt p.params 4 2 ∧ m.partMask = beAt p.params 6 2 ∧ m.eventMask = beAt p.params 8 4
          ∧ m.helloSeq = p.seq.toNat ∧ m.lastActive = (landed p s).clock.steady
          ∧ ∃ data, Replied p (landed p s) t 200000 0 0 (s.net.eventSeq + 1) data ∧ data.drop 32 = s.boot.caps)
      ∧ t.net.nextSession = s.net.nextSession + 1 ∧ t.net.eventSeq = s.net.eventSeq + 1
      ∧ KeepsBut [.net, .ctrs, .out, .fresh, .cmds, .boot, .clock] (landed p s) t

/-- NOTIFY_RETRY (R104): once the interval has passed since the last time, every unacknowledged packet of an open session
is sent again, oldest first and as it was. -/
def RetryResends : Prop :=
  ∀ (e : Env) (id : Nat) (n : Session) (s : State), s.net.sessions.find? (·.id = id) = some n → n.opened = true →
    n.ring.lastRetry + s.set.notifyRetry * 100000 ≤ s.clock.steady + e.dt →
    ∃ t, exec (.notifyRetry e id) s = .next t
      ∧ t.out = n.ring.packets.map (fun k => .udp 46210 n.notifyTo (k.bytes (BitVec.ofNat 8 n.version)))
      ∧ t.net.eventSeq = s.net.eventSeq ∧ KeepsBut [.net, .ctrs, .out] (advance e.dt s) t

/-- SESSION_TIMEOUT (R78): a session silent for that many seconds is open no longer, its windows close, and its ring
stays. -/
def TimeoutEnds : Prop :=
  ∀ (e : Env) (id : Nat) (n : Session) (s : State), s.net.sessions.find? (·.id = id) = some n → n.opened = true →
    n.lastActive + s.set.sessionTimeout * 1000000000 ≤ s.clock.steady + e.dt →
    ∃ t, exec (.sessionTimeout e id) s = .next t
      ∧ { n with opened := false, endedAt := s.clock.steady + e.dt } ∈ t.net.sessions
      ∧ (∀ w ∈ t.net.windows, w.session ≠ id) ∧ KeepsBut [.net] (advance e.dt s) t

/-- RING_EXPIRY (R78): 60 s after its session ended, the ring is gone. -/
def RingExpires : Prop :=
  ∀ (e : Env) (id : Nat) (n : Session) (s : State), s.net.sessions.find? (·.id = id) = some n → n.opened = false →
    n.endedAt + 60000000000 ≤ s.clock.steady + e.dt →
    ∃ t, exec (.ringExpiry e id) s = .next t ∧ (∀ m ∈ t.net.sessions, m.id ≠ id) ∧ KeepsBut [.net] (advance e.dt s) t

/-- ARP for IPV4_ADDR is answered once the port answers at it, and for no other address (R64). -/
def ArpAnswered : Prop :=
  ∀ (e : Env) (target sender : W32) (s : State), ∃ t, exec (.arpRequest e target sender) s = .next t
    ∧ (s.boot.mode = .ready → s.net.useV4 = some target.toNat → t.out = [.arpReply target sender])
    ∧ (s.net.useV4 ≠ some target.toNat → t.out = []) ∧ KeepsBut [.out, .ctrs] (advance e.dt s) t

/-- Neighbour discovery is answered for the link-local address, and after READY for the global one (R64, 17 R513). -/
def DiscoveryAnswered : Prop :=
  ∀ (e : Env) (target sender : W128) (s : State), ∃ t, exec (.neighbourDiscovery e target sender) s = .next t
    ∧ (s.portUp = true → target = linkLocal s.fuses.mac → t.out = [.neighbourAdvert target sender])
    ∧ (s.boot.mode = .ready → s.net.useV6 = some target.toNat → t.out = [.neighbourAdvert target sender])
    ∧ (target ≠ linkLocal s.fuses.mac → s.net.useV6 ≠ some target.toNat → t.out = [])
    ∧ KeepsBut [.out, .ctrs] (advance e.dt s) t

/-- An echo request at an address of the module is answered with its own bytes (R62). -/
def EchoAnswered : Prop :=
  ∀ (e : Env) (dst src : IpAddr) (b : List Byte) (s : State), ∃ t, exec (.echoRequest e dst src b) s = .next t
    ∧ (s.boot.mode = .ready → s.servesAddress dst = true → t.out = [.echoReply src dst b])
    ∧ (s.servesAddress dst = false → t.out = []) ∧ KeepsBut [.out, .ctrs] (advance e.dt s) t

/-- A packet on another UDP port, an IP fragment and a PAUSE frame are discarded without an answer (R62, R63, 20 R602):
only time passes. -/
def StrayPacketsDiscarded : Prop :=
  ∀ (e : Env) (port : W16) (s : State), exec (.otherUdpPort e port) s = .next (advance e.dt s)
    ∧ exec (.ipFragment e) s = .next (advance e.dt s) ∧ exec (.pauseFrame e) s = .next (advance e.dt s)
    ∧ (advance e.dt s).out = [] ∧ KeepsBut [.clock, .mem, .cores, .out, .fresh] s (advance e.dt s)
    ∧ SameBytes s (advance e.dt s)

/-! ## The shared pool (chapter 07) -/

/-- What a pool command may change beside what it says of memory. -/
def poolParts : List StatePart := [.net, .ctrs, .out, .fresh, .mem, .kv]

/-- ALLOC (07 R219, R225, R229, R233): a new allocation under the next handle, in the tier that place gives, with SIZE
rounded up to granules and the mobility, owner and affinity of the parameters; the reply names it. With nothing to
reclaim, every other allocation and every byte stays. -/
def AllocPlaces : Prop :=
  ∀ (p : Packet) (n : Session) (s : State) (tier : Tier) (victims : List Seq),
    Takes opAlloc allocCheck allocQuota p n s →
    allocPlace ((heard p n s).ctx opAlloc p n) (freshened (heard p n s)) = .granted tier victims →
    ∃ t, exec (.alloc p) s = .next t
      ∧ (∃ a ∈ t.mem.allocs, a.handle = s.mem.nextHandle ∧ a.partition = p.partition.toNat ∧ a.tier = tier
          ∧ a.granules = ceilDiv (arg p 0 8) 2097152 ∧ a.evictable = decide (bitsOf (arg p 8 4) 5 4 = 1)
          ∧ a.owner = arg p 16 8 ∧ a.kv = (arg p 8 4).testBit 6
          ∧ a.affinity = (if (arg p 8 4).testBit 3 then some (arg p 12 1) else none) ∧ a.promote = false)
      ∧ t.mem.nextHandle = s.mem.nextHandle + 1
      ∧ (∃ seq data, Replied p (heard p n s) t 200000 0 0 seq (beBytes 8 s.mem.nextHandle ++ data))
      ∧ (victims = [] → SameBytes s t ∧ t.net.eventSeq = s.net.eventSeq + 1
          ∧ (∀ a ∈ s.mem.allocs, a.handle ≠ s.mem.nextHandle → a ∈ t.mem.allocs)
          ∧ KeepsBut [.net, .ctrs, .out, .fresh, .mem] (heard p n s) t)

/-- FREE (07 R222): the allocation leaves its partition, and its granules wait for the operations issued before. No byte
changes yet, and no other allocation does. -/
def FreeRemoves : Prop :=
  ∀ (p : Packet) (n : Session) (s : State), Takes opFree freeCheck never p n s →
    ∃ t, exec (.freeAlloc p) s = .next t
      ∧ (∀ a ∈ t.mem.allocs, a.handle ≠ arg p 0 8)
      ∧ (∀ a ∈ s.mem.allocs, a.handle ≠ arg p 0 8 → a ∈ t.mem.allocs)
      ∧ (∃ f ∈ t.mem.freed, f.alloc.handle = arg p 0 8 ∧ f.alloc.partition = p.partition.toNat ∧ f.before = s.mem.nextOp)
      ∧ Replied p (heard p n s) t 200000 0 0 (s.net.eventSeq + 1) []
      ∧ SameBytes s t ∧ KeepsBut poolParts (heard p n s) t

/-- A HINT changes the allocation it names by `f`, cancels a promotion of it that waits, and changes no other and no
byte (07 R223, R231). -/
def Hints (c : Packet → Instr) (check : Ctx → State → Alloc → Option Bad) (f : Packet → Nat → Alloc → Alloc) : Prop :=
  ∀ (p : Packet) (n : Session) (s : State), Takes opHint (hintCheck check) never p n s →
    ∃ t, exec (c p) s = .next t
      ∧ (∃ time, (heard p n s).clock.mt ≤ time ∧ time ≤ (heard p n s).clock.mt + 200000
          ∧ t.mem.allocs = s.mem.allocs.map fun a => if a.handle = arg p 0 8 then f p time { a with promote := false } else a)
      ∧ Replied p (heard p n s) t 200000 0 0 (s.net.eventSeq + 1) []
      ∧ SameBytes s t ∧ KeepsBut poolParts (heard p n s) t

/-- SET_MOBILITY: mobility and owner as the parameters give them. -/
def MobilitySet : Prop :=
  Hints .setMobility
    (fun c s _ => firstBad [badIf (decide (2 ≤ c.be 9 1)) 7, s.pairingBad c.part (c.be 9 1 = 1) (c.be 16 8)])
    fun p _ a => { a with evictable := decide (arg p 9 1 = 1), owner := arg p 16 8 }

/-- SET_OWNER: the owner alone. -/
def OwnerSet : Prop :=
  Hints .setOwner (fun c s a => s.pairingBad c.part a.evictable (c.be 16 8)) fun p _ a => { a with owner := arg p 16 8 }

/-- TOUCH: LAST_USE becomes the media time of the reply's stamp. -/
def TouchSets : Prop := Hints .touch (fun _ _ _ => none) fun _ time a => { a with lastUse := time }

/-- PROMOTE: the allocation waits for its move to the Firebox tier. -/
def PromoteAsks : Prop :=
  Hints .promote (fun _ _ a => badIf (!a.evictable || a.tier = .firebox) 15) fun _ _ a => { a with promote := true }

/-- FREE_GRANULES_RETURN (07 R220, R222): once every operation issued before the FREE has retired, the granules are back
in the pool, their bytes read as zero, and no other byte changes. -/
def GranulesReturn : Prop :=
  ∀ (e : Env) (h : Nat) (f : Freed) (s : State), s.mem.freed.find? (·.alloc.handle = h) = some f →
    (advance e.dt s).retiredBefore f.alloc.partition f.before = true →
    ∃ t, exec (.freeGranulesReturn e h) s = .next t
      ∧ (∀ g ∈ t.mem.freed, g.alloc.handle ≠ h) ∧ (∀ g ∈ s.mem.freed, g.alloc.handle ≠ h → g ∈ t.mem.freed)
      ∧ (∀ k, memKey f.alloc.partition f.alloc.base ≤ k → k < memKey f.alloc.partition f.alloc.base + f.alloc.bytes →
          cellGet t.mem.cells k = 0)
      ∧ (∀ k, k < memKey f.alloc.partition f.alloc.base ∨ memKey f.alloc.partition f.alloc.base + f.alloc.bytes ≤ k →
          cellGet t.mem.cells k = cellGet s.mem.cells k)
      ∧ (∀ k, cellGet t.mem.hob k = cellGet s.mem.hob k)
      ∧ t.mem.allocs = s.mem.allocs ∧ KeepsBut [.mem] (advance e.dt s) t

/-- TIER_MOVE (07 R231, R232): the oldest allocation that demotion may take moves to the Woodshed tier and is counted; a
promotion that can be carried out moves its allocation to the Firebox tier. The handle, the virtual range and every byte
stay. -/
def TierMoves : Prop :=
  ∀ (e : Env) (a : Alloc) (s : State), (enter e s).mem.allocs.find? (·.handle = a.handle) = some a →
    ((enter e s).demotionDue = true → (enter e s).demotee = some a →
      ∃ t, exec (.tierMove e a.handle) s = .next t
        ∧ (∀ b ∈ t.mem.allocs, b.handle = a.handle → b.tier = .woodshed ∧ b.promote = false)
        ∧ t.mem.demotions = satAdd 32 (enter e s).mem.demotions 1
        ∧ t.mem.allocs.map (fun b => (b.handle, b.partition, b.base, b.granules, b.affinity))
            = (enter e s).mem.allocs.map (fun b => (b.handle, b.partition, b.base, b.granules, b.affinity))
        ∧ SameBytes (enter e s) t ∧ KeepsBut [.mem] (enter e s) t)
    ∧ ((enter e s).demotionDue = false → (enter e s).mayPromote a = true →
      ∃ t, exec (.tierMove e a.handle) s = .next t
        ∧ (∀ b ∈ t.mem.allocs, b.handle = a.handle → b.tier = .firebox ∧ b.promote = false)
        ∧ t.mem.allocs.map (fun b => (b.handle, b.partition, b.base, b.granules, b.affinity))
            = (enter e s).mem.allocs.map (fun b => (b.handle, b.partition, b.base, b.granules, b.affinity))
        ∧ SameBytes (enter e s) t ∧ KeepsBut [.mem] (enter e s) t)

/-- HOB_SCRUB (04 R123, R125): a correctable error is counted in its core; an uncorrectable one poisons its sector, is
counted, and is reported with CAUSE 1. No byte changes. -/
def HobScrubs : Prop :=
  ∀ (dt core a x y : Nat) (s : State), s.portUp = true → core < s.cores.length → core < 128 → a < 0x800000 →
    (∃ t, exec (.hobScrub { dt := dt, errs := [{ place := .hob core a, correctable := true }] } x y) s = .next t
      ∧ (t.coreAt core).hobCorrected = satAdd 16 ((advance dt s).coreAt core).hobCorrected 1
      ∧ KeepsBut [.cores] (advance dt s) t)
    ∧ ∃ t, exec (.hobScrub { dt := dt, errs := [{ place := .hob core a, correctable := false }] } x y) s = .next t
      ∧ (t.coreAt core).hobPoisoned = satAdd 16 ((advance dt s).coreAt core).hobPoisoned 1
      ∧ (t.coreAt core).poisonSector = a / 64 ∧ (t.coreAt core).poisonValid = true
      ∧ t.hobPoisoned core a 1 = true ∧ t.net.eventSeq = s.net.eventSeq + 1
      ∧ SameBytes s t ∧ KeepsBut [.cores, .mem, .net, .ctrs, .out, .cmds] (advance dt s) t

/-- HBM_SCRUB (07 R247, R250, R251, R252): a corrected sector is counted in its stack; an uncorrectable one is marked
poisoned, counted, and reported with CAUSE 1. No byte changes. -/
def HbmScrubs : Prop :=
  ∀ (dt k q va x y : Nat) (s : State), s.portUp = true → k < s.mem.hbmSet.length → k < 32 →
    (∃ t, exec (.hbmScrub { dt := dt, errs := [{ place := .stack k q va, correctable := true }] } x y) s = .next t
      ∧ (t.stackAt k).corrected = satAdd 16 (s.stackAt k).corrected 1
      ∧ SameBytes s t ∧ t.mem.poison = s.mem.poison ∧ KeepsBut [.mem] (advance dt s) t)
    ∧ ∃ t, exec (.hbmScrub { dt := dt, errs := [{ place := .stack k q va, correctable := false }] } x y) s = .next t
      ∧ (t.stackAt k).uncorrectable = satAdd 16 (s.stackAt k).uncorrectable 1
      ∧ memKey q (sectorOf va) ∈ t.mem.poison ∧ t.net.eventSeq = s.net.eventSeq + 1
      ∧ SameBytes s t ∧ KeepsBut [.mem, .net, .ctrs, .out, .cmds] (advance dt s) t

/-! ## The Flue port (03 R106 to R114) -/

/-- A Flue packet has arrived. -/
def arrived (f : FluePacket) (s : State) : State := (advance f.dt s).received f.src.ip (16 + f.payload.length)

/-- The virtual address at which a window's allocation begins. -/
def windowBase (s : State) (w : Window) : Nat := ((s.alloc? w.partition w.handle).map (·.base)).getD 0

/-- FLUE_OPEN (R106, R107): a window of the parameters' shape opens for the session, and the reply gives its generation,
its burst count and, for a write window, the credit of its first 256 bursts. No byte changes. -/
def WindowOpens : Prop :=
  ∀ (p : Packet) (n : Session) (s : State), Takes opFlueOpen flueOpenCheck flueOpenQuota p n s →
    ∃ t, exec (.flueOpen p) s = .next t
      ∧ (∃ w ∈ t.net.windows, w.partition = p.partition.toNat ∧ w.id = arg p 33 1 ∧ w.session = n.id
          ∧ w.handle = arg p 0 8 ∧ w.start = arg p 8 8 ∧ w.rowLength = arg p 16 4 ∧ w.rowCount = arg p 20 4
          ∧ w.rowPitch = arg p 24 8 ∧ w.read = decide (arg p 32 1 = 1) ∧ w.burstSize = arg p 34 2
          ∧ w.hostPort = arg p 36 2 ∧ w.cumSeq = 0 ∧ w.next = 0
          ∧ w.burstCount = ceilDiv (arg p 16 4 * arg p 20 4) (arg p 34 2)
          ∧ w.creditLimit = (if w.read then arg p 40 4 else min w.burstCount 256)
          ∧ Replied p (heard p n s) t 200000 0 0 (s.net.eventSeq + 1)
              (beBytes 1 w.gen ++ zeros 3 ++ beBytes 4 w.burstCount
                ++ beBytes 4 (if w.read then 0 else min w.burstCount 256)))
      ∧ (∀ w ∈ s.net.windows, w ∈ t.net.windows)
      ∧ KeepsModule (heard p n s) t

/-- FLUE_CLOSE (R113): the window is closed, no other is, and the reply carries its CUM_SEQ. -/
def WindowCloses : Prop :=
  ∀ (p : Packet) (n : Session) (s : State) (w : Window), Takes opFlueClose flueCloseCheck never p n s →
    s.window? p.partition.toNat (arg p 0 1) = some w →
    ∃ t, exec (.flueClose p) s = .next t
      ∧ Replied p (heard p n s) t 200000 0 0 (s.net.eventSeq + 1) (beBytes 4 w.cumSeq)
      ∧ t.net.windows = s.net.windows.filter (fun v => !(v.partition = p.partition.toNat && v.id = arg p 0 1))
      ∧ KeepsModule (heard p n s) t

/-- FLUE_DATA (R110, R111): a new burst of an open write window is written where its bytes belong and nowhere else, and
CUM_SEQ moves past every burst written without a gap; a burst below CUM_SEQ only draws an ACK. -/
def BurstWritten : Prop :=
  ∀ (f : FluePacket) (s : State) (w : Window), cellsWf s.mem.cells = true → (arrived f s).flueWindow f false = some w →
    w.accepts f.burstSeq.toNat f.payload.length = true →
    (w.cumSeq ≤ f.burstSeq.toNat → (w.rowLength ≤ w.rowPitch ∨ w.rowCount ≤ 1) →
      ∃ t, exec (.flueData f) s = .next t
        ∧ (∀ pc ∈ w.pieces f.burstSeq.toNat, ∀ i < pc.2.2,
            cellGet t.mem.cells (memKey w.partition (windowBase s w + pc.1 + i)) = f.payload.getD (pc.2.1 + i) 0)
        ∧ (∀ k, (∀ pc ∈ w.pieces f.burstSeq.toNat, ∀ i < pc.2.2, k ≠ memKey w.partition (windowBase s w + pc.1 + i)) →
            cellGet t.mem.cells k = cellGet s.mem.cells k)
        ∧ (∀ k, cellGet t.mem.hob k = cellGet s.mem.hob k)
        ∧ (∀ v ∈ t.net.windows, v.partition = w.partition → v.id = w.id →
            v.cumSeq = (catchUp w.cumSeq (setAdd w.beyond f.burstSeq.toNat)).1)
        ∧ KeepsBut [.net, .mem, .parts, .ctrs, .out] (arrived f s) t)
    ∧ (f.burstSeq.toNat < w.cumSeq →
      ∃ t, exec (.flueData f) s = .next t ∧ SameBytes s t
        ∧ (∃ e ∈ t.out, e = .udp 46211 ((arrived f s).windowPeer w)
            (fluePacketBytes w 0x41 w.cumSeq (beBytes 4 (min w.burstCount (w.cumSeq + 256)) ++ zeros 4)))
        ∧ KeepsBut [.net, .parts, .ctrs, .out] (arrived f s) t)

/-- FLUE_ACK_TIMER (R111): 20 µs after the last burst of a write window with a burst unacknowledged, an ACK goes out with
CUM_SEQ and CREDIT_LIMIT. -/
def AckTimerSends : Prop :=
  ∀ (e : Env) (s : State) (w : Window) (last : Nat), s.window? w.partition w.id = some w → w.read = false →
    0 < w.sinceAck → w.lastBurst = some last → last + 20000 ≤ s.clock.steady + e.dt →
    ∃ t, exec (.flueAckTimer e w.partition w.id) s = .next t
      ∧ t.out = [.udp 46211 (s.windowPeer w)
          (fluePacketBytes w 0x41 w.cumSeq (beBytes 4 (min w.burstCount (w.cumSeq + 256)) ++ zeros 4))]
      ∧ (∀ v ∈ t.net.windows, v.partition = w.partition → v.id = w.id → v.sinceAck = 0 ∧ v.lastBurst = none)
      ∧ KeepsBut [.net, .parts, .ctrs, .out] (advance e.dt s) t

/-- FLUE_CREDIT (R112): CREDIT_LIMIT of an open read window rises to the one given and never falls, and RESEND_FROM takes
the next burst back. -/
def CreditRaised : Prop :=
  ∀ (f : FluePacket) (s : State) (w : Window), (arrived f s).flueWindow f true = some w → f.payload.length = 8 →
    (f.burstSeq.toNat = 0xFFFFFFFF ∨ f.burstSeq.toNat < w.burstCount) →
    ∃ t, exec (.flueCredit f) s = .next t
      ∧ t.net.windows = s.net.windows.map (fun v => if v.partition = w.partition ∧ v.id = w.id then
          { v with creditLimit := max v.creditLimit (beAt f.payload 0 4),
                   next := if f.burstSeq.toNat = 0xFFFFFFFF then v.next else min v.next f.burstSeq.toNat } else v)
      ∧ t.out = [] ∧ KeepsBut [.net, .parts] (arrived f s) t

/-- FLUE_READ_BURST (R112): the first window that may send sends its next burst, as memory holds it, when no sector of it
is poisoned. -/
def BurstSent : Prop :=
  ∀ (e : Env) (s : State) (w : Window), (enter e s).net.windows.find? (enter e s).burstReady = some w →
    (∀ va ∈ w.burstSectors (windowBase (enter e s) w) w.next, (enter e s).sectorPoison View.home w.partition va = false) →
    ∃ t, exec (.flueReadBurst e) s = .next t
      ∧ (Emission.udp 46211 ((enter e s).windowPeer w) (fluePacketBytes w 0x44 w.next
          ((w.pieces w.next).map fun pc =>
            (enter e s).readMem View.home w.partition (windowBase (enter e s) w + pc.1) pc.2.2).flatten)) ∈ t.out
      ∧ (∀ v ∈ t.net.windows, v.partition = w.partition → v.id = w.id → v.next = w.next + 1)
      ∧ SameBytes (enter e s) t ∧ KeepsBut [.net, .mem, .parts, .ctrs, .out] (enter e s) t

/-! ## Images and launches (chapters 04 and 09) -/

/-- LOAD_IMAGE (04 R142 to R144): with room and nothing to reclaim, an image store is taken under the next handle, the
copy holds the bytes of the range named, and the command waits for the check. No byte of memory changes. -/
def ImageCopied : Prop :=
  ∀ (p : Packet) (n : Session) (s : State) (tier : Tier), TakesOn opLoadImage loadCheck loadQuota p n s →
    (freshened (heard p n s)).placeWs p.partition.toNat (ceilDiv (arg p 16 8) 2097152) none
      = .granted tier [] →
    ∃ t, exec (.loadImage p) s = .next t
      ∧ Replied p (heard p n s) t 200000 2 0 (s.net.eventSeq + 1) []
      ∧ (∃ i ∈ t.mem.images, i.handle = s.mem.nextImage ∧ i.partition = p.partition.toNat ∧ i.loaded = false
          ∧ i.granules = ceilDiv (arg p 16 8) 2097152
          ∧ i.bytes = (heard p n s).readMem View.home p.partition.toNat
              ((((heard p n s).alloc? p.partition.toNat (arg p 0 8)).map (·.base)).getD 0 + arg p 8 8) (arg p 16 8))
      ∧ (∀ i ∈ s.mem.images, i ∈ t.mem.images) ∧ t.mem.nextImage = s.mem.nextImage + 1
      ∧ (∃ c ∈ t.cmds, Slotted opLoadImage p n s none c ∧ c.work = .loadImage s.mem.nextImage)
      ∧ (∀ c ∈ s.cmds, c ∈ t.cmds) ∧ SameBytes s t ∧ KeepsBut (.mem :: acceptParts) (heard p n s) t

/-- IMAGE_CHECK (04 R148): an image without a failure of R148 is loaded and its LOAD_IMAGE completes with the handle and
the granules; any other is released and completes with the first failure. -/
def ImageChecked : Prop :=
  ∀ (e : Env) (s : State) (c : Cmd) (i : Image), (enter e s).cmd? c.id = some c → c.work = .loadImage i.handle →
    (enter e s).mem.images.find? (·.handle = i.handle) = some i →
    ((enter e s).imageBad i (e.errs.any (strikesCopy i.partition)) = none →
      ∃ t, exec (.imageCheck e c.id) s = .next t
        ∧ t.mem.images = (enter e s).mem.images.map (fun j => if j.handle = i.handle then { j with loaded := true } else j)
        ∧ Completed (enter e s) t c 0 0 (beBytes 8 i.handle ++ beBytes 4 i.granules ++ zeros 4)
        ∧ SameBytes (enter e s) t ∧ KeepsBut [.mem, .cmds, .net, .ctrs, .out] (enter e s) t)
    ∧ ∀ b : Bad, (enter e s).imageBad i (e.errs.any (strikesCopy i.partition)) = some b →
      ∃ t, exec (.imageCheck e c.id) s = .next t ∧ (∀ j ∈ t.mem.images, j.handle ≠ i.handle)
        ∧ (∀ j ∈ (enter e s).mem.images, j.handle ≠ i.handle → j ∈ t.mem.images)
        ∧ Completed (enter e s) t c b.status b.cause []
        ∧ SameBytes (enter e s) t ∧ KeepsBut [.mem, .cmds, .net, .ctrs, .out] (enter e s) t

/-- UNLOAD_IMAGE (04 R149, R152): the image store is released, and no core keeps a section of it as resident. -/
def ImageUnloaded : Prop :=
  ∀ (p : Packet) (n : Session) (s : State), Takes opUnloadImage unloadCheck never p n s →
    ∃ t, exec (.unloadImage p) s = .next t
      ∧ Replied p (heard p n s) t 200000 0 0 (s.net.eventSeq + 1) []
      ∧ (∀ i ∈ t.mem.images, i.handle ≠ arg p 0 8) ∧ (∀ i ∈ s.mem.images, i.handle ≠ arg p 0 8 → i ∈ t.mem.images)
      ∧ (∀ c ∈ t.cores, ∀ r ∈ c.residency, r.image ≠ arg p 0 8)
      ∧ SameBytes s t ∧ KeepsBut [.net, .ctrs, .out, .fresh, .mem, .cores] (heard p n s) t

/-- LAUNCH (04 R150, 02 R45): accepted, best effort or with its reservation, it waits for a stoke boundary with the
image, the core set and the arguments of its parameters. -/
def LaunchWaits : Prop :=
  ∀ (p : Packet) (n : Session) (s : State) (r : Option Reservation), TakesOn opLaunch launchCheck never p n s →
    byCost ((heard p n s).ctx opLaunch p n) (heard p n s) = r.map Except.ok →
    ∃ t, exec (.launch p) s = .next t
      ∧ Replied p (heard p n s) t (replyBound opLaunch p) (if r.isSome then 1 else 2) 0 (s.net.eventSeq + 1) []
      ∧ (∃ g ∈ t.seqs.runs, g.id = s.seqs.nextId ∧ g.kind = .launch s.nextCmd ∧ g.image = arg p 0 8
          ∧ g.partition = p.partition.toNat ∧ g.cores = bitsSet 128 (arg p 8 16) ∧ g.args = slice (body p) 32 (arg p 26 2)
          ∧ g.started = false)
      ∧ (∀ g ∈ s.seqs.runs, g ∈ t.seqs.runs)
      ∧ (∃ c ∈ t.cmds, Slotted opLaunch p n s r c ∧ c.work = .launch s.seqs.nextId)
      ∧ KeepsBut (.seqs :: .watch :: acceptParts) (heard p n s) t

/-- LAUNCH_END (04 R154, R155): when every core of a launch outside a journal has retired its last macro-instruction and
the watch has nothing to say, the cores are idle, and the command completes with the run's status and its payload. -/
def LaunchEnds : Prop :=
  ∀ (e : Env) (s : State) (r : Run) (c : Cmd), (enter e s).run? r.id = some r → r.kind = .launch c.id →
    (enter e s).cmd? c.id = some c → c.journal = 0 → (enter e s).journalOf 0 = none → r.poisoned = false →
    (enter e s).runRetired r = true → (r.fail ≠ 0 ∨ ((enter e s).fenceRun r).launchEvents r = []) →
    ∃ t, exec (.launchEnd e r.id) s = .next t ∧ (∀ g ∈ t.seqs.runs, g.id ≠ r.id)
      ∧ (∀ n ∈ r.cores, n < s.cores.length → ((enter e s).coreAt n).run = r.id → (t.coreAt n).run = 0)
      ∧ Completed (enter e s) t c (c.endStatus r.fail) r.failCause
          (launchPayload r.image ((enter e s).runCycles r) r.failCore r.failIndex)

/-- STALL_LIMIT (04 R141, 17 R549): a launch with a core that has waited too long is reset: its run is gone, and its cores
are idle, with their event counters and mailboxes empty. -/
def StallResets : Prop :=
  ∀ (e : Env) (s : State) (r : Run), (advance e.dt s).run? r.id = some r → r.started = true →
    (advance e.dt s).stalledOut r = true → (s.part? r.partition).any (·.resetting) = false →
    ∃ t, exec (.stallLimit e r.id) s = .next t
      ∧ ∀ n ∈ r.cores, n < s.cores.length → (s.coreAt n).run = r.id →
          (t.coreAt n).run = 0 ∧ (t.coreAt n).unretired = [] ∧ (t.coreAt n).mailbox = [] ∧ (t.coreAt n).requests = []
            ∧ (t.coreAt n).events = List.replicate 32 0

/-- The state in which a boundary's work list is built: allocations stamped, counter samples drained. -/
def onBoundary (e : Env) (s : State) : State :=
  let b := (enter e s).boundaryNow
  ({ enter e s with clock.lastBoundary := b }.stampUse b).drainSamples

/-- STOKE_BOUNDARY (07 R233, 09 R315, 17 R541): the boundary is acted on once; in S1 no work starts, and every allocation
used since the last one has it as LAST_USE; S1 is entered with nothing in flight; and a launch that may start and has its
cores starts on them. -/
def BoundaryActs : Prop :=
  ∀ (e : Env) (s : State), (enter e s).boot.mode = .ready → (enter e s).clock.lastBoundary < (enter e s).boundaryNow →
    (∃ t, exec (.stokeBoundary e) s = .next t ∧ t.clock.lastBoundary = (enter e s).boundaryNow)
    ∧ ((enter e s).boot.pstate = .s1 → s.parts = [] →
      ∃ t, exec (.stokeBoundary e) s = .next t
        ∧ t.mem.allocs = (enter e s).mem.allocs.map (fun a =>
            if a.accessed then { a with accessed := false, lastUse := (enter e s).boundaryNow } else a)
        ∧ SameBytes (enter e s) t ∧ KeepsBut [.clock, .mem] (enter e s) t)
    ∧ ((enter e s).boot.pstate = .run → s.parts = [] → s.boot.target = 1 → (enter e s).cmds = [] → s.net.windows = [] →
      s.zhevub.posts = [] → (enter e s).zhevub.ops = [] → s.zhevub.waiting = [] → (∀ k ∈ s.zhevub.links, k.sumTimes = []) →
      ∃ t, exec (.stokeBoundary e) s = .next t ∧ t.boot.pstate = .s1)
    ∧ ∀ (u : State) (q : Partition) (r : Run) (c : Cmd) (i : Image) (cores : List Nat),
      u = onBoundary e s →
      u.boot.pstate = .run → u.boot.target = 0 → u.parts = [q] → q.resetting = false → u.seqs.table = [] →
      u.seqs.batches = [] → u.seqs.runs = [r] → r.partition = q.num → r.started = false → r.kind = .launch c.id →
      u.cmd? c.id = some c → c.replyTime < (enter e s).boundaryNow → u.journalLets c = true →
      u.mem.images.find? (·.handle = r.image) = some i → u.placeCores q.num (imgCores i.bytes) (maskOf r.cores) = some cores →
      u.damperOpen q.num = true → u.zhevub.posts = [] → u.zhevub.ops = [] → u.zhevub.waiting = [] →
      (∀ k ∈ u.zhevub.links, k.sumTimes = []) →
      ∃ t, exec (.stokeBoundary e) s = .next t
        ∧ ∃ g ∈ t.seqs.runs, g.id = r.id ∧ g.started = true ∧ g.cores = cores ∧ g.boundary = (enter e s).boundaryNow

/-- R305: while any sequence that is not CLOSED names the image as its MODEL_HANDLE, UNLOAD_IMAGE is refused with
BAD_DESCRIPTOR, cause STATE, and nothing changes. -/
def ImageNamed : Prop :=
  ∀ (p : Packet) (n : Session) (s : State) (q : Seq), (landed p s).verdict p = .command n →
    (heard p n s).commonBad opUnloadImage p = none → ((heard p n s).image? p.partition.toNat (arg p 0 8)).isSome = true →
    q ∈ s.seqs.table → q.state ≠ .closed → q.model = arg p 0 8 →
    ∃ t, exec (.unloadImage p) s = .next t
      ∧ Replied p (heard p n s) t 200000 0x0201 15 (s.net.eventSeq + 1) [] ∧ KeepsModule (heard p n s) t

/-! ## Sequences (chapter 09) -/

/-- SEQ_OPEN (R302, R303): a new sequence under the next handle, OPEN and unbound, with the fields of the parameters. -/
def SequenceOpens : Prop :=
  ∀ (p : Packet) (n : Session) (s : State), Takes opSeqOpen seqOpenCheck seqOpenQuota p n s →
    (arg p 30 2).testBit 1 = false → s.seqs.table.length < 16384 →
    ∃ t, exec (.seqOpen p) s = .next t
      ∧ Replied p (heard p n s) t 200000 0 0 (s.net.eventSeq + 1) (beBytes 8 s.seqs.nextSeq)
      ∧ (∃ q ∈ t.seqs.table, q.handle = s.seqs.nextSeq ∧ q.state = .opened ∧ q.partition = p.partition.toNat
          ∧ q.refine = decide (arg p 24 1 = 1) ∧ q.priority = arg p 25 1 ∧ q.batchMax = arg p 26 1
          ∧ q.refreshPeriod = (if arg p 27 1 = 0 then 4 else arg p 27 1) ∧ q.batchWait = arg p 28 2
          ∧ q.model = arg p 0 8 ∧ q.binding = none ∧ q.resultHandle = arg p 56 8 ∧ q.resultOffset = arg p 64 8
          ∧ q.resultBytes = arg p 72 2 ∧ q.coreSet = arg p 8 16 ∧ q.passesDone = 0)
      ∧ (∀ q ∈ s.seqs.table, q ∈ t.seqs.table) ∧ t.seqs.nextSeq = s.seqs.nextSeq + 1
      ∧ KeepsBut [.net, .ctrs, .out, .fresh, .seqs] (heard p n s) t

/-- REVIVE (R304): the EVICTED sequence named is OPEN again under its handle, with the parameters' fields and unbound; no
other entry changes. -/
def SequenceRevives : Prop :=
  ∀ (p : Packet) (n : Session) (s : State), Takes opSeqOpen seqOpenCheck seqOpenQuota p n s →
    (arg p 30 2).testBit 1 = true →
    ∃ t, exec (.revive p) s = .next t
      ∧ Replied p (heard p n s) t 200000 0 0 (s.net.eventSeq + 1) (beBytes 8 (arg p 80 8))
      ∧ (∀ q ∈ t.seqs.table, q.handle = arg p 80 8 →
          q.state = .opened ∧ q.binding = none ∧ q.model = arg p 0 8 ∧ q.coreSet = arg p 8 16 ∧ q.closing = 0)
      ∧ (∀ q ∈ s.seqs.table, q.handle ≠ arg p 80 8 → q ∈ t.seqs.table)
      ∧ t.seqs.table.map (·.handle) = s.seqs.table.map (·.handle)
      ∧ KeepsBut [.net, .ctrs, .out, .fresh, .seqs] (heard p n s) t

/-- SEQ_QUERY (R306): the reply carries the entry of the sequence that the first 8 of its 16 bytes of parameters name, 128
bytes, whatever the sequence's state, and nothing changes. -/
def SequenceQueried : Prop :=
  ∀ (p : Packet) (n : Session) (s : State) (q : Seq),
    Takes opSeqQuery (fun c s => badIf (s.seq? c.part (c.be 0 8)).isNone 5) never p n s →
    s.seq? p.partition.toNat (arg p 0 8) = some q →
    ∃ t, exec (.seqQuery p) s = .next t
      ∧ Replied p (heard p n s) t 200000 0 0 (s.net.eventSeq + 1) ((heard p n s).seqEntry q)
      ∧ ((heard p n s).seqEntry q).length = 128 ∧ KeepsModule (heard p n s) t

/-- SEQ_CLOSE (R307, 07 R224): a sequence with no step is CLOSED at once, its allocations become PINNED and unowned, and
the command completes with DONE; with steps left it only waits for them. -/
def SequenceCloses : Prop :=
  ∀ (p : Packet) (n : Session) (s : State), TakesOn opSeqClose seqCloseCheck never p n s → Numbered s →
    (s.stepsOf (arg p 0 8) = [] →
      ∃ t, exec (.seqClose p) s = .next t ∧ Replied p (heard p n s) t 200000 2 0 (s.net.eventSeq + 1) []
        ∧ (∀ q ∈ t.seqs.table, q.handle = arg p 0 8 → q.state = .closed ∧ q.binding = none)
        ∧ (∀ q ∈ s.seqs.table, q.handle ≠ arg p 0 8 → q ∈ t.seqs.table)
        ∧ t.mem.allocs = s.mem.allocs.map (fun a =>
            if a.owner = arg p 0 8 then { a with evictable := false, owner := 0 } else a)
        ∧ (∀ m ∈ t.net.sessions, m.id = n.id → ∃ r, Ringed m r ∧ r.kind = 1 ∧ r.code = 0 ∧ r.cause = 0
            ∧ r.cmdSeq = p.seq.toNat ∧ s.net.eventSeq + 1 < r.eventSeq)
        ∧ SameBytes s t ∧ KeepsBut (.seqs :: .mem :: .kv :: acceptParts) (heard p n s) t)
    ∧ (s.stepsOf (arg p 0 8) ≠ [] →
      ∃ t, exec (.seqClose p) s = .next t ∧ Replied p (heard p n s) t 200000 2 0 (s.net.eventSeq + 1) []
        ∧ t.seqs.table = s.seqs.table.map (fun q => if q.handle = arg p 0 8 then { q with closing := s.nextCmd } else q)
        ∧ (∃ c ∈ t.cmds, Slotted opSeqClose p n s none c ∧ c.work = .seqClose (arg p 0 8))
        ∧ KeepsBut (.seqs :: acceptParts) (heard p n s) t)

/-- SEQ_STEP (R308 to R312): an accepted step of a sequence that is not EVICTED joins the sequence's steps with the pass
count, release and arguments of its parameters, and an OPEN sequence becomes READY; a step of an EVICTED one completes
with cause of its own (R308). -/
def StepJoins : Prop :=
  ∀ (p : Packet) (n : Session) (s : State) (q : Seq) (r : Option Reservation),
    TakesOn opSeqStep seqStepCheck never p n s → Numbered s → s.seq? p.partition.toNat (arg p 0 8) = some q →
    seqStepAdmission ((heard p n s).ctx opSeqStep p n) (heard p n s) = r.map Except.ok →
    (q.state ≠ .evicted →
      ∃ t, exec (.seqStep p) s = .next t
        ∧ Replied p (heard p n s) t (replyBound opSeqStep p) (if r.isSome then 1 else 2) 0 (s.net.eventSeq + 1) []
        ∧ (∃ x ∈ t.seqs.steps, x.id = s.seqs.nextId ∧ x.cmd = s.nextCmd ∧ x.seq = q.handle ∧ x.passes = arg p 8 2
            ∧ x.passIndex = 0 ∧ x.args = slice (body p) 24 16
            ∧ x.release = (if (arg p 10 1).testBit 0 then (q.grid.map fun g => g.boundary (arg p 16 8)).getD 0 else 0))
        ∧ (∀ x ∈ s.seqs.steps, x ∈ t.seqs.steps)
        ∧ t.seqs.table = s.seqs.table.map (fun y =>
            if y.handle = q.handle then { y with state := if y.state = .opened then .ready else y.state } else y)
        ∧ (∃ c ∈ t.cmds, Slotted opSeqStep p n s r c ∧ c.work = .seqStep s.seqs.nextId)
        ∧ KeepsBut (.seqs :: .watch :: acceptParts) (heard p n s) t)
    ∧ (q.state = .evicted → r = none →
      ∃ t, exec (.seqStep p) s = .next t ∧ t.seqs.table = s.seqs.table ∧ t.seqs.steps = s.seqs.steps
        ∧ (∀ m ∈ t.net.sessions, m.id = n.id → ∃ x, Ringed m x ∧ x.kind = 1 ∧ x.code = 0x0306 ∧ x.cmdSeq = p.seq.toNat)
        ∧ KeepsBut (.seqs :: acceptParts) (heard p n s) t)

/-- BATCH_CLOSE (R318): a batch whose time has come is closed, and nothing else changes. -/
def BatchCloses : Prop :=
  ∀ (e : Env) (b : Batch) (s : State), s.batch? b.id = some b → b.closeAt ≤ (advance e.dt s).clock.mt →
    ∃ t, exec (.batchClose e b.id) s = .next t
      ∧ t.seqs.batches = s.seqs.batches.map (fun k => if k.id = b.id then { k with closed := true } else k)
      ∧ t.seqs.table = s.seqs.table ∧ t.seqs.steps = s.seqs.steps ∧ t.seqs.runs = s.seqs.runs
      ∧ KeepsBut [.seqs] (advance e.dt s) t

/-! ## Page tables (chapter 08) -/

/-- What refuses an APPEND and a REPLACE (R290, R291). -/
def appendCheck (c : Ctx) (s : State) : Option Bad :=
  firstBad [badIf (bodyShort c) 2, editBad false (fun _ b => appendMore c s b) c s]
def replaceCheck (c : Ctx) (s : State) : Option Bad :=
  firstBad [badIf (bodyShort c) 2, editBad false (fun _ b => replaceMore c s b) c s]
def truncateCheck (c : Ctx) (s : State) : Option Bad :=
  editBad true (fun _ b =>
    badIf ((editLayers c b).any fun l => !lengthOk (geoP b.geometry) (b.layer l) (editArg c)) 7) c s

/-- The table of layer `l` of a sequence of the packet's partition, as state `t` holds it. -/
def layerIn (t : State) (p : Packet) (l : Nat) : Option Layer :=
  ((t.seq? p.partition.toNat (arg p 0 8)).bind (·.binding)).map (·.layer l)

/-- The sequence a page edit names, and its binding. -/
abbrev Edits (p : Packet) (s : State) (q : Seq) (b : Binding) : Prop :=
  s.seq? p.partition.toNat (arg p 0 8) = some q ∧ q.binding = some b

/-- What a page edit may change beside its own reply. -/
def editParts : List StatePart := [.net, .ctrs, .out, .fresh, .seqs, .kv]

/-- BIND (R264, R265): the sequence is bound with the geometry, layout and staging area of the parameters, and each of
its layers has an empty page table. -/
def SequenceBound : Prop :=
  ∀ (p : Packet) (n : Session) (s : State), Takes opPtEdit bindCheck never p n s →
    ∃ t, exec (.bindSeq p) s = .next t ∧ Replied p (heard p n s) t 200000 0 0 (s.net.eventSeq + 1) (zeros 24)
      ∧ (∀ q ∈ t.seqs.table, q.handle = arg p 0 8 → ∃ b, q.binding = some b ∧ b.geometry = arg p 32 4 % 2 ^ 18
          ∧ b.layers = arg p 36 2 ∧ b.layout = arg p 38 1 ∧ b.basePos = arg p 40 8 ∧ b.frameTokens = arg p 48 4
          ∧ b.rowTokens = arg p 52 2 ∧ b.staging = arg p 56 8 ∧ b.stagingOffset = arg p 64 8
          ∧ b.tables.length = arg p 36 2 ∧ ∀ l ∈ b.tables, l.pages = [] ∧ l.length = 0 ∧ l.generation = 0)
      ∧ (∀ q ∈ s.seqs.table, q.handle ≠ arg p 0 8 → q ∈ t.seqs.table)
      ∧ KeepsBut [.net, .ctrs, .out, .fresh, .seqs] (heard p n s) t

/-- APPEND (R291, R294): the frames of the body follow the layer's pages in order, each in use, and the layer has the
next generation; no other layer changes. -/
def PagesAppended : Prop :=
  ∀ (p : Packet) (n : Session) (s : State) (q : Seq) (b : Binding), Takes opPtEdit appendCheck never p n s →
    Edits p s q b → arg p 8 2 < b.tables.length →
    ∃ t, exec (.appendPages p) s = .next t ∧ (∃ seq data, Replied p (heard p n s) t 200000 0 0 seq data)
      ∧ (∃ l, layerIn t p (arg p 8 2) = some l
          ∧ l.pages = (b.layer (arg p 8 2)).pages ++ (List.range (arg p 12 4)).map (fun i => arg p (32 + 16 * i) 4)
          ∧ l.generation = ((b.layer (arg p 8 2)).generation + 1) % 2 ^ 32
          ∧ l.length = l.pages.length * geoP b.geometry + (b.layer (arg p 8 2)).fill)
      ∧ (∀ k, k < b.tables.length → k ≠ arg p 8 2 → layerIn t p k = some (b.layer k))
      ∧ (∀ i < arg p 12 4, ∃ f, t.frame? (arg p (32 + 16 * i) 4) = some f ∧ f.state = .used)
      ∧ KeepsBut editParts (heard p n s) t

/-- REPLACE (R291, R294): entry `i` of the body takes the place of page FIRST_PAGE + i, and no other page changes. -/
def PagesReplaced : Prop :=
  ∀ (p : Packet) (n : Session) (s : State) (q : Seq) (b : Binding), Takes opPtEdit replaceCheck never p n s →
    Edits p s q b → arg p 8 2 < b.tables.length →
    ∃ t, exec (.replacePages p) s = .next t ∧ (∃ seq data, Replied p (heard p n s) t 200000 0 0 seq data)
      ∧ (∃ l, layerIn t p (arg p 8 2) = some l ∧ l.pages.length = (b.layer (arg p 8 2)).pages.length
          ∧ (∀ i < arg p 12 4, l.pages[arg p 16 8 + i]? = some (arg p (32 + 16 * i) 4))
          ∧ (∀ k, k < arg p 16 8 ∨ arg p 16 8 + arg p 12 4 ≤ k → l.pages[k]? = (b.layer (arg p 8 2)).pages[k]?)
          ∧ l.generation = ((b.layer (arg p 8 2)).generation + 1) % 2 ^ 32)
      ∧ (∀ k, k < b.tables.length → k ≠ arg p 8 2 → layerIn t p k = some (b.layer k))
      ∧ KeepsBut editParts (heard p n s) t

/-- The layers that an edit of one layer or of all (0xFFFF) names. -/
abbrev Names (p : Packet) (b : Binding) (k : Nat) : Prop := k < b.tables.length ∧ if arg p 8 2 = 0xFFFF then k < b.layers else k = arg p 8 2

/-- TRUNCATE (R292, R294): every layer named keeps the whole pages below NEW_LENGTH and has that length; FREE is the same
at length 0; no other layer changes. -/
def PagesCut (c : Packet → Instr) (check : Ctx → State → Option Bad) (length : Packet → Nat) : Prop :=
  ∀ (p : Packet) (n : Session) (s : State) (q : Seq) (b : Binding), Takes opPtEdit check never p n s → Edits p s q b →
    ∃ t, exec (c p) s = .next t ∧ (∃ seq data, Replied p (heard p n s) t 200000 0 0 seq data)
      ∧ (∀ k, Names p b k → ∃ l, layerIn t p k = some l
          ∧ l.pages = (b.layer k).pages.take (length p / geoP b.geometry) ∧ l.length = length p
          ∧ l.generation = ((b.layer k).generation + 1) % 2 ^ 32)
      ∧ (∀ k, k < b.tables.length → ¬ Names p b k → layerIn t p k = some (b.layer k))
      ∧ KeepsBut editParts (heard p n s) t

/-- STATE (R290): the reply carries GENERATION, PAGES and LENGTH of the layer, and nothing changes. -/
def PagesReported : Prop :=
  ∀ (p : Packet) (n : Session) (s : State) (q : Seq) (b : Binding),
    Takes opPtEdit (editBad false fun _ _ => none) never p n s → Edits p s q b → arg p 8 2 ≠ 0xFFFF →
    ∃ t, exec (.ptState p) s = .next t
      ∧ Replied p (heard p n s) t 200000 0 0 (s.net.eventSeq + 1)
          (beBytes 4 (b.layer (arg p 8 2)).generation ++ beBytes 4 (b.layer (arg p 8 2)).pages.length
            ++ beBytes 8 (b.layer (arg p 8 2)).length ++ zeros 8)
      ∧ KeepsModule (heard p n s) t

/-- CARVE (R263): the allocation is cut into frames of the geometry, numbered from the lowest free run, all FREE, with
their data one after the other and their sidecars behind, and it is carved from then on. -/
def FramesCarved : Prop :=
  ∀ (p : Packet) (n : Session) (s : State) (a : Alloc) (count first : Nat), Takes opPtEdit carveCheck carveQuota p n s →
    s.alloc? p.partition.toNat (arg p 32 8) = some a →
    count = (if arg p 44 4 = 0 then carveMost (arg p 40 4) a.bytes else arg p 44 4) → s.carveRun count = some first →
    ∃ t, exec (.carve p) s = .next t
      ∧ Replied p (heard p n s) t 200000 0 0 (s.net.eventSeq + 1) (zeros 16 ++ beBytes 4 first ++ beBytes 4 count)
      ∧ t.kv.frames.length = s.kv.frames.length + count ∧ (∀ f ∈ s.kv.frames, f ∈ t.kv.frames)
      ∧ (∀ j < count, ∃ f ∈ t.kv.frames, f.num = first + j ∧ f.state = .free ∧ f.refcount = 0
          ∧ f.partition = p.partition.toNat ∧ f.geometry = arg p 40 4 % 2 ^ 18 ∧ f.alloc = a.handle
          ∧ f.dataVa = a.base + j * dataBytes f.geometry
          ∧ f.sidecarVa = a.base + roundUp (count * dataBytes f.geometry) 4096 + j * sidecarBytes f.geometry)
      ∧ t.mem.allocs = s.mem.allocs.map (fun x => if x.handle = a.handle then { x with carved := true } else x)
      ∧ SameBytes s t ∧ KeepsBut [.net, .ctrs, .out, .fresh, .kv, .mem] (heard p n s) t

/-! ## Watch policy and journals (chapter 12) -/

/-- SET_POLICY (R383): the partition's policy is that of the parameters; its entries and the other partitions' watches
stay. -/
def PolicySet : Prop :=
  ∀ (p : Packet) (n : Session) (s : State), Takes opWatchSet policyCheck never p n s →
    ∃ t, exec (.setPolicy p) s = .next t ∧ Replied p (heard p n s) t 200000 0 0 (s.net.eventSeq + 1) []
      ∧ (t.watchOf p.partition.toNat).policy = policyAt ((body p).drop 8)
      ∧ (t.watchOf p.partition.toNat).entries = (s.watchOf p.partition.toNat).entries
      ∧ (∀ k, k ≠ p.partition.toNat → t.watchOf k = s.watchOf k)
      ∧ KeepsBut [.net, .ctrs, .out, .fresh, .watch] (heard p n s) t

/-- SET_ENTRIES (R384, R385): every valid entry of the body is in force from the next launch on, an entry in force of the
same index goes, and no other does. -/
def EntriesSet : Prop :=
  ∀ (p : Packet) (n : Session) (s : State), Takes opWatchSet entriesCheck never p n s →
    ∃ t, exec (.setEntries p) s = .next t ∧ Replied p (heard p n s) t 200000 0 0 (s.net.eventSeq + 1) []
      ∧ (∀ i < arg p 4 2, ∀ b, b = slice (body p) (8 + 64 * i) 64 → (beAt b 3 1).testBit 0 = true →
          ∃ x ∈ (t.watchOf p.partition.toNat).entries, x.index = arg p 2 2 + i ∧ x.retired = none
            ∧ x.layerId = beAt b 0 2 ∧ x.handle = beAt b 8 8 ∧ x.offset = beAt b 16 8 ∧ x.length = beAt b 24 8
            ∧ x.templateHandle = beAt b 32 8 ∧ x.templateOffset = beAt b 40 8 ∧ x.since = s.mem.nextOp)
      ∧ (∀ x ∈ (t.watchOf p.partition.toNat).entries, x.retired = none → x.since ≠ s.mem.nextOp →
          x ∈ (s.watchOf p.partition.toNat).entries ∧ ¬ (arg p 2 2 ≤ x.index ∧ x.index < arg p 2 2 + arg p 4 2))
      ∧ (∀ x ∈ (s.watchOf p.partition.toNat).entries, ¬ (arg p 2 2 ≤ x.index ∧ x.index < arg p 2 2 + arg p 4 2) →
          x ∈ (t.watchOf p.partition.toNat).entries)
      ∧ (t.watchOf p.partition.toNat).policy = (s.watchOf p.partition.toNat).policy
      ∧ SameBytes s t ∧ KeepsBut [.net, .ctrs, .out, .fresh, .watch, .mem] (heard p n s) t

/-- CLEAR_ALL (R382, R385): no entry stays in force, and the policy is the initial one. -/
def WatchCleared : Prop :=
  ∀ (p : Packet) (n : Session) (s : State), Takes opWatchSet (fun c s => firstBad [watchCommon c s, s.unitBad 6]) never p n s →
    ∃ t, exec (.clearAll p) s = .next t ∧ Replied p (heard p n s) t 200000 0 0 (s.net.eventSeq + 1) []
      ∧ (t.watchOf p.partition.toNat).policy = Policy.initial
      ∧ (∀ x ∈ (t.watchOf p.partition.toNat).entries, x.retired ≠ none)
      ∧ SameBytes s t ∧ KeepsBut [.net, .ctrs, .out, .fresh, .watch, .mem] (heard p n s) t

/-- STEP_BEGIN (R394): with room and nothing to reclaim, a journal over the allocations named opens under the next handle,
with nothing shadowed. -/
def JournalOpens : Prop :=
  ∀ (p : Packet) (n : Session) (s : State) (tier : Tier), Takes opStepBegin stepBeginCheck stepBeginQuota p n s →
    shadowPlace ((heard p n s).ctx opStepBegin p n) (freshened (heard p n s)) .woodshed
      = .granted tier [] →
    ∃ t, exec (.stepBegin p) s = .next t
      ∧ (∃ data, Replied p (heard p n s) t 200000 0 0 (s.net.eventSeq + 1) (beBytes 8 s.mem.nextHandle ++ data))
      ∧ (∃ j ∈ t.watch.journals, j.handle = s.mem.nextHandle ∧ j.partition = p.partition.toNat
          ∧ j.allocs = (List.range (arg p 0 2)).map (fun i => arg p (8 + 8 * i) 8) ∧ j.state = .opened ∧ j.cmds = []
          ∧ j.shadowed = [] ∧ j.shadow = [])
      ∧ (∀ j ∈ s.watch.journals, j ∈ t.watch.journals) ∧ t.mem.nextHandle = s.mem.nextHandle + 1
      ∧ SameBytes s t ∧ KeepsBut [.net, .ctrs, .out, .fresh, .watch, .mem] (heard p n s) t

/-- STEP_COMMIT (R398): the journal takes no further command, and the STEP_COMMIT waits for those it has. -/
def CommitWaits : Prop :=
  ∀ (p : Packet) (n : Session) (s : State), TakesOn opStepCommit journalBad never p n s →
    ∃ t, exec (.stepCommit p) s = .next t ∧ Replied p (heard p n s) t 200000 2 0 (s.net.eventSeq + 1) []
      ∧ t.watch.journals = s.watch.journals.map (fun j =>
          if j.handle = arg p 0 8 then { j with state := .committing, commitCmd := s.nextCmd } else j)
      ∧ (∃ c ∈ t.cmds, Slotted opStepCommit p n s none c ∧ c.work = .stepCommit (arg p 0 8))
      ∧ SameBytes s t ∧ KeepsBut (.watch :: acceptParts) (heard p n s) t

/-- STEP_COMMIT_PUBLISH (R396, R398): once every command of the journal has ended well, every shadowed granule takes its
shadow's bytes, no other byte changes, and the journal and its commands are gone. -/
def CommitPublishes : Prop :=
  ∀ (e : Env) (q : Nat) (j : Journal) (s : State), Canonical s → s.journal? q = some j → j.state = .committing →
    (∀ c ∈ j.cmds, j.ended.any (·.cmd = c) = true) → j.failed = 0 → cellsWf j.shadow = true →
    (∀ c ∈ j.shadow, c.1 / granuleBytes ∈ j.shadowed) →
    ∃ t, exec (.stepCommitPublish e q) s = .next t
      ∧ (∀ k, k / granuleBytes ∈ j.shadowed → cellGet t.mem.cells k = cellGet j.shadow k)
      ∧ (∀ k, k / granuleBytes ∉ j.shadowed → cellGet t.mem.cells k = cellGet s.mem.cells k)
      ∧ (∀ k, cellGet t.mem.hob k = cellGet s.mem.hob k)
      ∧ (∀ x ∈ t.watch.journals, x.handle ≠ j.handle)
      ∧ (∀ c ∈ t.cmds, c.id ≠ j.commitCmd ∧ c.id ∉ j.cmds)
      ∧ ∀ c, j.cmds = [] → s.cmd? j.commitCmd = some c → ∃ payload, Completed (advance e.dt s) t c 0 0 payload

/-- STEP_ABORT (R399): the journal and its commands are gone, and no byte of memory has changed. -/
def JournalAborts : Prop :=
  ∀ (p : Packet) (n : Session) (s : State) (j : Journal), Takes opStepAbort journalBad never p n s →
    s.journalOf (arg p 0 8) = some j →
    ∃ t, exec (.stepAbort p) s = .next t ∧ (∃ seq, s.net.eventSeq < seq ∧ Replied p (heard p n s) t 200000 0 0 seq [])
      ∧ (∀ x ∈ t.watch.journals, x.handle ≠ arg p 0 8) ∧ (∀ c ∈ t.cmds, c.id ∉ j.cmds) ∧ SameBytes s t

/-! ## Partitions and Dampers (chapter 15) -/

/-- PART_CREATE (R469, R470): a partition with the clusters, quotas, floors and ceilings of the parameters, and five
Dampers of the rates given, each with at most its BURST of tokens and nothing waiting. -/
def PartitionCreated : Prop :=
  ∀ (p : Packet) (n : Session) (s : State), Takes opPartCreate partCreateCheck partCreateQuota p n s →
    ∃ t, exec (.partCreate p) s = .next t ∧ Replied p (heard p n s) t 200000 0 0 (s.net.eventSeq + 1) []
      ∧ (∃ q ∈ t.parts, q.num = arg p 0 1 ∧ q.clusters = arg p 2 2 ∧ q.slotQuota = arg p 4 2 ∧ q.seqQuota = arg p 6 2
          ∧ q.windowQuota = arg p 8 2 ∧ q.fbFloor = arg p 16 4 ∧ q.fbCeiling = arg p 20 4 ∧ q.wsFloor = arg p 24 4
          ∧ q.wsCeiling = arg p 28 4 ∧ q.destroying = 0 ∧ q.resetting = false ∧ q.dampers.length = 5
          ∧ ∀ k d, q.dampers[k]? = some d → d.rate = arg p (32 + 8 * k) 4 ∧ d.burst = arg p (36 + 8 * k) 4
              ∧ 0 ≤ d.tokens ∧ d.tokens ≤ d.burst ∧ d.waiting = [])
      ∧ (∀ q ∈ s.parts, q ∈ t.parts) ∧ KeepsBut [.net, .ctrs, .out, .fresh, .parts] (heard p n s) t

/-- DAMPER_SET (R478, R479): every class of SET_MASK takes its entry at once, keeping its tokens up to the new BURST; the
other classes and the other partitions stay. -/
def DamperChanged : Prop :=
  ∀ (p : Packet) (n : Session) (s : State) (q : Partition), Takes opDamperSet damperSetCheck never p n s →
    s.part? p.partition.toNat = some q →
    ∃ t, exec (.damperSet p) s = .next t ∧ Replied p (heard p n s) t 200000 0 0 (s.net.eventSeq + 1) []
      ∧ (∃ r, t.part? p.partition.toNat = some r ∧ r.dampers.length = q.dampers.length
          ∧ (∀ k d, q.dampers[k]? = some d → k < 5 → (arg p 0 1).testBit k = true → ∃ d', r.dampers[k]? = some d'
              ∧ d'.rate = arg p (8 + 8 * k) 4 ∧ d'.burst = arg p (12 + 8 * k) 4 ∧ d'.waiting = d.waiting
              ∧ (d'.rate ≠ 0xFFFFFFFF → d'.tokens = min d.tokens (d'.burst : Int)))
          ∧ ∀ k, (5 ≤ k ∨ (arg p 0 1).testBit k = false) → r.dampers[k]? = q.dampers[k]?)
      ∧ (∀ r ∈ s.parts, r.num ≠ p.partition.toNat → r ∈ t.parts)
      ∧ KeepsBut [.net, .ctrs, .out, .fresh, .parts] (heard p n s) t

/-- DAMPER_REFILL (R476, R486): for each multiple of 1,000 ns that media time passes, a regulated class with nothing
waiting gains its RATE, up to BURST; nothing else changes. -/
def DampersRefill : Prop :=
  ∀ (e : Env) (s : State) (n : Nat), n = refillsDue s.clock.mt (advance e.dt s).clock.mt →
    ∃ t, exec (.damperRefill e) s = .next t ∧ t.parts.length = s.parts.length
      ∧ (∀ (i : Nat) (q : Partition), s.parts[i]? = some q → ∃ r, t.parts[i]? = some r ∧ r.num = q.num ∧ r.dampers.length = q.dampers.length
          ∧ ∀ (k : Nat) (d : Damper), q.dampers[k]? = some d → (n = 0 → r.dampers[k]? = some d)
              ∧ (0 < n → d.waiting = [] → d.rate ≠ 0xFFFFFFFF → ∃ d', r.dampers[k]? = some d' ∧ d'.rate = d.rate
                  ∧ d'.burst = d.burst ∧ d'.waiting = [] ∧ d'.tokens = min (d.tokens + ((n * d.rate : Nat) : Int)) (d.burst : Int)))
      ∧ KeepsBut [.parts] (advance e.dt s) t

/-- PART_DESTROY (R473): the partition takes no further command and is being reset; its windows, launches and journals are
gone, and the command waits for the end of the reset. -/
def PartitionDestroyed : Prop :=
  ∀ (p : Packet) (n : Session) (s : State), TakesOn opPartDestroy partDestroyCheck never p n s →
    (s.part? (arg p 0 1)).any (·.resetting) = false →
    ∃ t, exec (.partDestroy p) s = .next t ∧ Replied p (heard p n s) t 200000 2 0 (s.net.eventSeq + 1) []
      ∧ (∀ q ∈ t.parts, q.num = arg p 0 1 → q.destroying = s.nextCmd ∧ q.resetting = true)
      ∧ (∀ q ∈ s.parts, q.num ≠ arg p 0 1 → ∃ r ∈ t.parts, r.num = q.num ∧ r.resetting = q.resetting)
      ∧ (∀ w ∈ t.net.windows, w.partition ≠ arg p 0 1) ∧ (∀ r ∈ t.seqs.runs, r.partition ≠ arg p 0 1)
      ∧ (∀ j ∈ t.watch.journals, j.partition ≠ arg p 0 1)
      ∧ (∃ c ∈ t.cmds, Slotted opPartDestroy p n s none c ∧ c.work = .partDestroy (arg p 0 1)) ∧ SameBytes s t

/-! ## Resets (15 R482 to R484, 17 R534 to R538) -/

/-- What a core is right after a reset of it: no run, nothing issued, and empty event counters, mailbox and banks. -/
def CoreCleared (c : CoreSt) : Prop :=
  c.run = 0 ∧ c.unretired = [] ∧ c.mailbox = [] ∧ c.requests = [] ∧ c.events = List.replicate 32 0
    ∧ c.banks = List.replicate 2 Bank.reset ∧ c.residency = []

/-- RESET of kinds CORE and CLUSTER: every core that the target names in the partition is cleared, and the command is
over. -/
def CoresReset (c : Packet → Instr) (kind : Nat) (hit : Nat → Nat → Prop) : Prop :=
  ∀ (p : Packet) (n : Session) (s : State), resetKind p = kind → TakesOn opResetPart resetPartCheck never p n s →
    Numbered s →
    ∃ t, exec (c p) s = .next t ∧ Replied p (heard p n s) t 200000 2 0 (s.net.eventSeq + 1) []
      ∧ (∀ k ∈ s.partCores p.partition.toNat, k < s.cores.length → hit k (arg p 2 2) → CoreCleared (t.coreAt k))
      ∧ ∀ d ∈ t.cmds, d.id ≠ s.nextCmd

/-- RESET of kind PARTITION (15 R482): the partition is being reset for the command, its windows, launches and journals
are gone, and the command waits for the end of the reset. -/
def PartitionResets : Prop :=
  ∀ (p : Packet) (n : Session) (s : State), resetKind p = 2 → TakesOn opResetPart resetPartCheck never p n s →
    ∃ t, exec (.resetPartition p) s = .next t ∧ Replied p (heard p n s) t 200000 2 0 (s.net.eventSeq + 1) []
      ∧ (∀ q ∈ t.parts, q.num = p.partition.toNat → q.resetting = true ∧ q.resetCmd = s.nextCmd)
      ∧ (∀ w ∈ t.net.windows, w.partition ≠ p.partition.toNat) ∧ (∀ r ∈ t.seqs.runs, r.partition ≠ p.partition.toNat)
      ∧ (∀ j ∈ t.watch.journals, j.partition ≠ p.partition.toNat)
      ∧ (∃ c ∈ t.cmds, Slotted opResetPart p n s none c) ∧ SameBytes s t

/-- PART_RESET_DRAINED (15 R483, R484): with no write held back, the partition's cores are cleared, its Dampers are full,
the commands that the reset ended and the RESET itself are over, and it takes commands again. -/
def PartitionDrained : Prop :=
  ∀ (e : Env) (s : State) (q : Partition), s.part? q.num = some q → q.resetting = true → q.destroying = 0 →
    (advance e.dt s).drainHeld q.num = false →
    ∃ t, exec (.partResetDrained e q.num) s = .next t
      ∧ (∀ r ∈ t.parts, r.num = q.num → r.resetting = false ∧ r.resetCmd = 0 ∧ r.ended = []
          ∧ ∀ d ∈ r.dampers, d.tokens = (d.burst : Int) ∧ d.waiting = [])
      ∧ (∀ k ∈ s.partCores q.num, k < s.cores.length → CoreCleared (t.coreAt k))
      ∧ (∀ c ∈ t.cmds, c.id ≠ q.resetCmd ∧ ∀ x ∈ q.ended, c.id ≠ x.cmd)

/-- RESET of kinds WARM and POWER_ON (17 R534, R535, R537): answered with DONE, the reset is asked for; before a warm
reset every command in flight is completed. -/
def ModuleResetAsked : Prop :=
  ∀ (p : Packet) (n : Session) (s : State), Takes opResetModule resetModuleCheck never p n s → s.boot.resetReq = none →
    (resetKind p = 3 →
      ∃ t, exec (.resetWarm p) s = .next t ∧ (∃ seq, s.net.eventSeq < seq ∧ Replied p (heard p n s) t 200000 0 0 seq [])
        ∧ t.cmds = [] ∧ (∃ cause, t.boot.resetReq = some (.warm cause 0)) ∧ SameBytes s t
        ∧ KeepsBut [.net, .ctrs, .out, .fresh, .cmds, .boot] (heard p n s) t)
    ∧ (resetKind p = 4 →
      ∃ t, exec (.resetPowerOn p) s = .next t ∧ Replied p (heard p n s) t 200000 0 0 (s.net.eventSeq + 1) []
        ∧ t.boot.resetReq = some .powerOn ∧ SameBytes s t ∧ KeepsBut [.net, .ctrs, .out, .fresh, .boot] (heard p n s) t)

/-! ## Counters (chapter 19) -/

/-- CTR_CONFIG (R581 to R583): SET_COUNTERS gives each counter selected its event, filter and chain, at zero when asked
for or when event or filter change, and leaves the others; SET_SAMPLING sets the partition's period. -/
def CountersConfigured : Prop :=
  ∀ (p : Packet) (n : Session) (s : State), Takes opCtrConfig ctrConfigCheck never p n s →
    (arg p 2 2 = 1 → arg p 0 2 < s.cores.length → arg p 0 2 ≠ 0xFFFF →
      ∃ t, exec (.ctrConfig p) s = .next t ∧ Replied p (heard p n s) t 200000 0 0 (s.net.eventSeq + 1) []
        ∧ (∀ k x, ((heard p n s).coreAt (arg p 0 2)).counters[k]? = some x → (arg p 4 2).testBit k = true →
            ∃ y, (t.coreAt (arg p 0 2)).counters[k]? = some y ∧ y.event = arg p (32 + 4 * k) 1
              ∧ y.filter = arg p (34 + 4 * k) 1 ∧ y.chain = (arg p (33 + 4 * k) 1).testBit 0
              ∧ (if (arg p (33 + 4 * k) 1).testBit 1 ∨ y.event ≠ x.event ∨ y.filter ≠ x.filter
                  then y.value = 0 ∧ y.overflow = false else y.value = x.value ∧ y.overflow = x.overflow))
        ∧ (∀ k, (arg p 4 2).testBit k = false →
            (t.coreAt (arg p 0 2)).counters[k]? = ((heard p n s).coreAt (arg p 0 2)).counters[k]?)
        ∧ (∀ m, m ≠ arg p 0 2 → t.coreAt m = (heard p n s).coreAt m)
        ∧ KeepsBut [.net, .ctrs, .out, .fresh, .cores] (heard p n s) t)
    ∧ (arg p 2 2 = 2 →
      ∃ t, exec (.ctrConfig p) s = .next t ∧ Replied p (heard p n s) t 200000 0 0 (s.net.eventSeq + 1) []
        ∧ (t.ctrOf p.partition.toNat).shift = arg p 6 1
        ∧ (arg p 6 1 ≠ 0 → (t.ctrOf p.partition.toNat).handle = arg p 8 8
            ∧ (t.ctrOf p.partition.toNat).offset = arg p 16 8 ∧ (t.ctrOf p.partition.toNat).records = arg p 24 4)
        ∧ (∀ k ∈ s.partCores p.partition.toNat, k < s.cores.length → (t.coreAt k).countdown = samplePeriod (arg p 6 1)
            ∧ (t.coreAt k).counters = ((heard p n s).coreAt k).counters)
        ∧ KeepsBut [.net, .ctrs, .out, .fresh, .cores] (heard p n s) t)

/-- What a freeze leaves: the next snapshot number, a copy of the counters of every enabled core of the partition, and
HOLD as asked for. -/
def Froze (b t : State) (q : Nat) (hold : Bool) : Prop :=
  (t.ctrOf q).snapId = ((b.ctrOf q).snapId + 1) % 2 ^ 32
    ∧ (t.ctrOf q).snap = (b.partCores q).map (fun k => (k, (b.coreAt k).counterCopy))
    ∧ ∀ k ∈ b.partCores q, k < b.cores.length → (t.coreAt k).held = hold ∧ (t.coreAt k).counters = (b.coreAt k).counters

/-- CTR_FREEZE (R586 to R588): with MODE NOW the copy is taken at the stamp and the command completes with DONE; with
MODE AT_BOUNDARY it waits for its boundary. -/
def FreezeTaken : Prop :=
  ∀ (p : Packet) (n : Session) (s : State), TakesOn opCtrFreeze freezeCheck never p n s → Numbered s →
    (arg p 0 1 = 0 →
      ∃ t, exec (.ctrFreezeNow p) s = .next t ∧ Replied p (heard p n s) t 200000 2 0 (s.net.eventSeq + 1) []
        ∧ Froze (heard p n s) t p.partition.toNat ((arg p 1 1).testBit 0)
        ∧ (∀ m ∈ t.net.sessions, m.id = n.id → ∃ r, Ringed m r ∧ r.kind = 1 ∧ r.code = 0 ∧ r.cmdSeq = p.seq.toNat)
        ∧ KeepsBut (.cores :: acceptParts) (heard p n s) t)
    ∧ (arg p 0 1 = 1 →
      ∃ t, exec (.ctrFreezeAtBoundary p) s = .next t ∧ Replied p (heard p n s) t 200000 2 0 (s.net.eventSeq + 1) []
        ∧ (∃ z, t.ctrs.freezes = s.ctrs.freezes ++ [z] ∧ z.partition = p.partition.toNat ∧ z.cmd = s.nextCmd
            ∧ z.gridId = arg p 2 2 ∧ z.boundary = arg p 8 8 ∧ z.hold = (arg p 1 1).testBit 0
            ∧ z.ports = (arg p 1 1).testBit 1)
        ∧ (∃ c ∈ t.cmds, Slotted opCtrFreeze p n s none c) ∧ KeepsBut acceptParts (heard p n s) t)

/-- CTR_FREEZE_INSTANT (R586, R588): when media time has reached the boundary, the copy is taken and the command
completes. -/
def FreezeInstant : Prop :=
  ∀ (e : Env) (q : Nat) (z : Freeze) (g : Grid) (c : Cmd) (s : State), s.ctrs.freezes.find? (·.partition = q) = some z →
    (advance e.dt s).grid? q z.gridId = some g → g.boundary z.boundary ≤ (advance e.dt s).clock.mt →
    s.cmd? z.cmd = some c →
    ∃ t, exec (.ctrFreezeInstant e q) s = .next t ∧ Froze (advance e.dt s) t q z.hold
      ∧ (∃ payload, Completed (advance e.dt s) t c 0 0 payload)
      ∧ KeepsBut [.cores, .net, .ctrs, .out, .cmds] (advance e.dt s) t

/-- CTR_READ (R589): the counters of a core as they stand, those of the latest snapshot, or the state of sampling; and
nothing changes. -/
def CountersRead : Prop :=
  ∀ (p : Packet) (n : Session) (s : State), Takes opCtrRead ctrReadCheck never p n s →
    (arg p 0 1 = 0 → ∃ t, exec (.ctrReadLive p) s = .next t
      ∧ Replied p (heard p n s) t 200000 0 0 (s.net.eventSeq + 1)
          (beBytes 2 (arg p 2 2) ++ beBytes 2 ((heard p n s).coreAt (arg p 2 2)).counterCopy.1 ++ zeros 12
            ++ (((heard p n s).coreAt (arg p 2 2)).counterCopy.2.map (beBytes 8)).flatten)
      ∧ KeepsModule (heard p n s) t)
    ∧ (arg p 0 1 = 1 → ∀ o vs, (s.ctrOf p.partition.toNat).snap.find? (·.1 = arg p 2 2) = some (arg p 2 2, o, vs) →
      ∃ t, exec (.ctrReadSnapshot p) s = .next t
      ∧ Replied p (heard p n s) t 200000 0 0 (s.net.eventSeq + 1)
          (beBytes 2 (arg p 2 2) ++ beBytes 2 o ++ zeros 4 ++ beBytes 4 (s.ctrOf p.partition.toNat).snapId ++ zeros 4
            ++ (vs.map (beBytes 8)).flatten)
      ∧ KeepsModule (heard p n s) t)
    ∧ (arg p 0 1 = 2 → ∃ t, exec (.ctrReadSampleState p) s = .next t
      ∧ Replied p (heard p n s) t 200000 0 0 (s.net.eventSeq + 1)
          (beBytes 8 (s.ctrOf p.partition.toNat).written ++ beBytes 4 (s.ctrOf p.partition.toNat).lost ++ zeros 4)
      ∧ KeepsModule (heard p n s) t)

/-- PORT_WINDOW_END (R590, R591): at a boundary of the window every port's bytes become its last window in units of 64,
PEAK follows, and the next window starts at zero. -/
def WindowEnds : Prop :=
  ∀ (e : Env) (s : State), s.ctrs.lastWindow < (advance e.dt s).windowBoundary →
    ∃ t, exec (.portWindowEnd e) s = .next t
      ∧ t.ctrs.ports = s.ctrs.ports.map (fun x =>
          { x with last0 := x.window0 / 64, last1 := x.window1 / 64, window0 := 0, window1 := 0,
                   peak := max x.peak (min (x.window0 / 64 + x.window1 / 64) (2 ^ 32 - 1)) })
      ∧ t.ctrs.windowInForce = s.set.windowUs ∧ t.ctrs.lastWindow = (advance e.dt s).windowBoundary
      ∧ KeepsBut [.ctrs] (advance e.dt s) t

/-! ## Codec engines (chapter 16) -/

/-- CODEC_OPEN (R495 to R497): a handle of the parameters' direction, sizes, rate and places, on the engine named or the
one with the fewest handles. -/
def CodecOpened : Prop :=
  ∀ (p : Packet) (n : Session) (s : State) (engine : Nat), Takes opCodecOpen codecOpenCheck never p n s →
    engine = (if arg p 2 1 = 0xFF then s.idlestEngine else arg p 2 1) →
    ∃ t, exec (.codecOpen p) s = .next t
      ∧ Replied p (heard p n s) t 200000 0 0 (s.net.eventSeq + 1) (beBytes 8 s.mem.nextHandle ++ beBytes 1 engine ++ zeros 7)
      ∧ (∃ h ∈ t.codec.handles, h.handle = s.mem.nextHandle ∧ h.partition = p.partition.toNat ∧ h.engine = engine
          ∧ h.hevc = decide (arg p 0 1 = 1) ∧ h.decode = decide (arg p 1 1 = 1) ∧ h.bitDepth = arg p 3 1
          ∧ h.width = arg p 4 2 ∧ h.height = arg p 6 2 ∧ h.bitrate = arg p 16 4 ∧ h.maxFrameBytes = arg p 28 4
          ∧ h.srcHandle = arg p 56 8 ∧ h.srcOffset = arg p 64 8 ∧ h.dstHandle = arg p 88 8 ∧ h.dstOffset = arg p 96 8
          ∧ h.ringSize = arg p 104 8 ∧ h.nextBoundary = none ∧ h.written = 0)
      ∧ (∀ h ∈ s.codec.handles, h ∈ t.codec.handles) ∧ t.mem.nextHandle = s.mem.nextHandle + 1
      ∧ SameBytes s t ∧ KeepsBut [.net, .ctrs, .out, .fresh, .codec, .mem] (heard p n s) t

/-- CODEC_PUSH (R503, R504): accepted, the push stands behind those of its handle with nothing coded, and the handle
expects the boundary after its last frame. -/
def FramesPushed : Prop :=
  ∀ (p : Packet) (n : Session) (s : State) (r : Option Reservation), TakesOn opCodecPush pushCheck never p n s →
    pushAdmission ((heard p n s).ctx opCodecPush p n) (heard p n s) = r.map Except.ok →
    ∃ t, exec (.codecPush p) s = .next t
      ∧ Replied p (heard p n s) t (replyBound opCodecPush p) (if r.isSome then 1 else 2) 0 (s.net.eventSeq + 1) []
      ∧ (∃ u, t.codec.pushes = s.codec.pushes ++ [u] ∧ u.id = s.codec.nextId ∧ u.cmd = s.nextCmd ∧ u.handle = arg p 0 8
          ∧ u.frameCount = arg p 8 2 ∧ u.firstBoundary = arg p 16 8 ∧ u.firstFrame = arg p 24 8 ∧ u.frame = 0 ∧ u.row = 0
          ∧ u.done = [])
      ∧ (∀ h ∈ t.codec.handles, h.handle = arg p 0 8 → h.nextBoundary = some (arg p 16 8 + arg p 8 2))
      ∧ (∀ h ∈ s.codec.handles, h.handle ≠ arg p 0 8 → h ∈ t.codec.handles)
      ∧ (∃ c ∈ t.cmds, Slotted opCodecPush p n s r c ∧ c.work = .codecPush s.codec.nextId)
      ∧ KeepsBut (.codec :: .parts :: acceptParts) (heard p n s) t

/-- CODEC_CLOSE (R509): with no push left the handle is gone and the command is over; otherwise it waits for them. -/
def CodecCloses : Prop :=
  ∀ (p : Packet) (n : Session) (s : State), TakesOn opCodecClose codecCloseCheck never p n s → Numbered s →
    ∃ t, exec (.codecClose p) s = .next t ∧ Replied p (heard p n s) t 200000 2 0 (s.net.eventSeq + 1) []
      ∧ (s.codec.pushes.any (·.handle = arg p 0 8) = false →
          t.codec.handles = s.codec.handles.filter (·.handle ≠ arg p 0 8) ∧ ∀ c ∈ t.cmds, c.id ≠ s.nextCmd)
      ∧ (s.codec.pushes.any (·.handle = arg p 0 8) = true →
          t.codec.handles = s.codec.handles.map (fun h => if h.handle = arg p 0 8 then { h with closing := s.nextCmd } else h)
            ∧ ∃ c ∈ t.cmds, Slotted opCodecClose p n s none c ∧ c.work = .codecClose (arg p 0 8))
      ∧ t.codec.pushes = s.codec.pushes ∧ KeepsBut (.codec :: acceptParts) (heard p n s) t

/-- CODEC_UNIT_END (R494, R500, R506, 15 R480): the unit of an encoding push that ends moves it to its next row, or, with
its last row or where coding stops, to its next frame, which is counted and has its entry; the last frame ends the push. -/
def UnitEnds : Prop :=
  ∀ (e : Env) (s : State) (x : Nat) (u : Push) (h : Codec), x < s.fuses.variant.engines → x < s.codec.engines.length →
    (s.engineAt x).unit = u.id → s.push? u.id = some u → s.codecOf u.handle = some h → h.decode = false → h.engine = x →
    (u.frame + 1 < u.frameCount →
      ∃ t, exec (.codecUnitEnd e x) s = .next t ∧ ∃ v, t.push? u.id = some v
        ∧ ((v.frame = u.frame ∧ v.row = u.row + 1 ∧ v.done = u.done ∧ u.row + 1 < h.rows
              ∧ (t.engineAt x).framesEncoded = (s.engineAt x).framesEncoded)
            ∨ (v.frame = u.frame + 1 ∧ v.row = 0 ∧ v.done.length = u.done.length + 1
              ∧ (t.engineAt x).framesEncoded = satAdd 32 (s.engineAt x).framesEncoded 1)))
    ∧ (u.frame + 1 = u.frameCount → h.rows ≤ u.row + 1 →
      ∃ t, exec (.codecUnitEnd e x) s = .next t ∧ t.push? u.id = none ∧ (∀ c ∈ t.cmds, c.id ≠ u.cmd)
        ∧ (t.engineAt x).framesEncoded = satAdd 32 (s.engineAt x).framesEncoded 1)

/-! ## Links and collectives (chapter 14) -/

/-- A frame arrives intact, on a link that is UP, with the FRAME_SEQ expected, for this module (R435 to R438). -/
abbrev InOrder (f : Frame) (s : State) : Prop :=
  s.linkUp f.link = true ∧ f.payload.length ≤ 4096 ∧ f.frameSeq.toNat = (s.linkAt f.link).nextIn ∧ f.dest.toNat = s.fuses.serial

/-- No link has had a chunk fail its checksum lately. -/
abbrev CleanLinks (s : State) : Prop := ∀ k ∈ s.zhevub.links, k.sumTimes = []

/-- What a frame may change beside its own effect: its link, the byte counters, and what is sent in answer. -/
def frameParts : List StatePart := [.zhevub, .ctrs, .out]

/-- LINK_ACK (R437): the frames that ACK_SEQ covers leave the replay buffer, the next frame is awaited, and nothing is
sent. -/
def FramesAcknowledged : Prop :=
  ∀ (e : Env) (f : Frame) (s : State), InOrder f (enter e s) →
    ∃ t, exec (.linkAck e f) s = .next t
      ∧ (t.linkAt f.link).replay = (s.linkAt f.link).replay.filter (fun x =>
          decide (2 ^ 31 ≤ (f.ackSeq.toNat + 2 ^ 32 - x.frame.frameSeq.toNat) % 2 ^ 32))
      ∧ (t.linkAt f.link).nextIn = ((s.linkAt f.link).nextIn + 1) % 2 ^ 32
      ∧ (∀ k, k ≠ f.link → t.linkAt k = s.linkAt k) ∧ t.out = (enter e s).out ∧ KeepsBut frameParts (enter e s) t

/-- LINK_NAK (R437): the frames after ACK_SEQ are sent again, in order and unchanged, and counted. -/
def FramesReplayed : Prop :=
  ∀ (e : Env) (f : Frame) (s : State) (left : List SentFrame), InOrder f (enter e s) → CleanLinks s →
    s.zhevub.ops = [] → s.zhevub.waiting = [] →
    left = (s.linkAt f.link).replay.filter (fun x =>
      decide (2 ^ 31 ≤ (f.ackSeq.toNat + 2 ^ 32 - x.frame.frameSeq.toNat) % 2 ^ 32)) →
    (∀ x ∈ left, x.replays < 8) →
    ∃ t, exec (.linkNak e f) s = .next t ∧ t.out = (enter e s).out ++ left.map (fun x => .frame f.link x.kind x.frame)
      ∧ (t.linkAt f.link).replay = left.map (fun x => { x with replays := x.replays + 1 })
      ∧ (t.linkAt f.link).replaysCount = satAdd 32 (s.linkAt f.link).replaysCount left.length
      ∧ (∀ k, k ≠ f.link → t.linkAt k = s.linkAt k) ∧ KeepsBut frameParts (enter e s) t

/-- CREDIT (R452): the sender's credit grows by the number granted, and the frame is acknowledged. -/
def CreditTaken : Prop :=
  ∀ (e : Env) (f : Frame) (s : State), InOrder f (enter e s) →
    ∃ t, exec (.linkCredit e f) s = .next t
      ∧ valueOf t.zhevub.credits f.src.toNat = valueOf s.zhevub.credits f.src.toNat + beAt f.payload 0 4
      ∧ (∀ k, k ≠ f.src.toNat → valueOf t.zhevub.credits k = valueOf s.zhevub.credits k)
      ∧ (∃ g, t.out = (enter e s).out ++ [.frame f.link 3 g]) ∧ KeepsBut frameParts (enter e s) t

/-- A frame of a kind that version 1.0 does not define is counted and answered by nothing (R432, R435). -/
def UnknownFramesCounted : Prop :=
  ∀ (e : Env) (f : Frame) (kind : Byte) (s : State), (enter e s).linkUp f.link = true → (kind.toNat = 0 ∨ 6 < kind.toNat) →
    ∃ t, exec (.unknownFrameKind e f kind) s = .next t
      ∧ (t.linkAt f.link).unknownFrames = satAdd 32 (s.linkAt f.link).unknownFrames 1
      ∧ t.out = (enter e s).out ∧ KeepsBut frameParts (enter e s) t

/-- A frame that fails its LINK_CRC is counted and answered with LINK_NAK (R437). -/
def CrcFailureAnswered : Prop :=
  ∀ (e : Env) (link : Nat) (s : State), (enter e s).linkUp link = true →
    ∃ t, exec (.linkCrcFailure e link) s = .next t
      ∧ (t.linkAt link).crcFails = satAdd 8 (s.linkAt link).crcFails 1
      ∧ (∃ g : Frame, t.out = (enter e s).out ++ [.frame link 4 g] ∧ g.link = link ∧ g.payload = []
          ∧ g.ackSeq = BitVec.ofNat 32 ((s.linkAt link).nextIn + 2 ^ 32 - 1))
      ∧ KeepsBut frameParts (enter e s) t

/-- LANE_LOCK_LOSS (R434, R443): a trained link is DOWN, and LINK_STATE is raised. Its reason is the model's choice (log
entry 25). -/
def LinkLost : Prop :=
  ∀ (e : Env) (link : Nat) (s : State), (enter e s).linkPresent link = true → s.boot.mode = .ready →
    (s.linkAt link).state ≠ .down → (s.linkAt link).replay = [] → CleanLinks s → s.zhevub.ops = [] → s.zhevub.waiting = [] →
    ∃ t, exec (.laneLockLoss e link) s = .next t ∧ (t.linkAt link).state = .down
      ∧ (∀ k, k ≠ link → t.linkAt k = s.linkAt k) ∧ (∃ payload, Raised (enter e s) t 0x0401 255 0 payload)
      ∧ SameBytes (enter e s) t ∧ KeepsBut [.zhevub, .net, .ctrs, .out, .cmds, .fw] (enter e s) t

/-- LINK_FEC_ERROR (R434, R441): the codewords are counted; a link that is UP with more than 16 in a second is DEGRADED,
and with no more it stays as it is. -/
def FecCounted : Prop :=
  ∀ (e : Env) (link count : Nat) (s : State), (enter e s).linkPresent link = true → (s.linkAt link).state = .up →
    s.boot.mode = .ready → (s.linkAt link).fecTimes = [] → (s.linkAt link).replay = [] → CleanLinks s →
    s.zhevub.ops = [] → s.zhevub.waiting = [] →
    ∃ t, exec (.linkFecError e link count) s = .next t
      ∧ (t.linkAt link).fecErrors = satAdd 16 (s.linkAt link).fecErrors count
      ∧ (16 < count → (t.linkAt link).state = .degraded ∧ ∃ payload, Raised (enter e s) t 0x0401 255 2 payload)
      ∧ (count ≤ 16 → (t.linkAt link).state = .up ∧ KeepsBut [.zhevub] (enter e s) t)
      ∧ ∀ k, k ≠ link → t.linkAt k = s.linkAt k

/-- LINK_RETRAIN (R431 to R434): a link out of UP whose RETRAIN is set, a second after its last training, trains again:
its state is what the training gives, and its frame numbers begin anew. -/
def LinkRetrained : Prop :=
  ∀ (e : Env) (o : LinkOutcome) (s : State), (enter e s).linkPresent o.link = true → s.boot.mode = .ready →
    s.boot.pstate = .run → (s.linkAt o.link).state ≠ .up → s.set.linkRetrain.getD o.link 0 = 1 →
    (s.linkAt o.link).lastTrain + 1000000000 ≤ s.clock.steady + e.dt → o.link < s.zhevub.links.length →
    ∃ t, exec (.linkRetrain e o) s = .next t ∧ (t.linkAt o.link).state = (linkVerdict o).1
      ∧ (t.linkAt o.link).lastTrain = s.clock.steady + e.dt ∧ (t.linkAt o.link).nextOut = 0 ∧ (t.linkAt o.link).nextIn = 0
      ∧ (t.linkAt o.link).replay = [] ∧ (o.peerSeen = true → o.width ≠ 0 → (t.linkAt o.link).peerSerial = o.peerSerial.toNat)
      ∧ (∀ k, k ≠ o.link → t.linkAt k = s.linkAt k) ∧ SameBytes (enter e s) t
      ∧ KeepsBut [.zhevub, .net, .ctrs, .out] (enter e s) t

/-- The DONE record of packet `p` stands in the ring of its session. -/
def DoneRinged (p : Packet) (n : Session) (t : State) : Prop :=
  ∀ m ∈ t.net.sessions, m.id = n.id → ∃ r, Ringed m r ∧ r.kind = 1 ∧ r.code = 0 ∧ r.cmdSeq = p.seq.toNat

/-- COLL_GROUP (R444 to R446): the table is read, and a group that passes the checks takes its tag; with MEMBERS 0 the tag
has no group. The command completes with DONE. -/
def GroupDefined : Prop :=
  ∀ (p : Packet) (n : Session) (s : State), TakesOn opCollGroup groupCheck never p n s → Numbered s →
    (arg p 2 2 ≠ 0 → ∀ (a : Alloc) (g : Group), s.alloc? p.partition.toNat (arg p 16 8) = some a →
      g = groupOf ((heard p n s).ctx opCollGroup p n)
        ((heard p n s).readMem View.home p.partition.toNat (a.base + arg p 24 8) (16 * arg p 2 2)) →
      (heard p n s).rangePoison View.home p.partition.toNat (a.base + arg p 24 8) (16 * arg p 2 2) = false →
      (heard p n s).groupOk g = true →
      ∃ t, exec (.collGroup p) s = .next t ∧ Replied p (heard p n s) t 200000 2 0 (s.net.eventSeq + 1) []
        ∧ t.zhevub.groups = s.zhevub.groups.filter (fun x => x.tag ≠ arg p 0 2) ++ [g] ∧ g.tag = arg p 0 2
        ∧ g.rank = arg p 4 2 ∧ g.members.length = arg p 2 2 ∧ DoneRinged p n t ∧ (∀ c ∈ t.cmds, c.id ≠ s.nextCmd)
        ∧ SameBytes s t ∧ KeepsBut (.zhevub :: .mem :: .parts :: acceptParts) (heard p n s) t)
    ∧ (arg p 2 2 = 0 →
      ∃ t, exec (.collGroupDelete p) s = .next t ∧ Replied p (heard p n s) t 200000 2 0 (s.net.eventSeq + 1) []
        ∧ t.zhevub.groups = s.zhevub.groups.filter (fun x => x.tag ≠ arg p 0 2) ∧ DoneRinged p n t
        ∧ (∀ c ∈ t.cmds, c.id ≠ s.nextCmd) ∧ KeepsBut (.zhevub :: acceptParts) (heard p n s) t)

/-- COLL_POST (R447 to R449, R463): accepted, its operations wait in table order, one for all entries when it is FUSED,
and the command waits for a stoke boundary. -/
def OperationsPosted : Prop :=
  ∀ (p : Packet) (n : Session) (s : State) (r : Option Reservation), TakesOn opCollPost postCheck never p n s →
    byCost ((heard p n s).ctx opCollPost p n) (heard p n s) = r.map Except.ok →
    ∃ t, exec (.collPost p) s = .next t
      ∧ Replied p (heard p n s) t (replyBound opCollPost p) (if r.isSome then 1 else 2) 0 (s.net.eventSeq + 1) []
      ∧ (∃ x ops, t.zhevub.posts = s.zhevub.posts ++ [x] ∧ t.zhevub.ops = s.zhevub.ops ++ ops ∧ x.cmd = s.nextCmd
          ∧ x.tag = arg p 0 2 ∧ x.started = false ∧ x.ops = ops.map (·.id)
          ∧ ops.length = (if (arg p 4 2).testBit 1 then 1 else arg p 2 2)
          ∧ ∀ o ∈ ops, o.phase = .waiting ∧ o.cmd = s.nextCmd ∧ o.tag = arg p 0 2 ∧ o.early = (arg p 4 2).testBit 0
              ∧ o.chunkCode = arg p 6 1)
      ∧ (∃ c ∈ t.cmds, Slotted opCollPost p n s r c ∧ c.work = .collPost (arg p 0 2))
      ∧ KeepsBut (.zhevub :: .watch :: acceptParts) (heard p n s) t

/-- One operation is here, running and awaiting the chunks of its step, and none that has arrived is whole. -/
abbrev Awaits (s : State) (o : CollOp) (g : Group) (st : CollStep) : Prop :=
  s.zhevub.ops = [o] ∧ s.zhevub.waiting = [] ∧ CleanLinks s ∧ o.phase = .running ∧ o.reporting = false
    ∧ s.group? o.tag = some g ∧ (o.steps g)[o.step]? = some st ∧ o.done.length < (o.awaited g st).length
    ∧ o.incoming.all (fun c => !c.complete) = true

/-- CHUNK (R451 to R453): with no operation of its tag the frame waits; a frame of a chunk that is not whole yet joins what
has arrived of it; and a whole chunk of a reducing step, intact, is added to the working vector in its place and nowhere
else. No byte of memory changes in these cases. -/
def ChunkTaken : Prop :=
  ∀ (e : Env) (f : Frame) (s : State), InOrder f (enter e s) → 32 ≤ f.payload.length → (s.group? f.groupTag.toNat).isSome →
    (s.zhevub.ops = [] → CleanLinks s →
      ∃ t, exec (.chunk e f) s = .next t ∧ t.zhevub.waiting = s.zhevub.waiting ++ [f] ∧ SameBytes (enter e s) t
        ∧ KeepsBut frameParts (enter e s) t)
    ∧ (∀ o g st, Awaits s o g st → o.tag = f.groupTag.toNat → o.disagrees f.payload = false → o.step ≤ beAt f.payload 12 2 →
        (beAt f.payload 12 2 = o.step → o.done.contains (beAt f.payload 8 4) = false) →
        (∀ c ∈ o.incoming, ¬ (c.step = beAt f.payload 12 2 ∧ c.chunk = beAt f.payload 8 4)) → 1 < beAt f.payload 16 2 →
        ∃ t, exec (.chunk e f) s = .next t ∧ (∃ o', t.zhevub.ops = [o'] ∧ o'.acc = o.acc ∧ o'.done = o.done
            ∧ o'.lastChunk = s.clock.steady + e.dt ∧ ∃ c ∈ o'.incoming, c.step = beAt f.payload 12 2
              ∧ c.chunk = beAt f.payload 8 4 ∧ c.source = beAt f.payload 18 2 ∧ c.link = f.link
              ∧ c.bytes = [(beAt f.payload 20 4, f.payload.drop 32)])
          ∧ SameBytes (enter e s) t ∧ KeepsBut frameParts (enter e s) t)
    ∧ (∀ o g st at_ n, Awaits s o g st → o.tag = f.groupTag.toNat → o.disagrees f.payload = false → o.early = false →
        o.kind ≠ 3 → o.incoming = [] → o.done = [] → 2 ≤ (o.awaited g st).length →
        (o.awaited g st)[beAt f.payload 8 4]? = some (at_, n) → at_ + n ≤ o.acc.length → st.combine = true →
        ((o.steps g)[o.step + 1]?).any (·.combine) = true → beAt f.payload 12 2 = o.step → beAt f.payload 16 2 = 1 →
        beAt f.payload 14 2 = 0 → beAt f.payload 20 4 = 0 → beAt f.payload 24 4 = crc32c (f.payload.drop 32) →
        ∃ t, exec (.chunk e f) s = .next t ∧ (∃ o', t.zhevub.ops = [o'] ∧ o'.done = [beAt f.payload 8 4]
            ∧ o'.acc.length = o.acc.length
            ∧ (∀ i < n, o'.acc[at_ + i]? = some (enc32 (o.combine (dec32 (o.acc.getD (at_ + i) 0))
                ((decodeWire o.wire o.scale n (f.payload.drop 32)).getD i .zero))))
            ∧ ∀ i, i < at_ ∨ at_ + n ≤ i → o'.acc[i]? = o.acc[i]?)
          ∧ SameBytes (enter e s) t ∧ KeepsBut frameParts (enter e s) t)

/-- CHUNK_SEND (R452): the chunk that may leave is sent on its link, all its frames, against one credit of its receiver;
with early release it is then forgotten, with verified release it is marked as sent. -/
def ChunkSent : Prop :=
  ∀ (e : Env) (d k : Nat) (o : CollOp) (g : Group) (c : ChunkOut) (s : State), s.zhevub.ops = [o] → o.phase = .running →
    s.group? o.tag = some g → o.outgoing.find? ((enter e s).chunkReady d o) = some c →
    (enter e s).chunkLink g c = some k →
    ∃ t, exec (.chunkSend e d) s = .next t
      ∧ (∃ fs : List Frame, t.out = (enter e s).out ++ fs.map (.frame k 1 ·) ∧ fs.map (·.payload) = chunkPayloads o c)
      ∧ valueOf t.zhevub.credits (g.serial c.dest) = valueOf s.zhevub.credits (g.serial c.dest) - 1
      ∧ (∃ o', t.zhevub.ops = [o'] ∧ o'.acc = o.acc
          ∧ (o.early = true → c ∉ o'.outgoing) ∧ (o.early = false → { c with sent := true } ∈ o'.outgoing))
      ∧ SameBytes (enter e s) t ∧ KeepsBut [.zhevub, .parts, .ctrs, .out] (enter e s) t

/-- CHUNK_ACKNOWLEDGE (R456): the chunk it names is forgotten. CHUNK_REQUESTED_AGAIN: it may leave once more, counted, as
long as it has been asked for fewer than 3 times. -/
def ChunkControls : Prop :=
  ∀ (e : Env) (f : Frame) (o : CollOp) (s : State), InOrder f (enter e s) → s.opOf f = some o →
    (∃ t, exec (.chunkAcknowledge e f) s = .next t
      ∧ t.zhevub.ops = s.zhevub.ops.map (fun x =>
          if x.id = o.id then { x with outgoing := x.outgoing.filter fun c => !s.chunkNamed f x c } else x)
      ∧ SameBytes (enter e s) t ∧ KeepsBut frameParts (enter e s) t)
    ∧ ((o.outgoing.any fun c => s.chunkNamed f o c && decide (c.resends < 3)) = true →
      ∃ t, exec (.chunkRequestedAgain e f) s = .next t ∧ t.zhevub.resends = satAdd 32 s.zhevub.resends 1
        ∧ t.zhevub.ops = s.zhevub.ops.map (fun x => if x.id = o.id then
            { x with resends := x.resends + 1, outgoing := x.outgoing.map fun c =>
                if s.chunkNamed f x c ∧ c.resends < 3 then { c with sent := false, resends := c.resends + 1 } else c } else x)
        ∧ SameBytes (enter e s) t ∧ KeepsBut frameParts (enter e s) t)

/-- An operation that the module runs alone, for a best-effort COLL_POST outside journals. -/
abbrev Alone (s : State) (o : CollOp) (c : Cmd) : Prop :=
  s.zhevub.ops = [o] ∧ s.zhevub.waiting = [] ∧ CleanLinks s ∧ s.cmd? o.cmd = some c ∧ c.contract = false
    ∧ s.journalOf c.journal = none ∧ s.journalOf o.journal = none ∧ (s.group? o.tag).isSome
    ∧ (s.zhevub.posts.find? (·.cmd = o.cmd)).isSome

/-- An operation is broken off with a status (R453, R454, R456): its group is STALE, its destination poisoned, and its
COLL_POST completes with the status. -/
def Broken (b t : State) (o : CollOp) (c : Cmd) (status : Nat) : Prop :=
  t.zhevub.ops = [] ∧ (∀ g ∈ t.zhevub.groups, g.tag = o.tag → g.stale = true)
    ∧ (∀ g, b.group? o.tag = some g → ∀ a ∈ o.dstSectors g, memKey o.partition a ∈ t.mem.poison)
    ∧ (∃ payload, Completed b t c status 0 payload) ∧ SameBytes b t

/-- ABORT breaks the operation of its tag off; so does COLL_WAIT_LIMIT once no awaited chunk has come for that long. -/
def OperationsBroken : Prop :=
  ∀ (e : Env) (f : Frame) (o : CollOp) (c : Cmd) (s : State), Alone (enter e s) o c → o.phase = .running →
    (InOrder f (enter e s) → o.tag = f.groupTag.toNat →
      ∃ t, exec (.abortFrame e f) s = .next t ∧ Broken (enter e s) t o c (if beAt f.payload 1 1 = 1 then 0x0301 else 0x0303))
    ∧ (o.reporting = false → o.lastChunk + s.set.collWaitLimit * 1000000 ≤ s.clock.steady + e.dt →
      ∃ t, exec (.collWaitLimit e o.tag) s = .next t ∧ Broken (enter e s) t o c 0x0303)

/-- An operation without consumers is retracted (R459 to R461): RETRACT is raised, every provisional sector of it is
poisoned and provisional no longer, and the operation is gone. -/
def Retracts (b t : State) (o : CollOp) (r : Retraction) : Prop :=
  t.zhevub.ops = [] ∧ Raised b t 0x0701 o.partition r.cause (retractPayload o r)
    ∧ (∀ k ∈ b.mem.provisional, k.2 = o.id → memKey o.partition (k.1 % 2 ^ 48) ∈ t.mem.poison)
    ∧ (∀ k ∈ t.mem.provisional, k.2 ≠ o.id) ∧ t.zhevub.retracts = satAdd 32 b.zhevub.retracts 1 ∧ SameBytes b t

/-- RETRACT, a failed SETTLE_REPORT, and COLL_SETTLE_LIMIT retract a released operation; a clean report that comes ahead
of its turn is kept (R458 to R460). -/
def OperationsSettled : Prop :=
  ∀ (e : Env) (f : Frame) (o : CollOp) (s : State), s.zhevub.ops = [o] → s.zhevub.waiting = [] → CleanLinks s →
    (o.phase = .released → o.consumers = [] → s.journalOf o.journal = none → s.journalOf 0 = none →
      (InOrder f (enter e s) → s.opOf f = some o →
        (∃ t, exec (.retract e f) s = .next t ∧ Retracts (enter e s) t o
          { cause := beAt f.payload 1 1, detector := beAt f.payload 24 2, source := beAt f.payload 2 2,
            chunk := beAt f.payload 4 4 })
        ∧ (beAt f.payload 1 1 ≠ 0 → ∃ t, exec (.settleReport e f) s = .next t
          ∧ Retracts (enter e s) t o { cause := 0, detector := beAt f.payload 2 2, source := 0xFFFF, chunk := 0 }))
      ∧ (o.releasedAt + s.set.collSettleLimit * 1000 ≤ s.clock.steady + e.dt →
        ∃ t detector, exec (.collSettleLimit e o.id) s = .next t
          ∧ Retracts (enter e s) t o { cause := 1, detector := detector, source := 0xFFFF, chunk := 0 }))
    ∧ ∀ g st, Awaits s o g st → InOrder f (enter e s) → s.opOf f = some o → beAt f.payload 1 1 = 0 →
      ∃ t, exec (.settleReport e f) s = .next t
        ∧ t.zhevub.ops = [{ o with reports := o.reports ++ [(beAt f.payload 24 2, beAt f.payload 26 2, false)] }]
        ∧ SameBytes (enter e s) t ∧ KeepsBut frameParts (enter e s) t

/-! ## Firmware (chapter 18) -/

/-- The flash holds two firmware slots and two copies of its boot record, each with the states of both slots. -/
abbrev TwoSlots (s : State) : Prop :=
  s.flash.slots.length = 2 ∧ s.flash.boot.length = 2 ∧ ∀ c ∈ s.flash.boot, c.record.slots.length = 2

/-- FW_STAGE (R560, R561): the slot becomes EMPTY and takes the bytes of the range named, the other slot stays, and the
command waits for the verification. -/
def ImageStaged : Prop :=
  ∀ (p : Packet) (n : Session) (s : State) (a : Alloc) (slot : Nat), TakesOn opFwStage fwStageCheck never p n s → TwoSlots s →
    slot = s.targetSlot (arg p 1 1) → s.alloc? (arg p 0 1) (arg p 8 8) = some a →
    ∃ t, exec (.fwStage p) s = .next t ∧ Replied p (heard p n s) t 200000 2 0 (s.net.eventSeq + 1) []
      ∧ t.slotState slot = .empty
      ∧ (t.fwSlot slot).bytes = (heard p n s).readMem View.home (arg p 0 1) (a.base + arg p 16 8) (arg p 24 8)
      ∧ t.slotState (1 - slot) = s.slotState (1 - slot) ∧ t.fwSlot (1 - slot) = s.fwSlot (1 - slot)
      ∧ (∃ g, t.fw.stage = some g ∧ g.slot = slot ∧ g.length = arg p 24 8 ∧ g.cmd = s.nextCmd)
      ∧ (∃ c ∈ t.cmds, Slotted opFwStage p n s none c ∧ c.work = .fwStage)
      ∧ SameBytes s t ∧ KeepsBut (.flash :: .fw :: .mem :: acceptParts) (heard p n s) t

/-- FW_STAGE_VERIFY (R557 to R561): an image with no failure of R558 makes its slot STAGED, and the command completes with
version, security version and digest; any other makes it BAD, and the command completes with the first failure. -/
def ImageVerified : Prop :=
  ∀ (e : Env) (s : State) (g : Stage) (c : Cmd) (wrong : Option (Nat × Nat)), TwoSlots s → s.fw.stage = some g → g.slot < 2 →
    s.cmd? g.cmd = some c → wrong = s.fwBad (s.fwSlot g.slot).bytes →
    ∃ t, exec (.fwStageVerify e) s = .next t ∧ t.fw.stage = none
      ∧ t.slotState g.slot = (if wrong.isSome then .bad else .staged) ∧ t.slotState (1 - g.slot) = s.slotState (1 - g.slot)
      ∧ (t.fwSlot g.slot).bytes = (s.fwSlot g.slot).bytes ∧ (t.fwSlot g.slot).digest = fwDigest (s.fwSlot g.slot).bytes
      ∧ (wrong = none → Completed (advance e.dt s) t c (c.endStatus 0) 0 (s.stagePayload g.slot))
      ∧ (∀ status cause, wrong = some (status, cause) → Completed (advance e.dt s) t c status cause [])
      ∧ KeepsBut [.flash, .fw, .net, .ctrs, .out, .cmds] (advance e.dt s) t

/-- A frame with this payload left on a link. -/
def FrameSent (t : State) (link kind : Nat) (payload : List Byte) : Prop :=
  ∃ f, Emission.frame link kind f ∈ t.out ∧ f.payload = payload

/-- The frames that carry the image `b` over a link: ROUTE, then DATA of at most 4,064 bytes each (R563). -/
def ImageSent (t : State) (link hop id origin : Nat) (hops : List Hop) (b : List Byte) : Prop :=
  FrameSent t link 6 (relayPayload 0 hop id origin b.length ((hops.map Hop.bytes).flatten))
    ∧ ∀ i < ceilDiv b.length 4064,
        FrameSent t link 6 (relayPayload 1 hop id origin (4064 * i) ((b.drop (4064 * i)).take 4064))

/-- FW_RELAY (R562, R563): over a first link that is UP to the module expected, the image of the slot is sent with the
hops, and the command waits for their reports. -/
def RelayStarts : Prop :=
  ∀ (p : Packet) (n : Session) (s : State) (h : Hop) (hs : List Hop), TakesOn opFwRelay fwRelayCheck never p n s →
    (List.range (arg p 1 1)).map (hopAt ((body p).drop 8)) = h :: hs → s.linkUp h.link = true →
    (s.linkAt h.link).peerSerial = h.expect →
    ∃ t, exec (.fwRelay p) s = .next t ∧ Replied p (heard p n s) t 200000 2 0 (s.net.eventSeq + 1) []
      ∧ ImageSent t h.link 0 p.seq.toNat s.fuses.serial (h :: hs) (s.fwSlot (arg p 0 1)).bytes
      ∧ (∃ r, t.fw.relay = some r ∧ r.cmd = s.nextCmd ∧ r.hops = h :: hs ∧ r.slot = arg p 0 1 ∧ r.inLink = none
          ∧ r.results = (h :: hs).map fun _ => none)
      ∧ (∃ c ∈ t.cmds, Slotted opFwRelay p n s none c ∧ c.work = .fwRelay)
      ∧ KeepsBut (.fw :: .zhevub :: acceptParts) (heard p n s) t

/-- A ROUTE frame (R563, R564): refused as FW_STAGE would be, it is answered with a report; otherwise the slot becomes
EMPTY, and the relay takes the bytes that follow. -/
def RelayTaken : Prop :=
  ∀ (e : Env) (f : Frame) (s : State) (target : Nat), InOrder f (advance e.dt s) →
    target = (((List.range ((f.payload.length - 32) / 16)).map (hopAt (f.payload.drop 32))).head?.map (·.target)).getD 0 →
    (∀ cause, (advance e.dt s).relayBad target (beAt f.payload 16 8) = some cause →
      ∃ t, exec (.relayRoute e f) s = .next t
        ∧ FrameSent t f.link 6 (relayPayload 2 (beAt f.payload 1 1) (beAt f.payload 4 4) (beAt f.payload 8 8) 0
            (beBytes 8 s.fuses.serial ++ beBytes 2 0x0201 ++ beBytes 2 cause ++ zeros 4))
        ∧ KeepsBut frameParts (advance e.dt s) t)
    ∧ ((advance e.dt s).relayBad target (beAt f.payload 16 8) = none → TwoSlots s →
      ∃ t, exec (.relayRoute e f) s = .next t ∧ t.slotState (s.targetSlot target) = .empty
        ∧ t.slotState (1 - s.targetSlot target) = s.slotState (1 - s.targetSlot target)
        ∧ (∃ r, t.fw.relay = some r ∧ r.id = beAt f.payload 4 4 ∧ r.origin = beAt f.payload 8 8
            ∧ r.hop = beAt f.payload 1 1 + 1 ∧ r.inLink = some f.link ∧ r.received = 0 ∧ r.length = beAt f.payload 16 8
            ∧ r.slot = s.targetSlot target)
        ∧ KeepsBut (.flash :: .fw :: frameParts) (advance e.dt s) t)

/-- A DATA frame (R563, R564): the next bytes of the image join the slot. With the last of them the slot is verified and
the result reported back; at the last hop, or when it is bad, the relay is over here. -/
def RelayStored : Prop :=
  ∀ (e : Env) (f : Frame) (s : State) (r : Relay) (part : List Byte), InOrder f (advance e.dt s) → s.relayOf f.payload = some r →
    TwoSlots s → r.slot < 2 → r.inLink = some f.link → beAt f.payload 1 1 + 1 = r.hop → beAt f.payload 16 8 = r.received →
    r.received < r.length → part = (f.payload.drop 32).take (r.length - r.received) →
    (r.received + part.length < r.length →
      ∃ t, exec (.relayData e f) s = .next t ∧ (t.fwSlot r.slot).bytes = (s.fwSlot r.slot).bytes ++ part
        ∧ t.fwSlot (1 - r.slot) = s.fwSlot (1 - r.slot)
        ∧ t.fw.relay = some { r with received := r.received + part.length }
        ∧ KeepsBut (.flash :: .fw :: frameParts) (advance e.dt s) t)
    ∧ ∀ wrong, wrong = s.fwBad ((s.fwSlot r.slot).bytes ++ part) → r.length ≤ r.received + part.length →
      (r.hops = [] ∨ wrong.isSome = true) →
      ∃ t, exec (.relayData e f) s = .next t ∧ (t.fwSlot r.slot).bytes = (s.fwSlot r.slot).bytes ++ part
        ∧ t.slotState r.slot = (if wrong.isSome then .bad else .staged) ∧ t.fw.relay = none
        ∧ FrameSent t f.link 6 (relayPayload 2 (r.hop - 1) r.id r.origin 0
            (beBytes 8 s.fuses.serial ++ beBytes 2 (wrong.getD (0, 0)).1 ++ beBytes 2 (wrong.getD (0, 0)).2 ++ zeros 4))
        ∧ KeepsBut (.flash :: .fw :: frameParts) (advance e.dt s) t

/-- What a REPORT frame says of a hop. -/
def reported (f : Frame) : HopResult :=
  { serial := beAt f.payload 32 8, status := beAt f.payload 40 2, cause := beAt f.payload 42 2 }

/-- A REPORT frame (R564, R565): module 0 keeps it, and completes FW_RELAY when it is a failure or the last one awaited;
any other module passes it back unchanged. -/
def RelayReported : Prop :=
  ∀ (e : Env) (f : Frame) (s : State) (r : Relay), InOrder f (advance e.dt s) → s.relayOf f.payload = some r →
    (r.hops.head?.map (·.link)) = some f.link →
    (r.inLink = none → ∀ rs, rs = r.results.set (beAt f.payload 1 1) (some (reported f)) →
      ((reported f).status = 0 → rs.all (·.isSome) = false →
        ∃ t, exec (.relayReport e f) s = .next t
          ∧ t.fw.relay = some { r with results := rs, lastReport := s.clock.steady + e.dt }
          ∧ KeepsBut (.fw :: frameParts) (advance e.dt s) t)
      ∧ (((reported f).status ≠ 0 ∨ rs.all (·.isSome) = true) → ∀ c, (advance e.dt s).cmd? r.cmd = some c →
        ∃ t payload, exec (.relayReport e f) s = .next t ∧ t.fw.relay = none ∧ Completed (advance e.dt s) t c 0 0 payload
          ∧ payload.take 1 = beBytes 1 ((rs.filter fun x => x.any (·.status = 0)).length)
          ∧ payload.length = 8 + 16 * r.results.length))
    ∧ ∀ k, r.inLink = some k →
      ∃ t, exec (.relayReport e f) s = .next t
        ∧ FrameSent t k 6 (relayPayload 2 (beAt f.payload 1 1) r.id r.origin 0
            (beBytes 8 (reported f).serial ++ beBytes 2 (reported f).status ++ beBytes 2 (reported f).cause ++ zeros 4))
        ∧ KeepsBut (.fw :: frameParts) (advance e.dt s) t

/-- RELAY_TIMEOUT (R565): at module 0, 300 s without a report complete FW_RELAY; before that nothing happens. -/
def RelayEnds : Prop :=
  ∀ (e : Env) (s : State) (r : Relay), s.fw.relay = some r →
    (s.clock.steady + e.dt < r.lastReport + 300 * 10 ^ 9 → exec (.relayTimeout e) s = .next (advance e.dt s))
    ∧ (r.lastReport + 300 * 10 ^ 9 ≤ s.clock.steady + e.dt → r.inLink = none → ∀ c, s.cmd? r.cmd = some c →
      ∃ t payload, exec (.relayTimeout e) s = .next t ∧ t.fw.relay = none ∧ Completed (advance e.dt s) t c 0 0 payload
        ∧ payload.length = 8 + 16 * r.results.length
        ∧ (∀ i, r.results[i]? = some none → slice payload (8 + 16 * i + 8) 8 = beBytes 2 0xFFFF ++ beBytes 2 3 ++ zeros 4)
        ∧ KeepsBut [.fw, .net, .ctrs, .out, .cmds, .fresh] (advance e.dt s) t)

/-- FW_ARM and FW_DISARM (R566, R567): the slot is armed for its time, or none is any more, and FW_ARM_STATE is raised. -/
def SlotArmed : Prop :=
  ∀ (p : Packet) (n : Session) (s : State),
    (Takes opFwArm fwArmCheck never p n s →
      ∃ t, exec (.fwArm p) s = .next t ∧ Replied p (heard p n s) t 200000 0 0 (s.net.eventSeq + 1) []
        ∧ t.fw.armed = some (arg p 0 1, arg p 8 8)
        ∧ Raised (heard p n s) t 0x0901 255 0 (s.armPayload (arg p 0 1) (arg p 8 8))
        ∧ KeepsBut [.net, .ctrs, .out, .fresh, .fw] (heard p n s) t)
    ∧ ∀ k at_, s.fw.armed = some (k, at_) → Takes opFwDisarm (fun _ s => badIf s.fw.armed.isNone 15) never p n s →
      ∃ t, exec (.fwDisarm p) s = .next t ∧ Replied p (heard p n s) t 200000 0 0 (s.net.eventSeq + 1) []
        ∧ t.fw.armed = none ∧ Raised (heard p n s) t 0x0901 255 1 (s.armPayload k at_)
        ∧ KeepsBut [.net, .ctrs, .out, .fresh, .fw] (heard p n s) t

/-- FW_ACTIVATING (R568): once media time has reached the time armed, FW_ACTIVATING is raised, every command in flight
completes, the slot is on trial, and a warm reset is asked for. -/
def ActivationBegins : Prop :=
  ∀ (e : Env) (s : State) (k at_ : Nat), s.fw.armed = some (k, at_) → s.boot.resetReq = none → TwoSlots s →
    at_ ≤ (advance e.dt s).clock.mt →
    ∃ t, exec (.fwActivating e) s = .next t ∧ Raised (advance e.dt s) t 0x0902 255 0 (s.armPayload k at_) ∧ t.cmds = []
      ∧ t.bootRecord.trial = some k ∧ t.bootRecord.trialBoots = 0 ∧ t.bootRecord.slots = s.bootRecord.slots
      ∧ t.boot.resetReq = some (.warm 2 0)
      ∧ KeepsBut [.net, .ctrs, .out, .cmds, .flash, .boot] (advance e.dt s) t

/-- ATTEST (R574): the nonce and the flags wait for Ryqua, in order. -/
def QuoteAsked : Prop :=
  ∀ (p : Packet) (n : Session) (s : State), TakesOn opAttest attestCheck never p n s →
    ∃ t, exec (.attest p) s = .next t ∧ Replied p (heard p n s) t 200000 2 0 (s.net.eventSeq + 1) []
      ∧ t.fw.attests = s.fw.attests ++ [s.nextCmd]
      ∧ (∃ c ∈ t.cmds, Slotted opAttest p n s none c ∧ c.work = .attest (slice (body p) 0 32) (arg p 32 2))
      ∧ KeepsBut (.fw :: acceptParts) (heard p n s) t

/-- ATTEST_QUOTE (R575, R576): the oldest ATTEST completes with the quote over its nonce, signed with the identity key,
followed by the certificate when it was asked for. -/
def QuoteSigned : Prop :=
  ∀ (e : Env) (s : State) (id : Nat) (rest : List Nat) (c : Cmd) (nonce : List Byte) (flags : Nat) (quote : List Byte),
    s.fw.attests = id :: rest → s.cmd? id = some c → c.work = .attest nonce flags →
    quote = (advance e.dt s).quoteBody nonce (s.net.eventSeq + 1) →
    ∃ t, exec (.attestQuote e) s = .next t ∧ t.fw.attests = rest
      ∧ Completed (advance e.dt s) t c 0 0 (quote ++ edSign s.fuses.identitySecret (ascii "IX8-QUOTE") quote
          ++ (if flags.testBit 0 then beBytes 2 s.fuses.certificate.length ++ zeros 2 ++ s.fuses.certificate else []))
      ∧ KeepsBut [.fw, .net, .ctrs, .out, .cmds, .fresh] (advance e.dt s) t

/-- HEARTWOOD_STORE (R571): with a store waiting, the values in force are written to the copy with the lower count, and are
what Heartwood holds; with none, nothing happens. -/
def HeartwoodStored : Prop :=
  ∀ (e : Env) (s : State), s.flash.heartwood.length = 2 →
    (s.fw.storeDue = true →
      ∃ t, exec (.heartwoodStore e) s = .next t ∧ t.heartwood.settings = s.set ∧ t.heartwood.bootCount = s.boot.bootCount
        ∧ t.fw.storeDue = false ∧ t.flash.slots = s.flash.slots ∧ t.flash.boot = s.flash.boot
        ∧ KeepsBut [.flash, .fw] (advance e.dt s) t)
    ∧ (s.fw.storeDue = false → exec (.heartwoodStore e) s = .next (advance e.dt s))

/-! ## Registers (00 R6 to R8, 03 R93 to R96, 17 R513 to R520, 02 R28 to R32) -/

/-- REG_READ (03 R93): the reply holds COUNT words; a single word is the register's value, and nothing but what a read
clears or latches changes. MT_NOW_LO is the reply's own media time, and latches MT_NOW_HI (02 R28). -/
def RegistersRead : Prop :=
  ∀ (p : Packet) (n : Session) (s : State), Takes opRegRead regReadCheck never p n s →
    (∃ t data, exec (.regRead p) s = .next t ∧ data.length = 4 * arg p 4 2
      ∧ Replied p (heard p n s) t 200000 0 0 (s.net.eventSeq + 1) data)
    ∧ (arg p 4 2 = 1 → arg p 0 4 ≠ 0x24008 → ∀ v u, (heard p n s).readReg 0 (arg p 0 4) = some (v, u) →
      ∃ t, exec (.regRead p) s = .next t ∧ Replied p (heard p n s) t 200000 0 0 (s.net.eventSeq + 1) (beBytes 4 v)
        ∧ (u = heard p n s → KeepsModule (heard p n s) t)
        ∧ (arg p 0 4 = 0x10004 → v = s.net.discards % 2 ^ 32 ∧ t.net.discards = 0 ∧ t.net.duplicates = s.net.duplicates)
        ∧ (arg p 0 4 = 0x24600 → v = s.watch.replays % 2 ^ 32 ∧ t.watch = { s.watch with replays := 0 })
        ∧ (arg p 0 4 = 0x24100 → v = s.set.stallLimit % 2 ^ 32))
    ∧ (arg p 4 2 = 1 → arg p 0 4 = 0x24008 →
      ∃ t time, exec (.regRead p) s = .next t ∧ (heard p n s).clock.mt ≤ time ∧ time ≤ (heard p n s).clock.mt + 200000
        ∧ Emission.udp 46210 p.src (Reply.bytes { seq := p.seq.toNat, status := 0, cause := 0, eventSeq := s.net.eventSeq + 1,
                                                  mediaTime := time, data := beBytes 4 (time % 2 ^ 32) }) ∈ t.out
        ∧ t.clock.mtNowHi = time / 2 ^ 32 % 2 ^ 32 ∧ KeepsBut [.net, .ctrs, .out, .fresh, .clock] (heard p n s) t)

/-- REG_WRITE (03 R94, 00 R7): NCP_CTRL takes every field that is in its range and keeps the others, CORE_WATCHDOG takes a
limit of 1 to 10,000 ms, POOL_CTRL takes both of its fields or neither, and registers with RO and RC fields alone ignore
the write. -/
def RegistersWritten : Prop :=
  ∀ (p : Packet) (n : Session) (s : State) (v : Nat), Takes opRegWrite regWriteCheck never p n s → v = arg p 8 4 →
    (∃ t, exec (.regWrite p) s = .next t ∧ Replied p (heard p n s) t 200000 0 0 (s.net.eventSeq + 1) [])
    ∧ (arg p 4 2 = 1 → arg p 0 4 = 0x10000 → ∃ t, exec (.regWrite p) s = .next t
        ∧ t.set = { s.set with
            mtu := if 1280 ≤ v % 2 ^ 14 ∧ v % 2 ^ 14 ≤ 9000 then v % 2 ^ 14 else s.set.mtu
            notifyRetry := if v / 2 ^ 16 % 256 = 0 then s.set.notifyRetry else v / 2 ^ 16 % 256
            sessionTimeout := if v / 2 ^ 24 % 256 = 0 then s.set.sessionTimeout else v / 2 ^ 24 % 256 }
        ∧ KeepsBut [.net, .ctrs, .out, .fresh, .set, .fw] (heard p n s) t)
    ∧ (arg p 4 2 = 1 → arg p 0 4 = 0x24100 → ∃ t, exec (.regWrite p) s = .next t
        ∧ t.set = { s.set with
            stallLimit := if 1 ≤ v % 2 ^ 14 ∧ v % 2 ^ 14 ≤ 10000 then v % 2 ^ 14 else s.set.stallLimit }
        ∧ KeepsBut [.net, .ctrs, .out, .fresh, .set, .fw] (heard p n s) t)
    ∧ (arg p 4 2 = 1 → arg p 0 4 = 0x24200 → ∃ t, exec (.regWrite p) s = .next t
        ∧ t.set = (if v % 2 ^ 16 < v / 2 ^ 16 % 2 ^ 16 then
            { s.set with fbLowWater := v % 2 ^ 16, fbHighWater := v / 2 ^ 16 % 2 ^ 16 } else s.set)
        ∧ KeepsBut [.net, .ctrs, .out, .fresh, .set, .fw] (heard p n s) t)
    ∧ (arg p 4 2 = 1 → (arg p 0 4 = 0x10004 ∨ arg p 0 4 = 0x10010 ∨ arg p 0 4 = 0x2400C ∨ arg p 0 4 = 0x24204) →
        ∃ t, exec (.regWrite p) s = .next t ∧ t.net.discards = s.net.discards ∧ KeepsModule (heard p n s) t)

/-- MT_CTRL (02 R28, R32, R604): a field out of its range keeps its value; a change of what selects the source returns
TIME_STATE to FREE without a master; a new stoke interval waits for the next boundary of the old one. MT_SET_SECONDS (R30)
is taken in PPS_HOST mode alone. -/
def TimeControlled : Prop :=
  ∀ (e : Env) (w : W32) (s : State) (v : Nat), s.portUp = true → v = w.toNat →
    (∃ t, exec (.mtCtrlWrite e w) s = .next t
      ∧ t.set = { s.set with
          source := if v % 4 = 3 then s.set.source else v % 4
          transport := if v / 4 % 4 = 3 then s.set.transport else v / 4 % 4
          delayMech := v / 16 % 2, ppsEdge := v / 32 % 2, fsyncEdge := v / 64 % 2
          domain := if 127 < v / 256 % 256 then s.set.domain else v / 256 % 256
          stokeInterval := if 5 ≤ v / 65536 % 4096 ∧ v / 65536 % 4096 ≤ 200 then v / 65536 % 4096 else s.set.stokeInterval }
      ∧ t.fw.storeDue = true
      ∧ ((t.set.source ≠ s.set.source ∨ t.set.transport ≠ s.set.transport ∨ t.set.delayMech ≠ s.set.delayMech
          ∨ t.set.domain ≠ s.set.domain) → t.clock.state = .free ∧ t.clock.master = none ∧ t.clock.stepPending = false)
      ∧ (t.set.source = s.set.source → t.set.transport = s.set.transport → t.set.delayMech = s.set.delayMech →
          t.set.domain = s.set.domain → t.clock.state = s.clock.state ∧ t.clock.master = s.clock.master)
      ∧ (t.set.stokeInterval ≠ s.set.stokeInterval →
          t.clock.stokeSwitch = boundaryAfter (advance e.dt s).stokeNs (advance e.dt s).clock.mt)
      ∧ KeepsBut [.set, .clock, .fw, .net, .ctrs, .out] (advance e.dt s) t)
    ∧ ∃ t, exec (.mtSetSecondsWrite e w) s = .next t
      ∧ t.clock.setSeconds = (if s.set.source = 2 then some v else s.clock.setSeconds) ∧ KeepsBut [.clock] (advance e.dt s) t

/-- FLASH_PROG_SLOT (18 R573): in kindling mode the slot is erased, and programming begins at its start.
FLASH_PROG_BUFFER: 256 words follow what has been programmed, low byte first. After READY nothing happens. -/
def FlashProgrammed : Prop :=
  ∀ (e : Env) (w : W32) (vs : List W32) (s : State), TwoSlots s →
    (s.boot.mode = .kindling → w.toNat < 2 →
      ∃ t, exec (.flashProgSlot e w) s = .next t ∧ t.slotState w.toNat = .empty ∧ (t.fwSlot w.toNat).bytes = []
        ∧ t.slotState (1 - w.toNat) = s.slotState (1 - w.toNat) ∧ t.fwSlot (1 - w.toNat) = s.fwSlot (1 - w.toNat)
        ∧ t.fw.progSlot = some w.toNat ∧ t.fw.progOffset = 0 ∧ KeepsBut [.flash, .fw] (advance e.dt s) t)
    ∧ (∀ k, s.boot.mode = .kindling → vs.length = 256 → s.fw.progSlot = some k → k < 2 → s.fw.progOffset + 1024 ≤ 67108864 →
      ∃ t, exec (.flashProgBuffer e vs) s = .next t
        ∧ (t.fwSlot k).bytes = (s.fwSlot k).bytes.take s.fw.progOffset ++ (vs.map fun x => leBytes 4 x.toNat).flatten
        ∧ t.fw.progOffset = s.fw.progOffset + 1024 ∧ KeepsBut [.flash, .fw] (advance e.dt s) t)
    ∧ (s.boot.mode ≠ .kindling → exec (.flashProgSlot e w) s = .next (advance e.dt s)
        ∧ exec (.flashProgBuffer e vs) s = .next (advance e.dt s))

/-! ### The register access of kindling mode -/

/-- A RAP request is acted on: none of R513 and R515 discards it, and it does not repeat the owner's last one. -/
abbrev RapTaken (r : RapPacket) (op : Nat) (s : State) : Prop :=
  ((advance r.dt s).received r.src.ip (20 + 4 * r.values.length)).rapDiscards r op = false
    ∧ ∀ k, s.boot.lastRap = some k → s.owns r.src = true → k.seq ≠ r.seq.toNat

/-- The bytes of the reply to a RAP request (R514). -/
def rapAnswer (r : RapPacket) (op status : Nat) (values : List Nat) : List Byte :=
  withCrc (rapBody 0x72 op r.seq.toNat r.address.toNat r.count.toNat status values)

/-- A RAP request changes nothing but what is listed. -/
def RapKeeps (changed : List StatePart) (r : RapPacket) (s t : State) : Prop :=
  KeepsBut (.out :: .ctrs :: .boot :: changed) (advance r.dt s) t

/-- CLAIM (R516): the sender owns the registers unless another owner has sent a packet in the last 10 s. RELEASE: the
owner's ends its ownership, another sender's is refused (log entry 37). -/
def RapOwned : Prop :=
  ∀ (r : RapPacket) (s : State),
    (RapTaken r 2 s → ∃ t, exec (.claim r) s = .next t ∧ RapKeeps [] r s t
      ∧ (if s.boot.owner.any (fun o => decide (o.peer ≠ r.src ∧ s.clock.steady + r.dt < o.last + 10000000000)) then
          t.boot.owner = s.boot.owner ∧ t.out = [.udp 46212 r.src (rapAnswer r 2 1 [])]
        else t.boot.owner = some { peer := r.src, last := s.clock.steady + r.dt }
          ∧ t.out = [.udp 46212 r.src (rapAnswer r 2 0 [])]))
    ∧ (RapTaken r 3 s → ∃ t, exec (.releaseRap r) s = .next t ∧ RapKeeps [] r s t
      ∧ (if s.owns r.src then t.boot.owner = none ∧ t.out = [.udp 46212 r.src (rapAnswer r 3 0 [])]
        else t.boot.owner = s.boot.owner ∧ t.out = [.udp 46212 r.src (rapAnswer r 3 1 [])]))

/-- READ (R515, R517): the owner is answered with the registers' values; a sender that is not the owner with NOT_OWNER, and
a range that is not in the map with its own status, the values then being open. -/
def RapReads : Prop :=
  ∀ (r : RapPacket) (s : State), RapTaken r 0 s →
    (s.owns r.src = true → between 1 r.count.toNat 256 = true →
      (regRange r.address.toNat r.count.toNat).all (advance r.dt s).mapped = true →
      ∃ t vs, exec (.rapRead r) s = .next t ∧ vs.length = r.count.toNat ∧ t.out = [.udp 46212 r.src (rapAnswer r 0 0 vs)]
        ∧ t.boot.owner = some { peer := r.src, last := s.clock.steady + r.dt }
        ∧ (r.count.toNat = 1 → r.address.toNat = 0x8004 → vs = [(advance r.dt s).kindleStatus % 2 ^ 32] ∧ RapKeeps [] r s t)
        ∧ (r.count.toNat = 1 → r.address.toNat = 0x24008 → vs = [(advance r.dt s).clock.mt % 2 ^ 32]
            ∧ t.clock.mtNowHi = (advance r.dt s).clock.mt / 2 ^ 32 % 2 ^ 32 ∧ RapKeeps [.clock] r s t))
    ∧ (s.owns r.src = false → ∃ t vs, exec (.rapRead r) s = .next t ∧ t.out = [.udp 46212 r.src (rapAnswer r 0 1 vs)]
        ∧ RapKeeps [.fresh] r s t)
    ∧ (s.owns r.src = true → (between 1 r.count.toNat 256
        && (regRange r.address.toNat r.count.toNat).all (advance r.dt s).mapped) = false →
      ∃ t vs, exec (.rapRead r) s = .next t ∧ t.out = [.udp 46212 r.src (rapAnswer r 0 2 vs)] ∧ RapKeeps [.fresh] r s t)

/-- WRITE (R517, R520): the owner's write of STEP n to KINDLE_CTRL, where step n may run, sets the other fields and starts
the step, and every result of it and of later steps is gone; a value out of a field's range is answered BAD_VALUE and the
field keeps its value; a sender that is not the owner changes nothing. -/
def RapWrites : Prop :=
  ∀ (r : RapPacket) (s : State), RapTaken r 1 s →
    (s.owns r.src = false → ∃ t, exec (.rapWrite r) s = .next t ∧ t.out = [.udp 46212 r.src (rapAnswer r 1 1 [])]
      ∧ RapKeeps [] r s t)
    ∧ (∀ v : W32, s.owns r.src = true → r.count.toNat = 1 → r.values = [v] →
      (r.address.toNat = 0x8000 → s.boot.stepRunning = 0 → 3 ≤ v.toNat % 16 → v.toNat % 16 ≤ s.boot.stepDone + 1 →
        v.toNat % 16 ≤ 11 → (v.toNat % 16 = 3 → s.boot.stepDone = 2) → 5 ≤ v.toNat / 128 % 64 → v.toNat / 128 % 64 ≤ 50 →
        ∃ t, exec (.rapWrite r) s = .next t ∧ t.out = [.udp 46212 r.src (rapAnswer r 1 0 [])]
          ∧ t.boot.stepRunning = v.toNat % 16 ∧ t.boot.stepDone = v.toNat % 16 - 1 ∧ t.boot.result = 0
          ∧ t.boot.stepActed = false ∧ t.boot.fastResume = v.toNat.testBit 4
          ∧ t.set = { s.set with distMode := v.toNat / 32 % 2, autoResume := v.toNat / 64 % 2,
                                 checkWindow := v.toNat / 128 % 64 }
          ∧ (v.toNat % 16 ≤ 4 → t.boot.bistBad = [0, 0, 0, 0]) ∧ (4 < v.toNat % 16 → t.boot.bistBad = s.boot.bistBad))
      ∧ (r.address.toNat = 0x24100 → 10000 < v.toNat % 2 ^ 14 →
        ∃ t, exec (.rapWrite r) s = .next t ∧ t.out = [.udp 46212 r.src (rapAnswer r 1 3 [])] ∧ t.set = s.set
          ∧ RapKeeps [] r s t))

/-- R518: the last reply sent to the owner is kept. A request of the owner that repeats its RAP_SEQ is answered with the bytes
stored, and not carried out again; any other request is acted on, and when its sender is the owner then, its reply is kept. -/
def RapRepeated : Prop :=
  ∀ (r : RapPacket) (s : State) (op : Nat) (c : RapPacket → Instr),
    (op, c) ∈ [(0, Instr.rapRead), (1, .rapWrite), (2, .claim), (3, .releaseRap)] →
    (∀ k : RapReply, s.owns r.src = true → s.boot.lastRap = some k → k.seq = r.seq.toNat →
      ((advance r.dt s).received r.src.ip (20 + 4 * r.values.length)).rapDiscards r op = false →
      ∃ t, exec (c r) s = .next t ∧ t.out = [.udp 46212 r.src k.bytes] ∧ t.boot.lastRap = some k ∧ RapKeeps [] r s t)
    ∧ (RapTaken r op s →
      ∃ t, exec (c r) s = .next t ∧ ∃ st vs, .udp 46212 r.src (rapAnswer r op st vs) ∈ t.out
        ∧ (s.owns r.src = true ∨ t.owns r.src = true →
            t.boot.lastRap = some { seq := r.seq.toNat, bytes := rapAnswer r op st vs }))

/-- R516: CLAIM makes the sender the owner, unless another owner has sent a packet in the last 10 s, which is answered
NOT_OWNER; the owner's RELEASE ends ownership; a READ and a WRITE of any other sender are answered NOT_OWNER, and nothing is
acted on. -/
def OwnerRules : Prop :=
  ∀ (r : RapPacket) (s : State),
    (RapTaken r 2 s → ∃ t, exec (.claim r) s = .next t
      ∧ (if s.boot.owner.any (fun o => decide (o.peer ≠ r.src ∧ s.clock.steady + r.dt < o.last + 10000000000)) then
          t.boot.owner = s.boot.owner ∧ t.out = [.udp 46212 r.src (rapAnswer r 2 1 [])]
        else t.boot.owner = some { peer := r.src, last := s.clock.steady + r.dt }
          ∧ t.out = [.udp 46212 r.src (rapAnswer r 2 0 [])]))
    ∧ (RapTaken r 3 s → s.owns r.src = true → ∃ t, exec (.releaseRap r) s = .next t ∧ t.boot.owner = none)
    ∧ (RapTaken r 0 s → s.owns r.src = false → ∃ t vs, exec (.rapRead r) s = .next t
      ∧ t.out = [.udp 46212 r.src (rapAnswer r 0 1 vs)] ∧ t.boot = s.boot ∧ RapKeeps [.fresh] r s t)
    ∧ (RapTaken r 1 s → s.owns r.src = false → ∃ t, exec (.rapWrite r) s = .next t
      ∧ t.out = [.udp 46212 r.src (rapAnswer r 1 1 [])] ∧ t.boot = s.boot ∧ RapKeeps [] r s t)

/-! ## Bring-up and resets of the module (chapter 17, 18 R569 to R572) -/

/-- Everything that a warm and a power-on reset lose (17 R542): commands, sessions, windows, partitions, module memory with
what stands in it, hob memory, allocations, images, sequences, runs, journals, watch entries, groups, operations, codec
handles and link states; kindling begins anew with step 3. -/
def Forgot (t : State) : Prop :=
  t.cmds = [] ∧ t.net.sessions = [] ∧ t.net.windows = [] ∧ t.parts = [] ∧ t.mem.allocs = [] ∧ t.mem.images = []
    ∧ t.mem.cells = [] ∧ t.mem.poison = [] ∧ t.mem.provisional = [] ∧ t.mem.hob = [] ∧ t.mem.hobPoison = []
    ∧ t.seqs.table = [] ∧ t.seqs.runs = [] ∧ t.kv = Kv.reset ∧ t.watch.parts = [] ∧ t.watch.journals = []
    ∧ t.zhevub.groups = [] ∧ t.zhevub.ops = [] ∧ t.zhevub.links = List.replicate 64 Link.reset ∧ t.codec.handles = []
    ∧ t.cores = List.replicate 128 CoreSt.reset ∧ t.boot.mode = .kindling ∧ t.boot.stepDone = 2 ∧ t.boot.stepRunning = 0
    ∧ t.boot.pstate = .run ∧ t.boot.target = 0 ∧ t.boot.resetReq = none ∧ t.ctrs.ports = List.replicate 101 Port.reset

/-- WARM_RESET (17 R536, R542, 02 R21, R29): the reset asked for takes place: media time runs on, event numbers go on, the
fuses and the firmware slots stay, Heartwood is loaded, and LAST_CAUSE names the source. -/
def WarmResets : Prop :=
  ∀ (e : Env) (s : State) (cause die : Nat), s.boot.resetReq = some (.warm cause die) →
    ∃ t, exec (.warmReset e) s = .next t ∧ Forgot t ∧ t.clock.mt = (advance e.dt s).clock.mt ∧ t.clock.state = .free
      ∧ s.net.eventSeq ≤ t.net.eventSeq ∧ (s.cmds = [] → t.net.eventSeq = s.net.eventSeq) ∧ t.fuses = s.fuses
      ∧ t.flash.slots = s.flash.slots ∧ t.flash.boot = s.flash.boot ∧ t.flash.defects = s.flash.defects
      ∧ t.set = t.heartwood.settings ∧ (s.fw.storeDue = false → t.flash = s.flash) ∧ t.boot.lastCause = cause
      ∧ (cause = 3 → t.boot.supplyDie = die) ∧ t.pending = s.pending

/-- What a power-on reset leaves (17 R536, R539, R542, 02 R21, 03 R74): fuses, firmware slots and defect log alone survive,
media time and event numbers begin at zero, LAST_CAUSE is POWER_ON, and BOOT_COUNT, stored in Heartwood, rises by one. -/
def PoweredOn (s t : State) : Prop :=
  Forgot t ∧ t.clock.mt = 0 ∧ t.clock.state = .free ∧ t.net.eventSeq = 0 ∧ t.net.nextSession = 1 ∧ t.fuses = s.fuses
    ∧ t.flash.slots = s.flash.slots ∧ t.flash.boot = s.flash.boot ∧ t.flash.defects = s.flash.defects
    ∧ t.boot.lastCause = 0 ∧ t.boot.bootCount = (s.heartwood.bootCount + 1) % 2 ^ 32 ∧ t.set = s.heartwood.settings
    ∧ (s.flash.heartwood.length = 2 → t.heartwood.bootCount = t.boot.bootCount ∧ t.heartwood.settings = t.set)
    ∧ t.pending = s.pending

/-- POWER_ON_RESET, and RESET_N low for 10 µs or more (20 R598); a shorter low is ignored. PWR_GOOD: with every rail up the
module is as after a power-on reset. -/
def PowerOnResets : Prop :=
  ∀ (e : Env) (ns : Nat) (s : State),
    (s.portUp = true → ∃ t, exec (.powerOnReset e) s = .next t ∧ PoweredOn s t)
    ∧ (s.portUp = true → 10000 ≤ ns → ∃ t, exec (.resetNLow e ns) s = .next t ∧ PoweredOn s t)
    ∧ (ns < 10000 → exec (.resetNLow e ns) s = .next (advance e.dt s))
    ∧ (s.boot.mode = .rails → ∃ t, exec (.pwrGood e) s = .next t ∧ PoweredOn s t ∧ t.phys.pwrGood = true)

/-- Every rail is down (20 R594, R595). -/
def RailsDown (s t : State) : Prop :=
  t.boot.mode = .off ∧ t.phys.pwrGood = false ∧ t.cmds = [] ∧ t.net.sessions = [] ∧ t.mem.cells = [] ∧ t.mem.hob = []
    ∧ t.parts = [] ∧ t.clock.mt = 0 ∧ t.fuses = s.fuses ∧ t.flash = s.flash ∧ t.pending = s.pending

/-- PWR_EN and the input voltage (20 R594, R595): PWR_EN high raises the Chimney rails of a module that is off; PWR_EN low
and an input that the module does not ride through remove every rail; one that it rides through does nothing. -/
def RailsFollow : Prop :=
  ∀ (e : Env) (mv ns : Nat) (s : State),
    (s.boot.mode = .off → ∃ t, exec (.pwrEnHigh e) s = .next t ∧ t.boot.mode = .rails ∧ t.phys.pwrEn = true
      ∧ KeepsBut [.boot, .phys] (advance e.dt s) t)
    ∧ (s.boot.mode ≠ .off → exec (.pwrEnHigh e) s = .next (advance e.dt s))
    ∧ (∃ t, exec (.pwrEnLow e) s = .next t ∧ t.phys.pwrEn = false ∧ (s.boot.mode ≠ .off → RailsDown s t)
      ∧ (s.boot.mode = .off → KeepsBut [.phys] (advance e.dt s) t))
    ∧ (s.boot.mode ≠ .off → (mv < 44000 ∨ 65000 < mv ∨ ((mv < 48000 ∨ 60000 < mv) ∧ 10000000 < ns)) →
      ∃ t, exec (.vinOutOfRange e mv ns) s = .next t ∧ RailsDown s t)
    ∧ (44000 ≤ mv → mv ≤ 65000 → (48000 ≤ mv ∧ mv ≤ 60000 ∨ ns ≤ 10000000) →
      exec (.vinOutOfRange e mv ns) s = .next (advance e.dt s))

/-- AUTO_RESUME (17 R523): after a warm reset with the automatic run on, step 3 starts with FAST_RESUME set. -/
def ResumesAlone : Prop :=
  ∀ (e : Env) (s : State), s.boot.mode = .kindling → s.boot.autoRun = true → s.boot.stepRunning = 0 → s.boot.stepDone = 2 →
    ∃ t, exec (.autoResume e) s = .next t ∧ t.boot.stepRunning = 3 ∧ t.boot.stepDone = 2 ∧ t.boot.fastResume = true
      ∧ t.boot.stepActed = false ∧ t.boot.autoRun = true

/-! ### The kindling steps -/

/-- Step `n` runs, and its action is due. -/
abbrev StepDue (n : Nat) (s : State) : Prop := s.boot.mode = .kindling ∧ s.boot.stepRunning = n ∧ s.boot.stepActed = false

/-- The action has been taken, and the step will end with a result. -/
def StepEnds (t : State) (result : Nat) : Prop := t.boot.stepActed = true ∧ t.boot.endResult = result

/-- FUSE_READOUT (R524): each die's marks are what its fuses hold, or clear where the record fails its CRC, which is marked
and logged. The clear marks are the model's reading of R524. -/
def FusesRead : Prop :=
  ∀ (e : Env) (bad : List Nat) (s : State), StepDue 3 s →
    ∃ t, exec (.fuseReadout e bad) s = .next t ∧ StepEnds t 0
      ∧ (∀ d < s.dieCount, t.boot.fuseCrcBad.getD d false = bad.contains d
          ∧ t.boot.fuseMarks.getD d 0 = if bad.contains d then 0 else s.fuses.badCores.getD d 0)
      ∧ ((∀ d < s.dieCount, d ∉ bad) → t.flash = s.flash)
      ∧ (∀ d < s.dieCount, d ∈ bad → s.flash.defects.length + 4 ≤ 1024 → ∃ x ∈ t.flash.defects, x.die = d ∧ x.core = 0xFF ∧ x.kind = 3)
      ∧ KeepsBut [.boot, .flash] (advance e.dt s) t

/-- BIST (R525): the cores that fail are marked; a die that fails outside its cores fails the step, naming the first such
die; otherwise a failing core leaves it degraded. -/
def CoresTested : Prop :=
  ∀ (e : Env) (cores : List (Nat × Nat)) (dies : List Nat) (s : State), StepDue 4 s →
    ∃ t, exec (.bist e cores dies) s = .next t
      ∧ (∀ d < s.dieCount, ∀ c, (t.boot.bistBad.getD d 0).testBit c = (decide (c < 36) && cores.contains (d, c)))
      ∧ (∀ d < s.dieCount, d ∈ dies → (∀ k < d, k ∉ dies) → StepEnds t 2 ∧ t.boot.endCode = 64 * d + 0x3F)
      ∧ ((∀ d < s.dieCount, d ∉ dies) → StepEnds t (if (t.boot.bistBad.any (· ≠ 0)) then 1 else 0))
      ∧ KeepsBut [.boot] (advance e.dt s) t

/-- The physical cores of die `d` that no mark of the fuses or of BIST and no host mask takes out, rising. -/
def goodCores (s : State) (d : Nat) : List Nat :=
  (List.range 36).filter fun c => !(s.boot.fuseMarks.getD d 0).testBit c && !(s.boot.bistBad.getD d 0).testBit c
    && (s.set.coreEnable.getD d 0).testBit c

/-- CORE_ENABLE_APPLY (04 R117, R118, 17 R525, R526): the first 32 good cores of each die are enabled, and logical core
32d + i stands for the i-th of them. -/
def CoresEnabled : Prop :=
  ∀ (e : Env) (s : State), StepDue 5 s → s.cores.length = 128 → s.boot.enabled.length = 4 →
    ∃ t, exec (.coreEnableApply e) s = .next t
      ∧ (∀ d < s.dieCount, t.boot.enabled.getD d 0 = maskOf ((goodCores s d).take 32)
          ∧ ∀ i < 32, (t.coreAt (32 * d + i)).phys = (goodCores s d)[i]?)
      ∧ StepEnds t (if t.enabledCores.length < 32 * s.dieCount then 1 else 0)
      ∧ KeepsBut [.boot, .flash, .cores] (advance e.dt s) t

/-- HBM_TRAINING (R528, R529): a stack that trained is in service, and its results are stored; one that failed is out of
service. With no stack of a tier left the step fails, naming the tier; any other failure leaves it degraded. -/
def StacksTrained : Prop :=
  ∀ (e : Env) (failed : List Nat) (s : State), StepDue 6 s → s.mem.hbmSet.length = 32 → s.flash.hbmTraining.length = 32 →
    ∃ t, exec (.hbmTraining e failed) s = .next t
      ∧ (∀ k < 8 * s.dieCount, (t.stackAt k).inService = !failed.contains k ∧ (t.stackAt k).level = 0
          ∧ (k ∉ failed → t.flash.hbmTraining.getD k none = some k))
      ∧ ((∀ k < 8 * s.dieCount, k % 8 < 2 → k ∈ failed) → StepEnds t 2 ∧ t.boot.endCode = 0)
      ∧ ((∃ k < 8 * s.dieCount, k % 8 < 2 ∧ k ∉ failed) → (∀ k < 8 * s.dieCount, 2 ≤ k % 8 → k ∈ failed) →
          StepEnds t 2 ∧ t.boot.endCode = 1)
      ∧ ((∃ k < 8 * s.dieCount, k % 8 < 2 ∧ k ∉ failed) → (∃ k < 8 * s.dieCount, 2 ≤ k % 8 ∧ k ∉ failed) →
          StepEnds t (if (List.range (8 * s.dieCount)).any failed.contains then 1 else 0))
      ∧ SameBytes s t ∧ KeepsBut [.boot, .flash, .mem] (advance e.dt s) t

/-- LINK_TRAINING (R530, 14 R431 to R433): every present link keeps what it trained at and is DOWN until step 8; the step is
degraded unless every one trained at full width. -/
def LinksTrained : Prop :=
  ∀ (e : Env) (os : List LinkOutcome) (s : State), StepDue 7 s → s.zhevub.links.length = 64 →
    ∃ t, exec (.linkTraining e os) s = .next t
      ∧ (∀ k < 16 * s.dieCount, (t.linkAt k).state = .down ∧ (t.linkAt k).trainedWidth = (outcomeOf os k).width
          ∧ (t.linkAt k).trainedLanes = (outcomeOf os k).lanes ∧ (t.linkAt k).nextIn = 0 ∧ (t.linkAt k).nextOut = 0
          ∧ ((outcomeOf os k).peerSeen = true → (outcomeOf os k).width ≠ 0 →
              (t.linkAt k).peerSerial = (outcomeOf os k).peerSerial.toNat))
      ∧ ((∀ k < 16 * s.dieCount, (linkVerdict { outcomeOf os k with passed := (outcomeOf os k).width }).2 = 0
            ∧ (outcomeOf os k).width = 4) → StepEnds t 0)
      ∧ ((∃ k < 16 * s.dieCount, (outcomeOf os k).width ≠ 4) → StepEnds t 1)
      ∧ KeepsBut [.boot, .flash, .zhevub] (advance e.dt s) t

/-- PRBS31_CHECK (R530, R531, 14 R433): a link that trained is UP at the widest group that passed, and DEGRADED at the
width that trained when none did; a link that did not train stays as it was. -/
def LinksChecked : Prop :=
  ∀ (e : Env) (os : List LinkOutcome) (s : State), StepDue 8 s → s.zhevub.links.length = 64 →
    ∃ t, exec (.prbs31Check e os) s = .next t
      ∧ (∀ k < 16 * s.dieCount, (s.linkAt k).reason = 0 → (s.linkAt k).trainedWidth ≠ 0 →
          if (outcomeOf os k).passed = 0 then (t.linkAt k).state = .degraded ∧ (t.linkAt k).reason = 5
              ∧ (t.linkAt k).width = widthCode (s.linkAt k).trainedWidth
            else (t.linkAt k).state = .up ∧ (t.linkAt k).reason = 0 ∧ (t.linkAt k).width = widthCode (outcomeOf os k).passed
              ∧ (t.linkAt k).lanes = (outcomeOf os k).passedLanes % 16)
      ∧ (∀ k < 16 * s.dieCount, (s.linkAt k).reason ≠ 0 ∨ (s.linkAt k).trainedWidth = 0 → t.linkAt k = s.linkAt k)
      ∧ StepEnds t (if (List.range (16 * s.dieCount)).any (fun k => !t.linkUp k) then 1 else 0)
      ∧ KeepsBut [.boot, .zhevub] (advance e.dt s) t

/-- STOKER_FIRMWARE_LOAD (R533, 18 R569, R572), with nothing programmed and no trial: the ACTIVE slot is tried first, then
the other; a slot whose image does not boot becomes BAD; with neither the step fails. An image of another Heartwood format
sets the defaults. -/
def FirmwareBoots : Prop :=
  ∀ (e : Env) (s : State) (k : Nat) (first second : Bool), StepDue 9 s → TwoSlots s → s.fw.progFirst = false →
    s.bootRecord.trial = none → k = (if s.slotState 1 = .active then 1 else 0) → first = s.bootable k →
    second = s.bootable (1 - k) →
    ∃ t, exec (.stokerFirmwareLoad e) s = .next t
      ∧ StepEnds t (if first = false ∧ second = false then 2 else 0)
      ∧ t.fw.activeSlot = (if first then k else if second then 1 - k else s.fw.activeSlot)
      ∧ t.slotState k = (if first then s.slotState k else .bad)
      ∧ t.slotState (1 - k) = (if first ∨ second then s.slotState (1 - k) else .bad)
      ∧ t.fw.fellBack = (if first then s.fw.fellBack else true) ∧ t.flash.slots = s.flash.slots
      ∧ ((first = true ∨ second = true) → t.boot.format = fwFormat (s.fwSlot t.fw.activeSlot).bytes
          ∧ t.set = (if t.boot.format = s.boot.format then s.set else s.set.defaulted))
      ∧ KeepsBut [.boot, .flash, .fw, .set] (advance e.dt s) t

/-- CORE_FIRMWARE_DISTRIBUTION (R533): a core that is enabled and whose second copy fails too fails the step; a core that is
not enabled does not count. -/
def FirmwareSpreads : Prop :=
  ∀ (e : Env) (twice : List (Nat × Nat)) (s : State), StepDue 10 s →
    ((∀ x ∈ twice, (s.boot.enabled.getD x.1 0).testBit x.2 = false) →
      ∃ t, exec (.coreFirmwareDistribution e twice) s = .next t ∧ StepEnds t 0 ∧ KeepsBut [.boot] (advance e.dt s) t)
    ∧ (∀ x, twice.head? = some x → (s.boot.enabled.getD x.1 0).testBit x.2 = true →
      ∃ t, exec (.coreFirmwareDistribution e twice) s = .next t ∧ StepEnds t 2 ∧ t.boot.endCode = 64 * x.1 + x.2
        ∧ KeepsBut [.boot] (advance e.dt s) t)

/-- READY (R519, 03 R64, 18 R570, 01 R19): the module leaves kindling mode with STEP_DONE 11 and no RAP owner; a trial image
is ACTIVE and its security version in force; the capability block is fixed; and the port takes its addresses and announces
them; an automatic run writes the values in force to Heartwood (R523). -/
def BecomesReady : Prop :=
  ∀ (e : Env) (s : State), StepDue 11 s → TwoSlots s → s.fw.activeSlot < 2 →
    ∃ t, exec (.ready e) s = .next t ∧ t.boot.mode = .ready ∧ t.boot.stepDone = 11 ∧ t.boot.stepRunning = 0
      ∧ t.boot.result = 0 ∧ t.boot.owner = none ∧ t.boot.caps = (advance e.dt s).capsBlock
      ∧ t.slotState s.fw.activeSlot = .active
      ∧ (s.bootRecord.trial = some s.fw.activeSlot → t.bootRecord.trial = none
          ∧ t.fuses.minSecurity = (if fwAdvances (s.fwSlot s.fw.activeSlot).bytes then
              max s.fuses.minSecurity (fwSecurity (s.fwSlot s.fw.activeSlot).bytes) else s.fuses.minSecurity))
      ∧ (s.bootRecord.trial ≠ some s.fw.activeSlot → t.fuses = s.fuses)
      ∧ t.net.useV4 = (if s.set.netFlags.testBit 0 ∧ s.set.ipv4Addr ≠ 0 then some s.set.ipv4Addr else none)
      ∧ Emission.unsolicitedAdvert (linkLocal s.fuses.mac) ∈ t.out
      ∧ (s.set.netFlags.testBit 0 = true → s.set.ipv4Addr ≠ 0 → Emission.gratuitousArp (BitVec.ofNat 32 s.set.ipv4Addr) ∈ t.out)
      ∧ (s.boot.autoRun = true → s.flash.heartwood.length = 2 → t.heartwood.settings = s.set)
      ∧ KeepsBut [.boot, .flash, .fuses, .fw, .net, .clock, .ctrs, .out] (advance e.dt s) t

/-- KINDLE_STEP_COMPLETE (R519, R520, R523): the step that has acted ends with its result; a FAIL leaves STEP_DONE before it
and stops the automatic run; otherwise STEP_DONE names it, and an automatic run starts the next. -/
def StepCompletes : Prop :=
  ∀ (e : Env) (s : State) (n : Nat), s.boot.mode = .kindling → s.boot.stepRunning = n → n ≠ 0 → s.boot.stepActed = true →
    (s.boot.endResult = 2 →
      ∃ t, exec (.kindleStepComplete e) s = .next t ∧ t.boot.stepRunning = 0 ∧ t.boot.stepDone = n - 1 ∧ t.boot.result = 2
        ∧ t.boot.failCode = s.boot.endCode ∧ t.boot.autoRun = false ∧ KeepsBut [.boot] (advance e.dt s) t)
    ∧ (s.boot.endResult ≠ 2 → (s.boot.autoRun = false ∨ 11 ≤ n) →
      ∃ t, exec (.kindleStepComplete e) s = .next t ∧ t.boot.stepRunning = 0 ∧ t.boot.stepDone = n
        ∧ t.boot.result = s.boot.endResult ∧ t.boot.failCode = 0 ∧ KeepsBut [.boot] (advance e.dt s) t)
    ∧ (s.boot.endResult ≠ 2 → s.boot.autoRun = true → n < 11 →
      ∃ t, exec (.kindleStepComplete e) s = .next t ∧ t.boot.stepRunning = n + 1 ∧ t.boot.stepDone = n
        ∧ t.boot.stepActed = false ∧ t.boot.autoRun = true)

/-! ## Low-power states, supply and heat (17 R540 to R548, 07 R253 to R257) -/

/-- POWER_CTRL (R540, R541): TARGET takes the value; a write of RUN starts the exit from S2 or S3, and no other write
changes PSTATE. -/
def TargetWritten : Prop :=
  ∀ (e : Env) (s : State), s.portUp = true →
    ∀ (v : Nat) (c : Env → Instr), (v, c) ∈ [(0, Instr.powerTargetRun), (1, .powerTargetS1), (2, .powerTargetS2), (3, .powerTargetS3)] →
      ∃ t, exec (c e) s = .next t ∧ t.boot.target = v
        ∧ t.boot.pstate = (if v = 0 ∧ (s.boot.pstate = .s2 ∨ s.boot.pstate = .s3) then .leaving else s.boot.pstate)
        ∧ (v = 0 → s.boot.pstate = .s2 → t.boot.pdeep = 2) ∧ (v = 0 → s.boot.pstate = .s3 → t.boot.pdeep = 3)
        ∧ KeepsBut [.boot] (advance e.dt s) t

/-- What S2 and S3 both lose (R542): what the cores hold but for their places, hob memory, the write stages and the Mantel
caches, and codec handles. Sessions and media time stay. -/
def Slept (s t : State) : Prop :=
  (∀ n < s.cores.length, (t.coreAt n).phys = (s.coreAt n).phys ∧ (t.coreAt n).unretired = [] ∧ (t.coreAt n).mailbox = []
      ∧ (t.coreAt n).events = List.replicate 32 0 ∧ (t.coreAt n).banks = List.replicate 2 Bank.reset ∧ (t.coreAt n).residency = [])
    ∧ t.mem.hob = [] ∧ (∀ d < 4, (t.dieAt d).cache = [] ∧ (t.dieAt d).stage = []) ∧ t.codec.handles = [] ∧ t.codec.pushes = []
    ∧ t.fuses = s.fuses ∧ t.flash = s.flash ∧ t.set = s.set ∧ t.boot.caps = s.boot.caps

/-- POWER_STATE_ENTRY (R541, R542): with no command in flight and no window open, TARGET 2 enters S2, where HBM,
allocations, sequences and partitions stay, and TARGET 3 enters S3, where they are lost and every link is DOWN. -/
def SleepEntered : Prop :=
  ∀ (e : Env) (s : State), s.boot.mode = .ready → s.cmds = [] → s.net.windows = [] →
    (s.boot.target = 2 → (s.boot.pstate = .run ∨ s.boot.pstate = .s1) →
      ∃ t, exec (.powerStateEntry e) s = .next t ∧ t.boot.pstate = .s2 ∧ Slept s t ∧ t.mem.allocs = s.mem.allocs
        ∧ ((∀ d < 4, (s.dieAt d).stage = []) → t.mem.cells = s.mem.cells)
        ∧ KeepsBut [.boot, .cores, .mem, .codec, .kv, .ctrs] (advance e.dt s) t)
    ∧ (s.boot.target = 3 → (s.boot.pstate = .run ∨ s.boot.pstate = .s1 ∨ s.boot.pstate = .s2) →
      ∃ t, exec (.powerStateEntry e) s = .next t ∧ t.boot.pstate = .s3 ∧ Slept s t ∧ t.mem.allocs = [] ∧ t.mem.cells = []
        ∧ t.parts = [] ∧ t.seqs.table = [] ∧ t.seqs.runs = [] ∧ t.kv = Kv.reset ∧ t.zhevub.groups = []
        ∧ (∀ k ∈ t.zhevub.links, k.state = .down) ∧ t.boot.enabled = [0, 0, 0, 0]
        ∧ KeepsBut [.boot, .cores, .mem, .codec, .kv, .ctrs, .parts, .seqs, .watch, .zhevub, .net, .out, .fw] (advance e.dt s) t)

/-- POWER_STATE_EXIT_DONE (R541): the exit from S2 ends in RUN; the exit from S3 trains stacks and links and applies the
masks again, and ends in RUN, or in EXIT_FAILED when a stack failed. -/
def SleepLeft : Prop :=
  ∀ (e : Env) (failed : List Nat) (os : List LinkOutcome) (s : State), s.boot.pstate = .leaving →
    (s.boot.pdeep ≠ 3 → ∃ t, exec (.powerStateExitDone e failed os) s = .next t ∧ t.boot.pstate = .run
      ∧ KeepsBut [.boot, .clock, .ctrs] (advance e.dt s) t)
    ∧ (s.boot.pdeep = 3 → s.mem.hbmSet.length = 32 → s.cores.length = 128 →
      ∃ t, exec (.powerStateExitDone e failed os) s = .next t
        ∧ t.boot.pstate = (if (List.range (8 * s.dieCount)).any failed.contains then .exitFailed else .run)
        ∧ (∀ k < 8 * s.dieCount, (t.stackAt k).inService = !failed.contains k)
        ∧ (∀ d < s.dieCount, ∀ i < 32, (t.coreAt (32 * d + i)).phys = (goodCores s d)[i]?)
        ∧ SameBytes s t ∧ KeepsBut [.boot, .clock, .ctrs, .flash, .mem, .zhevub, .cores] (advance e.dt s) t)

/-! ### Supply -/

/-- A rail event record of 16 bytes names its die. -/
def RailEvent (b t : State) (code die : Nat) : Prop :=
  ∃ payload, payload.length = 16 ∧ payload.take 1 = beBytes 1 die ∧ Raised b t code 255 die payload

/-- SUPPLY_WARNING (R544 to R546, 02 R49): the first fall of an episode is counted and raised, with an in-band interrupt when
that is enabled, and strikes the contracts whose work used the die; a further fall raises nothing. -/
def RailFell : Prop :=
  ∀ (e : Env) (die mv : Nat) (s : State), s.portUp = true → die < s.dieCount → die < s.mem.dies.length → mv ≤ 604 →
    ((s.dieAt die).inEpisode = false →
      ∃ t, exec (.supplyWarning e die mv) s = .next t ∧ (t.dieAt die).inEpisode = true ∧ (t.dieAt die).minMv = mv
        ∧ (t.dieAt die).episodes = satAdd 16 (s.dieAt die).episodes 1 ∧ RailEvent (advance e.dt s) t 0x0301 die
        ∧ (s.phys.ibiEnabled = true ↔ Emission.ibi 2 ∈ t.out)
        ∧ t.cmds = s.cmds.map (fun c => if c.contract && c.dies.contains die then
            { c with strikes := c.strikes ++ [{ code := 1, eventSeq := s.net.eventSeq + 1, member := 0 }] } else c)
        ∧ (∀ d, d ≠ die → t.dieAt d = (advance e.dt s).dieAt d)
        ∧ SameBytes s t ∧ KeepsBut [.mem, .net, .ctrs, .out, .cmds] (advance e.dt s) t)
    ∧ ((s.dieAt die).inEpisode = true →
      ∃ t, exec (.supplyWarning e die mv) s = .next t ∧ (t.dieAt die).minMv = min (s.dieAt die).minMv mv
        ∧ (t.dieAt die).fellLast = s.clock.steady + e.dt ∧ t.out = [] ∧ KeepsBut [.mem] (advance e.dt s) t)

/-- SUPPLY_SUSTAINED (R545): 2 ms below the warning level make the episode sustained, once. SUPPLY_RECOVERED: 50 µs at or
above it end the episode. -/
def RailEnded : Prop :=
  ∀ (e : Env) (die mv : Nat) (s : State), s.portUp = true → die < s.dieCount → die < s.mem.dies.length →
    (s.dieAt die).inEpisode = true →
    (mv ≤ 604 → (s.dieAt die).sustained = false → (s.dieAt die).fellLast + 2000000 ≤ s.clock.steady + e.dt →
      ∃ t, exec (.supplySustained e die mv) s = .next t ∧ (t.dieAt die).sustained = true ∧ (t.dieAt die).inEpisode = true
        ∧ RailEvent (advance e.dt s) t 0x0302 die ∧ SameBytes s t ∧ KeepsBut [.mem, .net, .ctrs, .out] (advance e.dt s) t)
    ∧ (604 < mv → (s.dieAt die).fellLast + 50000 ≤ s.clock.steady + e.dt →
      ∃ t, exec (.supplyRecovered e die mv) s = .next t ∧ (t.dieAt die).inEpisode = false ∧ (t.dieAt die).sustained = false
        ∧ (t.dieAt die).railMv = mv ∧ RailEvent (advance e.dt s) t 0x0303 die
        ∧ SameBytes s t ∧ KeepsBut [.mem, .net, .ctrs, .out] (advance e.dt s) t)

/-- SUPPLY_RESET_LEVEL (R547): every command in flight is completed, and a warm reset that names the die is asked for. -/
def RailLost : Prop :=
  ∀ (e : Env) (die mv : Nat) (s : State), s.portUp = true → die < s.dieCount → mv ≤ 572 → s.boot.resetReq = none →
    ∃ t, exec (.supplyResetLevel e die mv) s = .next t ∧ t.cmds = [] ∧ t.boot.resetReq = some (.warm 3 die)
      ∧ SameBytes s t ∧ KeepsBut [.mem, .net, .ctrs, .out, .cmds, .boot] (advance e.dt s) t

/-! ### Heat -/

/-- THERMAL_SAMPLE (07 R253, R256): every stack sampled keeps its temperature, and rises at once to the highest level whose
threshold it reaches, but does not fall; a stack's rise is counted and raised. -/
def HeatSampled : Prop :=
  ∀ (e : Env) (temps : List Nat) (s : State), s.stacksPowered = true → s.mem.hbmSet.length = 32 →
    temps.length ≤ 8 * s.dieCount →
    ∃ t, exec (.thermalSample e temps) s = .next t
      ∧ (∀ k v, temps[k]? = some v → (t.stackAt k).tempC = v ∧ (t.stackAt k).level = max (s.stackAt k).level (levelReached v)
          ∧ ((s.stackAt k).level < levelReached v →
              (t.stackAt k).levelChanges = satAdd 16 (s.stackAt k).levelChanges 1
                ∧ ∃ payload, Raised (advance e.dt s) t 0x0201 255 (levelReached v) payload))
      ∧ (∀ k, temps.length ≤ k → t.stackAt k = s.stackAt k)
      ∧ SameBytes s t ∧ KeepsBut [.mem, .net, .ctrs, .out, .cmds] (advance e.dt s) t

/-- THERMAL_LEVEL_FALL (07 R253): after 10 ms below the value that leaves its level, a stack falls by one, and the change
is raised; before that nothing happens. -/
def HeatFell : Prop :=
  ∀ (e : Env) (k t₀ : Nat) (s : State), k < 32 → k < s.mem.hbmSet.length → (s.stackAt k).level ≠ 0 → (s.stackAt k).below = some t₀ →
    (t₀ + 10000000 ≤ s.clock.steady + e.dt →
      ∃ t, exec (.thermalLevelFall e k) s = .next t ∧ (t.stackAt k).level = (s.stackAt k).level - 1
        ∧ (∃ payload, Raised (advance e.dt s) t 0x0201 255 ((s.stackAt k).level - 1) payload)
        ∧ (∀ j, j ≠ k → t.stackAt j = s.stackAt j)
        ∧ SameBytes s t ∧ KeepsBut [.mem, .net, .ctrs, .out] (advance e.dt s) t)
    ∧ (s.clock.steady + e.dt < t₀ + 10000000 → exec (.thermalLevelFall e k) s = .next (advance e.dt s))

/-! ## Media time and its inputs (chapter 02) -/

/-- PTP_ANNOUNCE (R22, R23, R604): a grandmaster off the PTP timescale is only noted; without a master the sender becomes
it; a better one replaces it and returns TIME_STATE to FREE; a worse one, and one of another domain, change nothing. -/
def MasterChosen : Prop :=
  ∀ (e : Env) (m : AnnounceMsg) (s : State), s.portUp = true →
    (m.domain.toNat ≠ s.set.domain → exec (.ptpAnnounce e m) s = .next (advance e.dt s))
    ∧ (m.domain.toNat = s.set.domain → m.ptpTimescale = false →
      ∃ t, exec (.ptpAnnounce e m) s = .next t ∧ t.clock = { (advance e.dt s).clock with arbSeen := true }
        ∧ KeepsBut [.clock] (advance e.dt s) t)
    ∧ (m.domain.toNat = s.set.domain → m.ptpTimescale = true → s.clock.master = none →
      ∃ t, exec (.ptpAnnounce e m) s = .next t ∧ t.clock.master = some (masterOf m (s.clock.steady + e.dt))
        ∧ t.clock.state = s.clock.state ∧ KeepsBut [.clock] (advance e.dt s) t)
    ∧ (∀ k, m.domain.toNat = s.set.domain → m.ptpTimescale = true → s.clock.master = some k →
        k.grandmaster = m.grandmaster.toNat →
        ∃ t, exec (.ptpAnnounce e m) s = .next t
          ∧ t.clock = { (advance e.dt s).clock with master := some { k with rank := announceRank m, utcOffset := m.utcOffset } }
          ∧ KeepsBut [.clock] (advance e.dt s) t)
    ∧ ∀ k, m.domain.toNat = s.set.domain → m.ptpTimescale = true → s.clock.master = some k →
        k.grandmaster ≠ m.grandmaster.toNat →
        (rankBelow (announceRank m) k.rank = true →
          ∃ t, exec (.ptpAnnounce e m) s = .next t ∧ t.clock.master = some (masterOf m (s.clock.steady + e.dt))
            ∧ t.clock.state = .free ∧ t.clock.stepPending = false ∧ t.clock.mt = (advance e.dt s).clock.mt
            ∧ KeepsBut [.clock, .net, .ctrs, .out] (advance e.dt s) t)
        ∧ (rankBelow (announceRank m) k.rank = false → exec (.ptpAnnounce e m) s = .next (advance e.dt s))

/-- PTP_SYNC (R24, R25): from the current master, with no step pending, an offset of at most 1 ms is slewed away and a
larger one waits as a step; the fourth good one in a row locks. Which offset counts as good, and that a LOCKED counter is
only slewed, are the model's choices (log entry 14). -/
def SyncTaken : Prop :=
  ∀ (e : Env) (m : SyncMsg) (k : Master) (s : State), s.portUp = true → m.usable = true → s.set.source ≠ 2 →
    s.clock.master = some k → k.grandmaster = m.grandmaster.toNat → s.clock.stepPending = false →
    ∃ t, exec (.ptpSync e m) s = .next t ∧ t.clock.mt = (advance e.dt s).clock.mt
      ∧ (∃ k', t.clock.master = some k' ∧ k'.lastSync = s.clock.steady + e.dt ∧ k'.grandmaster = k.grandmaster)
      ∧ t.clock.goodSyncs = (if m.offset.natAbs < 100 then s.clock.goodSyncs + 1 else 0)
      ∧ (m.offset.natAbs ≤ 1000000 → t.clock.slewLeft = m.offset ∧ t.clock.stepPending = false)
      ∧ (1000000 < m.offset.natAbs → s.clock.state ≠ .locked → t.clock.stepPending = true ∧ t.clock.stepOffset = m.offset)
      ∧ (m.offset.natAbs < 100 → 3 ≤ s.clock.goodSyncs → t.clock.state = .locked
          ∧ (s.clock.state ≠ .locked → Raised (advance e.dt s) t 0x0103 255 1 []))
      ∧ ((100 ≤ m.offset.natAbs ∨ s.clock.goodSyncs < 3) → t.clock.state = s.clock.state)
      ∧ KeepsBut [.clock, .net, .ctrs, .out] (advance e.dt s) t

/-- A source that is lost (R24, R604): LOCKED becomes HOLDOVER, any other state stays, and no step is pending. -/
def SourceGone (e : Env) (s t : State) : Prop :=
  t.clock.master = none ∧ t.clock.stepPending = false ∧ t.clock.mt = (advance e.dt s).clock.mt
    ∧ t.clock.state = (if s.clock.state = .locked then .holdover else s.clock.state)
    ∧ (s.clock.state = .locked → t.clock.holdoverSince = s.clock.steady + e.dt
        ∧ Raised (advance e.dt s) t 0x0103 255 2 [])
    ∧ KeepsBut [.clock, .net, .ctrs, .out] (advance e.dt s) t

/-- SOURCE_LOST, HOLDOVER_EXPIRY and PPS_ABSENT (R24, R29, R604): three intervals without a Sync, or 3 s without an edge in
a mode that uses them, lose the source; HOLDOVER that has lasted 60 s becomes UNLOCKED. -/
def SourceLosses : Prop :=
  ∀ (e : Env) (s : State),
    (∀ k, s.set.source ≠ 2 → s.clock.master = some k → k.lastSync + 3 * k.syncInterval ≤ s.clock.steady + e.dt →
      ∃ t, exec (.sourceLost e) s = .next t ∧ SourceGone e s t)
    ∧ (s.clock.state = .holdover → s.clock.holdoverSince + 60000000000 ≤ s.clock.steady + e.dt →
      ∃ t, exec (.holdoverExpiry e) s = .next t ∧ t.clock.state = .unlocked ∧ t.clock.mt = (advance e.dt s).clock.mt
        ∧ Raised (advance e.dt s) t 0x0103 255 3 [] ∧ KeepsBut [.clock, .net, .ctrs, .out] (advance e.dt s) t)
    ∧ (∀ t₀, s.clock.ppsPresent = true → s.clock.lastPps = some t₀ → t₀ + 3000000000 ≤ s.clock.steady + e.dt →
      (s.set.source = 0 → ∃ t, exec (.ppsAbsent e) s = .next t ∧ t.clock.ppsPresent = false
        ∧ t.clock.state = s.clock.state ∧ KeepsBut [.clock] (advance e.dt s) t)
      ∧ (s.set.source ≠ 0 → ∃ t, exec (.ppsAbsent e) s = .next t ∧ t.clock.ppsPresent = false ∧ SourceGone e s t))

/-- MT_STEPPED (R25): with a step pending and no contract in flight, media time becomes the source's, and the event carries
the old and the new time; with a contract in flight nothing happens. -/
def StepMade : Prop :=
  ∀ (e : Env) (s : State) (new : Nat), s.clock.stepPending = true →
    new = (((advance e.dt s).clock.mt : Int) + s.clock.stepOffset).toNat →
    ((∀ c ∈ s.cmds, c.contract = false) →
      ∃ t, exec (.mtStepped e) s = .next t ∧ t.clock.mt = new ∧ t.clock.stepPending = false ∧ t.clock.state = s.clock.state
        ∧ (∃ seq, s.net.eventSeq < seq ∧ ∀ m ∈ t.net.sessions, m.wants 0 255 = true → 0 < m.ring.leftOut ∨ Ringed m
            { kind := 2, partition := 255, code := 0x0101, cause := 0, eventSeq := seq, mediaTime := new, cmdSeq := 0, jobTag := 0,
              payload := beBytes 8 (advance e.dt s).clock.mt ++ beBytes 8 new })
        ∧ KeepsBut [.clock, .net, .ctrs, .out] (advance e.dt s) t)
    ∧ ((∃ c ∈ s.cmds, c.contract = true) → exec (.mtStepped e) s = .next (advance e.dt s))

/-- PPS_IN_EDGE (R26, R29, R30): an edge of the other polarity does nothing. One of the chosen polarity is noted, and counts
the good periods; in PTP mode it does no more, and in PPS_HOST mode, with MT_SET_SECONDS written and no contract in flight,
media time becomes that second after the epoch. -/
def EdgeTaken : Prop :=
  ∀ (e : Env) (falling : Bool) (s : State), s.portUp = true →
    (falling ≠ decide (s.set.ppsEdge = 1) → exec (.ppsInEdge e falling) s = .next (advance e.dt s))
    ∧ (falling = decide (s.set.ppsEdge = 1) →
      (s.set.source = 0 → ∃ t, exec (.ppsInEdge e falling) s = .next t ∧ t.clock.ppsPresent = true
        ∧ t.clock.lastPps = some (s.clock.steady + e.dt) ∧ t.clock.mt = (advance e.dt s).clock.mt
        ∧ t.clock.slewLeft = (advance e.dt s).clock.slewLeft ∧ t.clock.state = s.clock.state
        ∧ KeepsBut [.clock] (advance e.dt s) t)
      ∧ (∀ v, s.set.source = 2 → s.clock.setSeconds = some v → (∀ c ∈ s.cmds, c.contract = false) →
        ∃ t, exec (.ppsInEdge e falling) s = .next t ∧ t.clock.mt = (s.set.mtEpoch + v) * 1000000000
          ∧ t.clock.setSeconds = none ∧ t.clock.ppsPresent = true ∧ KeepsBut [.clock, .net, .ctrs, .out] (advance e.dt s) t)
      ∧ (s.set.source = 1 → s.clock.state = .locked → ∃ t, exec (.ppsInEdge e falling) s = .next t
        ∧ t.clock.slewLeft = - phaseError (advance e.dt s).clock.mt ∧ KeepsBut [.clock] (advance e.dt s) t))

/-- FRAME_SYNC_IN (R29, R35): a pulse of the chosen polarity re-phases every grid bound to it that has a boundary within 2 µs,
and no other; FSYNC_ABSENT follows 3 s without one. -/
def FrameSynced : Prop :=
  ∀ (e : Env) (falling : Bool) (s : State),
    (s.portUp = true → falling = decide (s.set.fsyncEdge = 1) →
      ∃ t, exec (.frameSyncInPulse e falling) s = .next t ∧ t.clock.fsyncPresent = true
        ∧ t.clock.lastFsync = some (s.clock.steady + e.dt)
        ∧ t.seqs.table.length = s.seqs.table.length
        ∧ (∀ (i : Nat) (q : Seq) (g : Grid), s.seqs.table[i]? = some q → q.grid = some g →
            ∃ q' g', t.seqs.table[i]? = some q' ∧ q'.grid = some g' ∧ q'.handle = q.handle ∧ q'.state = q.state
              ∧ g'.num = g.num ∧ g'.den = g.den ∧ g'.gridId = g.gridId
              ∧ (g.fsyncBound = true → ∀ k, g.near (advance e.dt s).clock.mt = some k →
                  g'.base = (advance e.dt s).clock.mt ∧ g'.baseK = k)
              ∧ ((g.fsyncBound = false ∨ g.near (advance e.dt s).clock.mt = none) → g' = g))
        ∧ KeepsBut [.clock, .seqs, .codec] (advance e.dt s) t)
    ∧ (falling ≠ decide (s.set.fsyncEdge = 1) → exec (.frameSyncInPulse e falling) s = .next (advance e.dt s))
    ∧ (∀ t₀, s.clock.fsyncPresent = true → s.clock.lastFsync = some t₀ → t₀ + 3000000000 ≤ s.clock.steady + e.dt →
      ∃ t, exec (.fsyncAbsent e) s = .next t ∧ t.clock = { (advance e.dt s).clock with fsyncPresent := false }
        ∧ KeepsBut [.clock] (advance e.dt s) t)

/-- FRAME_SYNC_LOST (R35): a bound grid that three boundaries in a row have passed without a pulse is reported, once. -/
def FrameSyncReported : Prop :=
  ∀ (e : Env) (q id : Nat) (g : Grid) (s : State), s.grid? q id = some g →
    (g.starved (advance e.dt s).clock.mt = true →
      ∃ t, exec (.frameSyncLost e q id) s = .next t ∧ Raised (advance e.dt s) t 0x0102 q 0 []
        ∧ t.grid? q id = some { g with lost := true }
        ∧ KeepsBut [.seqs, .codec, .net, .ctrs, .out] (advance e.dt s) t)
    ∧ (g.starved (advance e.dt s).clock.mt = false → exec (.frameSyncLost e q id) s = .next (advance e.dt s))

/-! ## The management target (20 R599 to R601) -/

/-- ENTDAA, SETDASA and RSTDAA (R599): a target without a dynamic address takes the one offered, after ENTDAA has read its
8 bytes; SETDASA only at the static address; RSTDAA takes the address away. Powered down, it answers nothing. -/
def AddressTaken : Prop :=
  ∀ (e : Env) (static address : Nat) (s : State),
    (s.boot.mode ≠ .off → s.phys.dynAddr = none →
      (∃ t, exec (.entdaa e address) s = .next t ∧ t.phys.dynAddr = some (address % 128)
        ∧ (∃ bs : List Byte, bs.length = 8 ∧ t.out = [.i3cData bs, .i3cAck]) ∧ KeepsBut [.phys, .out, .fresh, .ctrs] (advance e.dt s) t)
      ∧ (static = 0x4C + s.phys.addrSel →
        ∃ t, exec (.setdasa e static address) s = .next t ∧ t.phys.dynAddr = some (address % 128) ∧ t.out = [.i3cAck]
          ∧ KeepsBut [.phys, .out, .ctrs] (advance e.dt s) t)
      ∧ (static ≠ 0x4C + s.phys.addrSel → exec (.setdasa e static address) s = .next (advance e.dt s)))
    ∧ (s.phys.dynAddr ≠ none → exec (.entdaa e address) s = .next (advance e.dt s)
        ∧ exec (.setdasa e static address) s = .next (advance e.dt s))
    ∧ (s.boot.mode ≠ .off → ∃ t, exec (.rstdaa e) s = .next t ∧ t.phys = { s.phys with dynAddr := none } ∧ t.out = [.i3cAck]
        ∧ KeepsBut [.phys, .out, .ctrs] (advance e.dt s) t)
    ∧ (s.boot.mode = .off → exec (.entdaa e address) s = .next (advance e.dt s) ∧ exec (.rstdaa e) s = .next (advance e.dt s))

/-- A transfer reaches the target: the Chimney die is powered, and the address is its dynamic one, or the static one while
it has none. -/
abbrev Reached (a : Nat) (s : State) : Prop := s.boot.mode ≠ .off ∧ a = s.phys.dynAddr.getD (0x4C + s.phys.addrSel)

/-- The CCCs that read the target (R599) give 6, 1, 1, 2 and 2 bytes, which no rule states, and change nothing; addressed
elsewhere they get no answer. -/
def TargetRead : Prop :=
  ∀ (e : Env) (a : Nat) (s : State) (n : Nat) (c : Env → Nat → Instr),
    (n, c) ∈ [(6, Instr.getpid), (1, .getbcr), (1, .getdcr), (2, .getstatus), (2, .getmxds)] →
    (Reached a s → ∃ (t : State) (bs : List Byte), exec (c e a) s = .next t ∧ bs.length = n ∧ t.out = [.i3cAck, .i3cData bs]
      ∧ KeepsBut [.out, .fresh, .ctrs] (advance e.dt s) t)
    ∧ (¬ Reached a s → exec (c e a) s = .next (advance e.dt s))

/-- ENEC and DISEC (R599, R601): bit 0 of the events, to the target or broadcast, allows or forbids its in-band interrupts.
The bit is the model's choice (log entry 40). -/
def InterruptsAllowed : Prop :=
  ∀ (e : Env) (a : Nat) (events : Byte) (s : State) (on : Bool) (c : Env → Nat → Byte → Instr),
    (on, c) ∈ [(true, Instr.enec), (false, .disec)] → (Reached a s ∨ s.boot.mode ≠ .off ∧ a = 0x7E) →
    ∃ t, exec (c e a events) s = .next t ∧ t.out = [.i3cAck]
      ∧ t.phys = { s.phys with ibiEnabled := if events.toNat.testBit 0 then on else s.phys.ibiEnabled }
      ∧ KeepsBut [.phys, .out, .ctrs] (advance e.dt s) t

/-- A CCC that R599 does not name is not acknowledged. -/
def OtherCodesRefused : Prop :=
  ∀ (e : Env) (code : Byte) (s : State), s.boot.mode ≠ .off → knownCcc code.toNat = false →
    ∃ t, exec (.i3cOtherCcc e code) s = .next t ∧ t.out = [.i3cNack] ∧ KeepsBut [.out, .ctrs] (advance e.dt s) t

/-- Private transfers (R600, R601): a write of one byte sets the read offset, and a longer one is refused with nothing
changed; a read gives as many bytes as asked for from the offset on and moves it by as many; PIN_W is seen for PEAK_W. -/
def ManagementMoved : Prop :=
  ∀ (e : Env) (a length : Nat) (tel : Telemetry) (s : State), Reached a s →
    (∀ b : Byte, ∃ t, exec (.i3cPrivateWrite e a [b]) s = .next t ∧ t.phys.readOffset = b.toNat ∧ t.out = [.i3cAck]
      ∧ KeepsBut [.phys, .out, .ctrs] (advance e.dt s) t)
    ∧ (∀ bs : List Byte, 2 ≤ bs.length → ∃ t, exec (.i3cPrivateWrite e a bs) s = .next t ∧ t.out = [.i3cNack]
      ∧ KeepsBut [.out, .ctrs] (advance e.dt s) t)
    ∧ (s.phys.readOffset < 256 → ∃ (t : State) (bs : List Byte), exec (.i3cPrivateRead e a length tel) s = .next t ∧ bs.length = length
      ∧ t.out = [.i3cAck, .i3cData bs] ∧ t.phys.readOffset = (s.phys.readOffset + length) % 256
      ∧ (s.phys.readOffset = 4 → length = 8 → bs = beBytes 8 s.fuses.serial)
      ∧ (s.phys.readOffset = 0x0C → length = 2 → s.phys.pwrGood = true → bs = beBytes 2 tel.vinMv)
      ∧ (s.phys.readOffset = 0x0C → length = 2 → s.phys.pwrGood = false → bs = zeros 2)
      ∧ KeepsBut [.phys, .out, .fresh, .ctrs] (advance e.dt s) t)

/-! ## Cores: issue (chapters 04 and 05) -/

/-- What the entry that a core brings to issue in state `b` is read and run with. -/
def jobOf (b : State) (core : Nat) (r : Run) (x : Entry) : Job :=
  { core := core, run := r, index := (b.coreAt core).next, entry := x, opId := b.mem.nextOp, bad := false }

/-- Core `core` of run `r` brings its next entry to issue, in state `b`: its bytes are `bytes`, it is of kind `k`, passes
every check and reads as `p`, and neither a hazard nor an engine nor a unit holds it back (R129 to R131, R166); `bound` are
the banks of its custom tables, each with whether it must be loaded (R370). -/
structure Turn {P : Type} (k : Kind P) (e : Env) (core : Nat) (s : State) (r : Run) (b : State) (bytes : List Byte) (p : P)
    (tr : Trace) (bound : List (Nat × Bool)) : Prop where
  front : (enter e s).front core = some r
  decoded : (enter e s).decodeNext core = (b, bytes)
  lets : b.decodeStop (macroEntry bytes) = none
  mine : k.mine (b.issueHob core r) (macroEntry bytes) = true
  reads : (k.read (b.issueHob core r) b (jobOf b core r (macroEntry bytes))).run.run { descs := [], peeks := [] } = (.ok p, tr)
  clear : (macroEntry bytes).noHazard = true
    ∨ hazard (b.coreAt core).unretired (tr.descs ++ k.reads p) (k.writes p) = false
  engine : k.dma = true → (b.coreAt core).enginesHeld < 4
  free : k.blocked p (b.coreAt core) = false
  banks : (b.coreAt core).banks.length = 2
  binds : (b.coreAt core).bind r.partition (k.table p) = some bound

/-- `m` has joined the macro-instructions that have issued and not retired, and the program goes on behind it. -/
def Joined {P : Type} (k : Kind P) (core : Nat) (b t : State) (bytes : List Byte) (p : P) (m : Macro) : Prop :=
  (t.coreAt core).unretired = (b.coreAt core).unretired ++ [m] ∧ m.index = (b.coreAt core).next ∧ m.entry = bytes
    ∧ m.opId = b.mem.nextOp ∧ m.span = k.span p ∧ (t.coreAt core).next = (b.coreAt core).next + k.span p
    ∧ (t.coreAt core).decoded = none

/-- Hob memory outside the ranges `ws` of a core is as it was, every core's. -/
def HobOutside (core : Nat) (ws : List Span) (b t : State) : Prop :=
  ∀ c a, a < hobTop → (c ≠ core ∨ ∀ w ∈ ws, a < w.1 ∨ w.2 ≤ a) →
    cellGet t.mem.hob (hobKey c a) = cellGet b.mem.hob (hobKey c a)

/-- Whatever its operands, a macro-instruction of kind `k` issues at its turn: it joins the unretired ones; when a custom
table must be loaded first it waits for it; no other core's program moves; and it writes no hob byte outside the ranges that
the hazard check covers (R130). -/
def Issues {P : Type} (k : Kind P) (c : Env → Nat → Instr) (parts : List StatePart) : Prop :=
  ∀ e core s r b bytes p tr bound, Turn k e core s r b bytes p tr bound → Canonical s →
    ∃ t m, exec (c e core) s = .next t ∧ Joined k core b t bytes p m ∧ m.banks = bound.map Prod.fst
      ∧ (∀ g, bound.find? (·.2) = some g →
          m.pending = .table g.1 ∧ ((t.coreAt core).banks.getD g.1 Bank.reset).loading = true)
      ∧ (∀ n, n ≠ core → (t.coreAt n).unretired = (s.coreAt n).unretired ∧ (t.coreAt n).next = (s.coreAt n).next)
      ∧ HobOutside core (k.writes p) s t ∧ KeepsBut parts (enter e s) t

/-- What a macro-instruction that moves or computes may change. -/
def workParts : List StatePart := [.mem, .cores, .ctrs, .parts, .watch, .zhevub, .cmds, .fresh]

/-- SEND, RECV, WAIT and FENCE issue at their turn (04 R129 to R138), and a transfer or a wait leaves every part but the
cores and memory as it was. -/
def ControlIssues : Prop :=
  Issues kindSend Instr.sendMsg [.mem, .cores] ∧ Issues kindRecv Instr.recv [.mem, .cores]
    ∧ Issues (kindWait 0) Instr.waitCounter [.mem, .cores] ∧ Issues (kindWait 1) Instr.clusterBarrier [.mem, .cores]
    ∧ Issues (kindWait 2) Instr.waitMailbox [.mem, .cores] ∧ Issues (kindFence 0) Instr.fenceCore [.mem, .cores]
    ∧ Issues (kindFence 1) Instr.fenceDie [.mem, .cores] ∧ Issues (kindFence 2) Instr.fenceModule [.mem, .cores]

/-- The four modes of MOVE issue at their turn, with a free engine (R129, R130, 07 R240). -/
def MovesIssue : Prop :=
  Issues kindCopy Instr.copyTensor workParts ∧ Issues (kindReduce 1 .fp32) Instr.reduceFp32 workParts
    ∧ Issues (kindReduce 2 .bf16) Instr.reduceBf16 workParts ∧ Issues kindAtomic Instr.atomic workParts

/-- ELTWISE, PRELOAD, ROWSTAT and NORM issue at their turn (R129, R130, 11 R364 to R378). -/
def FlameIssues : Prop :=
  Issues kindElt Instr.eltwise workParts ∧ Issues kindPreload Instr.preload workParts
    ∧ Issues kindStat Instr.rowstat workParts ∧ Issues kindNorm Instr.norm workParts

/-- MATMUL, CONV3D and ATTN issue at their turn (R129, R130, R166, 08 R272, 10 R331). -/
def ArrayIssues : Prop :=
  Issues kindMatmul Instr.matmul workParts ∧ Issues kindConv Instr.conv3d workParts
    ∧ Issues kindAttn Instr.attn (.kv :: workParts)

/-- UPDATE, ROOT and BANKCHK issue at their turn (R129, R130, 09 R321, 13 R414, R421). -/
def UpdatesIssue : Prop :=
  Issues kindUpdate Instr.updateLayer workParts ∧ Issues kindRoot Instr.rootMatrix workParts
    ∧ Issues kindBank Instr.bankchk (.seqs :: workParts)

/-- A hazard on what an entry of kind `k` reads or writes holds it at issue, and nothing of it happens (R130). -/
def Holds {P : Type} (k : Kind P) (c : Env → Nat → Instr) : Prop :=
  ∀ e core s r b bytes res tr, (enter e s).front core = some r → (enter e s).decodeNext core = (b, bytes) →
    b.decodeStop (macroEntry bytes) = none → k.mine (b.issueHob core r) (macroEntry bytes) = true →
    (k.read (b.issueHob core r) b (jobOf b core r (macroEntry bytes))).run.run { descs := [], peeks := [] } = (res, tr) →
    (macroEntry bytes).noHazard = false →
    (hazard (b.coreAt core).unretired tr.descs [] = true
      ∨ ∃ p, res = .ok p ∧ hazard (b.coreAt core).unretired (tr.descs ++ k.reads p) (k.writes p) = true) →
    ∃ t, exec (c e core) s = .next t ∧ (t.coreAt core).issueWait = true
      ∧ (t.coreAt core).unretired = (s.coreAt core).unretired ∧ (t.coreAt core).next = (s.coreAt core).next
      ∧ KeepsBut [.cores] (enter e s) t

/-- A hazard holds every kind of macro-instruction that reads or writes hob memory (R130). -/
def HazardsHold : Prop :=
  Holds kindMatmul Instr.matmul ∧ Holds kindConv Instr.conv3d ∧ Holds kindAttn Instr.attn
    ∧ Holds kindElt Instr.eltwise ∧ Holds kindPreload Instr.preload ∧ Holds kindStat Instr.rowstat
    ∧ Holds kindNorm Instr.norm ∧ Holds kindUpdate Instr.updateLayer ∧ Holds kindRoot Instr.rootMatrix
    ∧ Holds kindBank Instr.bankchk ∧ Holds kindCopy Instr.copyTensor ∧ Holds (kindReduce 1 .fp32) Instr.reduceFp32
    ∧ Holds (kindReduce 2 .bf16) Instr.reduceBf16 ∧ Holds kindAtomic Instr.atomic ∧ Holds kindSend Instr.sendMsg
    ∧ Holds kindRecv Instr.recv

/-- A check of an entry of kind `k` that fails, once no hazard is left on its descriptors, ends the launch at it and stops
issue on the run's cores (R131, R155). -/
def Ends {P : Type} (k : Kind P) (c : Env → Nat → Instr) : Prop :=
  ∀ e core s r b bytes x tr, (enter e s).front core = some r → (enter e s).decodeNext core = (b, bytes) →
    b.decodeStop (macroEntry bytes) = none → k.mine (b.issueHob core r) (macroEntry bytes) = true →
    (k.read (b.issueHob core r) b (jobOf b core r (macroEntry bytes))).run.run { descs := [], peeks := [] } = (.error x, tr) →
    (macroEntry bytes).noHazard = true ∨ hazard (b.coreAt core).unretired tr.descs [] = false → r.fail = 0 →
    ∃ t, exec (c e core) s = .next t
      ∧ (∃ g ∈ t.seqs.runs, g.id = r.id ∧ g.fail = x.status ∧ g.failCause = x.cause ∧ g.failCore = (s.coreAt core).rel
          ∧ g.failIndex = (s.coreAt core).next)
      ∧ (∀ n ∈ r.cores, n < s.cores.length → (s.coreAt n).run = r.id → (t.coreAt n).halting = true)
      ∧ (t.coreAt core).unretired = (s.coreAt core).unretired ∧ KeepsBut [.cores, .seqs] (enter e s) t

/-- A failing check ends the launch at every kind of macro-instruction (R131, R155). -/
def BadEntriesEnd : Prop :=
  Ends kindMatmul Instr.matmul ∧ Ends kindConv Instr.conv3d ∧ Ends kindAttn Instr.attn ∧ Ends kindElt Instr.eltwise
    ∧ Ends kindPreload Instr.preload ∧ Ends kindStat Instr.rowstat ∧ Ends kindNorm Instr.norm
    ∧ Ends kindUpdate Instr.updateLayer ∧ Ends kindRoot Instr.rootMatrix ∧ Ends kindBank Instr.bankchk
    ∧ Ends kindCopy Instr.copyTensor ∧ Ends (kindReduce 1 .fp32) Instr.reduceFp32
    ∧ Ends (kindReduce 2 .bf16) Instr.reduceBf16 ∧ Ends kindAtomic Instr.atomic ∧ Ends kindSend Instr.sendMsg
    ∧ Ends kindRecv Instr.recv ∧ Ends (kindWait 0) Instr.waitCounter ∧ Ends (kindWait 1) Instr.clusterBarrier
    ∧ Ends (kindWait 2) Instr.waitMailbox ∧ Ends (kindFence 0) Instr.fenceCore ∧ Ends (kindFence 1) Instr.fenceDie
    ∧ Ends (kindFence 2) Instr.fenceModule

/-! ## Messages, waits and fences (chapter 04) -/

/-- SEND (R132, R133): it asks its destination's mailbox for the slot of its first fragment, with the bytes at its source;
a destination that has finished drops the message and counts it (R139). -/
def MessagesSent : Prop :=
  ∀ e core s r b bytes p tr bound dest, Turn kindSend e core s r b bytes p tr bound → dest = r.cores.getD p.dest 0 →
    dest < s.cores.length →
    ∃ t m, exec (.sendMsg e core) s = .next t ∧ Joined kindSend core b t bytes p m
      ∧ ((s.coreAt dest).finished = true ∨ (s.coreAt dest).run ≠ r.id → m.pending = .none
          ∧ (t.coreAt dest).dropped = satAdd 16 (s.coreAt dest).dropped 1
          ∧ (t.coreAt dest).requests = (s.coreAt dest).requests)
      ∧ ((s.coreAt dest).finished = false → (s.coreAt dest).run = r.id → m.pending = .sending (fragments p.length)
          ∧ ∃ f : SlotRequest, (t.coreAt dest).requests = (s.coreAt dest).requests ++ [f] ∧ f.sender = core
              ∧ f.source = (s.coreAt core).rel ∧ f.tag = p.tag ∧ f.length = p.length ∧ f.opId = m.opId
              ∧ f.bytes = s.hobRead core p.src (min 256 p.length) ∧ f.last = decide (p.length ≤ 256))

/-- RECV (R134): with no message that matches it waits; a message of one fragment that matches is copied, as far as
MAX_LENGTH lets it, its receipt written, and its slot freed. -/
def MessagesReceived : Prop :=
  ∀ e core s r b bytes p tr bound, Turn kindRecv e core s r b bytes p tr bound → Canonical s →
    ∃ t m, exec (.recv e core) s = .next t ∧ Joined kindRecv core b t bytes p m
      ∧ ((∀ g ∈ (s.coreAt core).mailbox, p.wants g = true → (s.coreAt core).taken.contains g.id = true) →
          m.pending = .receiving none ∧ (t.coreAt core).mailbox = (s.coreAt core).mailbox ∧ SameBytes s t)
      ∧ ∀ g f, (s.coreAt core).mailbox.find? (fun g => !(s.coreAt core).taken.contains g.id && p.wants g) = some g →
          g.frags = [f] → g.drained = 0 → g.length ≤ 256 → f.1.length = g.length → p.receipt ≠ absent →
          (p.dst + p.maxLength ≤ p.receipt ∨ p.receipt + 8 ≤ p.dst) →
          m.pending = .none ∧ t.hobRead core p.dst (min g.length p.maxLength) = f.1.take p.maxLength
            ∧ t.hobRead core p.receipt 8 = receiptBytes p g
            ∧ (t.coreAt core).mailbox = (s.coreAt core).mailbox.filter (fun x => x.id ≠ g.id)
            ∧ (t.coreAt core).slotsUsed = (s.coreAt core).slotsUsed - 1

/-- MAILBOX_SLOT_GRANT (R135): with a slot free, the oldest request's fragment enters the mailbox, and its sender asks for
the slot of the next one, if there is one; with none free nothing happens. -/
def SlotsGranted : Prop :=
  ∀ (e : Env) (core : Nat) (f : SlotRequest) (rest : List SlotRequest) (s : State), (s.coreAt core).requests = f :: rest →
    (64 ≤ (s.coreAt core).slotsUsed → exec (.mailboxSlotGrant e core) s = .next (enter e s))
    ∧ ((s.coreAt core).slotsUsed < 64 → (enter e s).dieMhz (coreDie f.sender) ≠ 0 → core < s.cores.length →
      (s.coreAt core).unretired.all (fun m => match m.pending with | .receiving _ => false | _ => true) = true →
      ∃ t, exec (.mailboxSlotGrant e core) s = .next t ∧ (t.coreAt core).slotsUsed = (s.coreAt core).slotsUsed + 1
        ∧ (∃ g ∈ (t.coreAt core).mailbox, g.id = f.message ∧ g.frags.getLast? = some (f.bytes, f.poison)
            ∧ ((∀ x ∈ (s.coreAt core).mailbox, x.id ≠ f.message) →
                g.source = f.source ∧ g.tag = f.tag ∧ g.length = f.length ∧ g.arrived = 1))
        ∧ (∀ m n, (s.coreAt f.sender).unretired.find? (·.opId = f.opId) = some m → m.pending = .sending n →
            (n ≤ 1 → (t.coreAt core).requests = rest
              ∧ ∃ m' ∈ (t.coreAt f.sender).unretired, m'.index = m.index ∧ m'.pending = .none)
            ∧ (1 < n → ∃ f' : SlotRequest, (t.coreAt core).requests = rest ++ [f'] ∧ f'.message = f.message
                ∧ f'.opId = f.opId ∧ f'.source = f.source))
        ∧ SameBytes s t ∧ KeepsBut [.cores] (enter e s) t)

/-- WAIT (R136, R137): the core's later entries are held until an event counter has reached the threshold, or the barrier
has been entered as often by every core of the run in its cluster, or enough messages of the tag have come; a condition that
holds already holds nothing. -/
def WaitsEntered : Prop :=
  (∀ e core s r b bytes p tr bound, Turn (kindWait 0) e core s r b bytes p tr bound →
    ∃ t, exec (.waitCounter e core) s = .next t ∧ (t.coreAt core).holdIndex = (s.coreAt core).next
      ∧ (t.coreAt core).hold =
          (if (macroEntry bytes).opnd 0 ≤ (s.coreAt core).events.getD (bitsOf (macroEntry bytes).imm 8 4) 0 then .none
           else .counter (bitsOf (macroEntry bytes).imm 8 4) ((macroEntry bytes).opnd 0)))
  ∧ (∀ e core s r b bytes p tr bound, Turn (kindWait 1) e core s r b bytes p tr bound →
    ∃ t, exec (.clusterBarrier e core) s = .next t ∧ (t.coreAt core).holdIndex = (s.coreAt core).next
      ∧ (t.coreAt core).barriers = (s.coreAt core).barriers + 1
      ∧ (t.coreAt core).hold =
          (if r.cores.all (fun n => decide (coreCluster n ≠ coreCluster core ∨ n = core
              ∨ (s.coreAt core).barriers < (s.coreAt n).barriers)) = true then .none
           else .barrier ((s.coreAt core).barriers + 1)))
  ∧ ∀ e core s r b bytes p tr bound, Turn (kindWait 2) e core s r b bytes p tr bound →
    ∃ t, exec (.waitMailbox e core) s = .next t ∧ (t.coreAt core).holdIndex = (s.coreAt core).next
      ∧ (t.coreAt core).hold =
          (if (macroEntry bytes).opnd 0 ≤ (s.coreAt core).heldMessages (bitsOf (macroEntry bytes).imm 31 16) then .none
           else .mailbox (bitsOf (macroEntry bytes).imm 31 16) ((macroEntry bytes).opnd 0))

/-- WAIT_SATISFIED (R136): a WAIT whose condition holds lets issue go on; any other goes on holding it. -/
def WaitsEnd : Prop :=
  ∀ (e : Env) (core : Nat) (r : Run) (s : State), (enter e s).run? (s.coreAt core).run = some r →
    ((enter e s).waitHolds core r = true →
      ∃ t, exec (.waitSatisfied e core) s = .next t ∧ (t.coreAt core).hold = .none
        ∧ (t.coreAt core).unretired = (s.coreAt core).unretired ∧ (t.coreAt core).next = (s.coreAt core).next
        ∧ SameBytes s t ∧ KeepsBut [.cores] (enter e s) t)
    ∧ ((enter e s).waitHolds core r = false → exec (.waitSatisfied e core) s = .next (enter e s))

/-- FENCE (R138, 07 R237): it holds later entries until every earlier one has retired; with scope MODULE and none left,
none of the core's writes is still in the write stage of its die. -/
def FencesEntered : Prop :=
  ∀ e core s r b bytes p tr bound,
    (Turn (kindFence 0) e core s r b bytes p tr bound →
      ∃ t, exec (.fenceCore e core) s = .next t ∧ (t.coreAt core).hold =
        (if (s.coreAt core).unretired.all (fun m => decide ((s.coreAt core).next ≤ m.index)) = true then .none else .fence 0))
    ∧ (Turn (kindFence 1) e core s r b bytes p tr bound →
      ∃ t, exec (.fenceDie e core) s = .next t ∧ (t.coreAt core).hold =
        (if (s.coreAt core).unretired.all (fun m => decide ((s.coreAt core).next ≤ m.index)) = true then .none else .fence 1))
    ∧ (Turn (kindFence 2) e core s r b bytes p tr bound →
      ∃ t, exec (.fenceModule e core) s = .next t ∧ (t.coreAt core).hold =
        (if (s.coreAt core).unretired.all (fun m => decide ((s.coreAt core).next ≤ m.index)) = true then .none else .fence 2)
        ∧ ((t.coreAt core).hold = .none → ∀ w ∈ (t.dieAt (coreDie core)).stage, w.core ≠ core))

/-! ## Retirement (04 R129, R137, R139, 06 R203) -/

/-- MACRO_RETIRE: a macro-instruction that nothing holds back leaves the core; its SIGNAL counts its event; its status words
gain what it counted, each field saturating; a core that retires its last entry is finished and discards its messages. One
that may not retire stays; an entry of a reused tile retires unissued (09 R325). -/
def MacrosRetire : Prop :=
  ∀ (e : Env) (core index : Nat) (r : Run) (s : State), (enter e s).run? (s.coreAt core).run = some r →
    (enter e s).dieMhz (coreDie core) ≠ 0 → core < s.cores.length →
    (∀ m, (s.coreAt core).unretired.find? (·.index = index) = some m →
      ((enter e s).mayRetire core r m = false → exec (.macroRetire e core index) s = .next (enter e s))
      ∧ ((enter e s).mayRetire core r m = true →
        ∃ t, exec (.macroRetire e core index) s = .next t
          ∧ (t.coreAt core).unretired = (s.coreAt core).unretired.filter (fun x => x.index ≠ index)
          ∧ (t.coreAt core).lastTick = ((enter e s).dieAt (coreDie core)).ticks
          ∧ (m.span = 1 → (t.coreAt core).events =
              if (macroEntry m.entry).signal then (s.coreAt core).events.set ((macroEntry m.entry).ctr % 32)
                (satAdd 32 ((s.coreAt core).events.getD ((macroEntry m.entry).ctr % 32) 0) 1)
              else (s.coreAt core).events)
          ∧ (∀ g ∈ t.seqs.runs, g.id = r.id → m.poisoned = true → g.poisoned = true)
          ∧ (∀ a gains, Canonical s → m.late = [] → m.status = [(a, gains)] → a + 16 ≤ hobTop →
              leAt (t.hobRead core a 16) 0 4 = satAdd 32 (leAt (s.hobRead core a 16) 0 4) (gains.getD 0 0)
                ∧ leAt (t.hobRead core a 16) 4 4 = satAdd 32 (leAt (s.hobRead core a 16) 4 4) (gains.getD 1 0)
                ∧ leAt (t.hobRead core a 16) 8 4 = satAdd 32 (leAt (s.hobRead core a 16) 8 4) (gains.getD 2 0)
                ∧ leAt (t.hobRead core a 16) 12 2 = satAdd 16 (leAt (s.hobRead core a 16) 12 2) (gains.getD 3 0)
                ∧ leAt (t.hobRead core a 16) 14 2 = satAdd 16 (leAt (s.hobRead core a 16) 14 2) (gains.getD 4 0)
                ∧ HobOutside core [(a, a + 16)] s t)
          ∧ ((s.coreAt core).unretired = [m] → (s.coreAt core).skip = 0 → (s.coreAt core).progLen ≤ (s.coreAt core).next →
              (t.coreAt core).finished = true ∧ (t.coreAt core).mailbox = [] ∧ (t.coreAt core).requests = [])
          ∧ KeepsBut [.mem, .cores, .ctrs, .kv, .seqs] (enter e s) t))
    ∧ ((s.coreAt core).unretired.find? (·.index = index) = none → (s.coreAt core).skip ≠ 0 → (s.coreAt core).next = index →
      ∃ t, exec (.macroRetire e core index) s = .next t ∧ (t.coreAt core).next = index + 1
        ∧ (t.coreAt core).skip = (s.coreAt core).skip - 1 ∧ SameBytes s t ∧ KeepsBut [.cores, .ctrs] (enter e s) t)

/-! ## Results in hob memory (chapters 05 to 13) -/

/-- An output in hob memory whose scale bytes, if it has any, lie apart from its data. -/
abbrev HobOut (t : Tensor) : Prop := t.module = false ∧ (t.scaled = true → meets [t.dataSpan] [t.scaleSpan] = false)

/-- Hob memory holds a piece of row `i` of an output, from element `e0` on, as `x` encodes it. -/
def Landed (t : State) (core : Nat) (out : Tensor) (i : Nat × Nat × Nat) (e0 : Nat) (x : RowOut) : Prop :=
  (∀ d ∈ x.data, t.hobRead core (out.base + out.offset i.1 i.2.1 i.2.2 + out.byteOf e0 + d.1) d.2.length = d.2)
    ∧ t.hobRead core (out.scaleAddr i.1 i.2.1 i.2.2 + e0 / out.fmt.block) x.scales.length = x.scales

/-- MOVE COPY (R241): every row of a destination in hob memory holds the source's row: its bytes where format and scales
agree, else its values converted. -/
def CopiesLand : Prop :=
  ∀ e core s r b bytes p tr bound, Turn kindCopy e core s r b bytes p tr bound → Canonical s → HobOut p.dst →
    ∃ t, exec (.copyTensor e core) s = .next t ∧ ∀ i ∈ p.dst.rows, Landed t core p.dst i 0
      (if p.unchanged then (b.rawRow (jobOf b core r (macroEntry bytes)) p.src i.1 i.2.1 i.2.2).1
       else p.dst.encode ((b.readFlame (jobOf b core r (macroEntry bytes)) p.src i.1 i.2.1 i.2.2).map Prod.fst))

/-- No access of run `r` goes to a journal's shadow, and nothing waits in the write stage of the core's die. -/
abbrev PlainMemory (b : State) (core : Nat) (r : Run) : Prop :=
  b.runJournal r = 0 ∧ (b.dieAt (coreDie core)).stage = []

/-- Row `i` of the destination of a reduction as it was, each element with the source's added exactly, in the destination's
format (R242). -/
def reduced (b : State) (j : Job) (p : MovePlan) (i : Nat × Nat × Nat) : List Byte :=
  let old := (b.readRow j p.dst i.1 i.2.1 i.2.2).elems
  let add := (b.readRow j p.src i.1 i.2.1 i.2.2).elems
  ((p.dst.encode ((List.range (p.dst.e 0)).map fun k =>
    (old.getD k Elem.zero).code.add (p.src.flame (add.getD k Elem.zero)))).data.map Prod.snd).flatten

/-- A reduction rounds each sum once, and changes no other byte of module memory. -/
def Reduces (f : Fmt) (mode : Nat) (c : Env → Nat → Instr) : Prop :=
  ∀ e core s r b bytes p tr bound, Turn (kindReduce mode f) e core s r b bytes p tr bound → Canonical s →
    PlainMemory b core r → tensorsMeet p.src p.dst = false →
    ∃ t, exec (c e core) s = .next t
      ∧ (∀ i ∈ p.dst.rows, cellGetN t.mem.cells (memKey r.partition (p.dst.base + p.dst.offset i.1 i.2.1 i.2.2))
          p.dst.rowBytes = reduced b (jobOf b core r (macroEntry bytes)) p i)
      ∧ ∀ k, (∀ i ∈ p.dst.rows, k < memKey r.partition (p.dst.base + p.dst.offset i.1 i.2.1 i.2.2)
            ∨ memKey r.partition (p.dst.base + p.dst.offset i.1 i.2.1 i.2.2) + p.dst.rowBytes ≤ k) →
          cellGet t.mem.cells k = cellGet s.mem.cells k

/-- MOVE REDUCE_FP32 and REDUCE_BF16 (R242): the destination holds the sums, each rounded once, and no other byte of module
memory changes. -/
def ReductionsLand : Prop := Reduces .fp32 1 Instr.reduceFp32 ∧ Reduces .bf16 2 Instr.reduceBf16

/-- MOVE ATOMIC (R243): the word holds the result of its operation on the word before, which goes to the results, and no
other byte of module memory changes. -/
def AtomicsLand : Prop :=
  ∀ e core s r b bytes p tr bound x, Turn kindAtomic e core s r b bytes p tr bound → Canonical s → PlainMemory b core r →
    p.entries = [x] →
    ∃ t, exec (.atomic e core) s = .next t
      ∧ cellGetN t.mem.cells (memKey r.partition x.va) x.width
          = leBytes x.width (x.apply (leNat (cellGetN s.mem.cells (memKey r.partition x.va) x.width)))
      ∧ (p.results ≠ absent →
          t.hobRead core p.results 8 = leBytes 8 (leNat (cellGetN s.mem.cells (memKey r.partition x.va) x.width)))
      ∧ ∀ k, k < memKey r.partition x.va ∨ memKey r.partition x.va + x.width ≤ k →
          cellGet t.mem.cells k = cellGet s.mem.cells k

/-- The row of an input that row `i` of an output uses. -/
def eltInput (b : State) (j : Job) (p : EltPlan) (i : Nat × Nat × Nat) (k : Nat) : Option (Tensor × Row) :=
  (p.ins.getD k none).map fun t => (t, b.readRow j t (t.at_ 1 i.1) (t.at_ 2 i.2.1) (t.at_ 3 i.2.2))

/-- ELTWISE (R364, R365): each element is PRE of the inputs, scaled, through the function, scaled, and through POST. -/
def EltwiseLands : Prop :=
  ∀ e core s r b bytes p tr bound, Turn kindElt e core s r b bytes p tr bound → Canonical s → HobOut p.out →
    bound.find? (·.2) = none →
    ∃ t, exec (.eltwise e core) s = .next t ∧ ∀ i ∈ p.out.rows, Landed t core p.out i 0
      (p.out.encode ((List.range (p.out.e 0)).map fun k =>
        p.fn.apply ((b.coreAt core).evalFn ((bound.map Prod.fst).headD 0) p.fn.func)
          (inputAt (eltInput b (jobOf b core r (macroEntry bytes)) p i 0) k)
          (inputAt (eltInput b (jobOf b core r (macroEntry bytes)) p i 1) k)
          (inputAt (eltInput b (jobOf b core r (macroEntry bytes)) p i 2) k)))

/-- ROWSTAT (R375 to R377): each row of the output is the statistic of the scaled row of the input; the value over no
elements at all is free. -/
def RowstatLands : Prop :=
  ∀ e core s r b bytes p tr bound, Turn kindStat e core s r b bytes p tr bound → Canonical s → HobOut p.out →
    ∃ t n, exec (.rowstat e core) s = .next t ∧ ∀ i ∈ p.out.rows, Landed t core p.out i 0
      (p.out.encode (statOf p.stat n ((b.readFlame (jobOf b core r (macroEntry bytes)) p.input i.1 i.2.1 i.2.2).map
        fun x => mul32 x.1 p.inScale)))

/-- The weights of a NORM: those of its tensor, with 1 added where the descriptor asks for it, or 1 (or 2) throughout. -/
def normWeights (b : State) (j : Job) (p : NormPlan) : List FVal :=
  (List.range p.group).map fun k =>
    match p.weights with
    | some t =>
      let x := t.flame ((b.readRow j t 0 0 0).elems.getD k Elem.zero)
      if p.plusOne then add32 (.fin false 1) x else x
    | none => FVal.fin false (if p.plusOne then 2 else 1)

/-- NORM (R378, R379): each group of a row is divided by the root of its mean square, and weighted. -/
def NormLands : Prop :=
  ∀ e core s r b bytes p tr bound, Turn kindNorm e core s r b bytes p tr bound → Canonical s → HobOut p.out →
    ∃ t, exec (.norm e core) s = .next t ∧ ∀ i ∈ p.out.rows, Landed t core p.out i 0
      (p.out.encode (((pieces p.group (b.readFlame (jobOf b core r (macroEntry bytes)) p.input i.1 i.2.1 i.2.2)).map fun g =>
        normGroup p.epsilon (g.map Prod.fst) (normWeights b (jobOf b core r (macroEntry bytes)) p)).flatten))

/-- PRELOAD with its table in a bank already does nothing more (R366, R370). -/
def PreloadDone : Prop :=
  ∀ e core s r b bytes p tr bound, Turn kindPreload e core s r b bytes p tr bound → bound.find? (·.2) = none →
    ∃ t m, exec (.preload e core) s = .next t ∧ Joined kindPreload core b t bytes p m ∧ m.pending = .none
      ∧ (t.coreAt core).banks = (s.coreAt core).banks ∧ SameBytes s t

/-- FLAME_TABLE_LOAD (R369 to R372): a table without a failure makes its bank valid, and a PRELOAD that waits for it is
done; a table that fails empties every bank that loads, and ends the launch at the macro-instruction that waits. -/
def TablesLoad : Prop :=
  ∀ (e : Env) (core i : Nat) (r : Run) (m : Macro) (k : Bank) (s : State), (enter e s).run? (s.coreAt core).run = some r →
    (s.coreAt core).unretired.find? (fun m => match m.pending with | .table _ => true | _ => false) = some m →
    m.pending = .table i → (enter e s).dieMhz (coreDie core) ≠ 0 → (s.coreAt core).banks[i]? = some k →
    (tableStop k.table = none →
      ∃ t, exec (.flameTableLoad e core) s = .next t
        ∧ (t.coreAt core).banks = (s.coreAt core).banks.set i { k with valid := true, loading := false }
        ∧ (m.banks = [i] → (∀ x ∈ (s.coreAt core).unretired, x.index = m.index → x = m) → (macroEntry m.entry).op = 4 →
            preloads m.hob (macroEntry m.entry) = true →
            (t.coreAt core).unretired = (s.coreAt core).unretired.map (fun x =>
              if x.index = m.index then { m with pending := .none } else x)
            ∧ SameBytes s t))
    ∧ ∀ x, tableStop k.table = some x → r.fail = 0 →
      ∃ t, exec (.flameTableLoad e core) s = .next t
        ∧ (t.coreAt core).banks = (s.coreAt core).banks.map (fun b => if b.loading then Bank.reset else b)
        ∧ (∃ g ∈ t.seqs.runs, g.id = r.id ∧ g.fail = x.status ∧ g.failCause = x.cause ∧ g.failIndex = m.index)
        ∧ SameBytes s t ∧ KeepsBut [.cores, .seqs] (enter e s) t

/-- MATMUL (R170, R174, 06 R206, R207, 11 R374): every piece of a row that a tile writes holds the drained lanes of A's row
and B's rows. -/
def MatmulLands : Prop :=
  ∀ e core s r b bytes p tr bound, Turn kindMatmul e core s r b bytes p tr bound → Canonical s → HobOut p.out →
    bound.find? (·.2) = none →
    ∃ t, exec (.matmul e core) s = .next t
      ∧ ∀ i3 < p.out.e 3, ∀ i2 < p.out.e 2, ∀ x ∈ p.grid.tiles (p.out.e 1) (p.out.e 0), ∀ m ∈ x.rows,
        Landed t core p.out (m, i2, i3) x.n0 (p.out.encode (x.cols.map fun n =>
          let j := jobOf b core r (macroEntry bytes)
          let bank := (bound.map Prod.fst).headD 0
          let row := (b.readRow j p.a m i2 i3).elems
          let col := (b.readRow j p.b n (p.b.at_ 2 i2) (p.b.at_ 3 i3)).elems
          let col := match p.ember with | some y => y.main col | none => col
          p.epi.apply ((b.coreAt core).evalFn bank p.epi.func) (b.drainOf j bank (p.out.e 0) p.epi) n
            (p.scaled row (segsOf row) (segsOf col) n).2))

/-- CONV3D (R331, R340, R342): outside fuse groups and without DEPTH_TO_SPACE, every position of every tile holds the
drained lanes of what its taps gather. -/
def ConvLands : Prop :=
  ∀ e core s r b bytes p tr bound c l, Turn kindConv e core s r b bytes p tr bound → Canonical s →
    bound.find? (·.2) = none →
    p.contexts b (jobOf b core r (macroEntry bytes)) { Macro.start (jobOf b core r (macroEntry bytes)) bytes 0 0 with
      banks := bound.map Prod.fst } = [(c, l)] →
    HobOut c.mem.out → c.mem.desc.regroup ≠ 2 →
    ∃ t, exec (.conv3d e core) s = .next t ∧ ∀ x ∈ p.grid.tiles c.mem.grid c.mem.cOut,
      ∀ row ∈ pieces 32 (positions x.1.1.1 x.1.1.2 x.1.2.1.1 x.1.2.1.2 x.1.2.2.1 x.1.2.2.2), ∀ q ∈ row,
        Landed t core c.mem.out (q.2.2, q.2.1, q.1) x.2.1 (c.mem.out.encode ((List.range (x.2.2 - x.2.1)).map fun n =>
          c.drained (x.2.1 + n) (c.scaled (c.gather (c.mem.skipped row) q) (x.2.1 + n))))

/-- The append of an ATTN before it begins. -/
def untouched (p : AttnPlan) : Appending :=
  { half := p.table.half, fill := p.table.fill, frames := [], done := [], saturated := 0, bad := false }

/-- ATTN (08 R274, R276, 11 R377): it takes the snapshot of its sequence's layer; with COMMIT it reserves the frames that its
flushes take, and carries the fill and the length that it will publish; without, every row of an output in hob memory holds
the softmax of its query over the keys, visible to it, of the pages that its tile keeps, of the staging half and of its own
new keys. -/
def AttnLands : Prop :=
  ∀ e core s r b bytes p tr bound, Turn kindAttn e core s r b bytes p tr bound →
    ∃ t m, exec (.attn e core) s = .next t ∧ Joined kindAttn core b t bytes p m ∧ m.attnSeq = p.seq ∧ m.attnLayer = p.layer
      ∧ m.attnHalf = p.table.half ∧ m.attnFill = p.table.fill ∧ m.frames = p.table.pages
      ∧ (p.commit = true → p.out.empty = false → ∃ k, m.commit = some k
          ∧ k.pages = ((s.freeFrames r.partition p.seq p.binding.geometry).take p.flushes)
          ∧ k.fill = (p.table.fill + p.count) % p.P ∧ k.length = p.table.length + p.count
          ∧ ∀ f ∈ t.kv.frames, f.num ∈ k.pages → f.state = .used)
      ∧ (p.commit = false → Canonical s → HobOut p.out → p.lse = absent → meets p.writes (kindAttn.reads p) = false →
          ∀ x ∈ chunksOf p.qTile (p.query.e 1), ∀ i, x.1 ≤ i → i < x.2 → ∀ h < p.heads, ∀ g < p.group,
            let j := jobOf b core r (macroEntry bytes)
            let kept := (p.parts b (untouched p)).filter (p.keeps (qBox ((List.range (x.2 - x.1)).map fun n =>
              p.posOf (p.qBase + x.1 + n))))
            Landed t core p.out (i, h * p.group + g, 0) 0 (p.out.encode
              (p.row (h * p.group + g) (p.posOf (p.qBase + i))
                ((b.readFlame j p.query i (h * p.group + g) 0).map fun y => rne16 y.1)
                (kept.map (p.slice b j (p.head0 + h))).flatten).1))

/-- keep (08 R284) never culls a page that holds a key visible to a query of the tile. -/
def CullingSound : Prop :=
  ∀ (b : Binding) (m : Mask) (heads j first n : Nat) (qs : List Nat) (q k : Nat), j < heads → q ∈ qs → first ≤ k →
    k < first + n → m.visible { pos := q, at_ := b.coords q } { pos := k, at_ := b.coords k } j = true →
    m.keep (m.widest heads) (b.tag first n) first (qBox (qs.map fun x => { pos := x, at_ := b.coords x })) = true

/-- What a macro-instruction that has waited is carried out with. -/
def jobBack (b : State) (core : Nat) (r : Run) (m : Macro) : Job :=
  m.job core r (m.reads.any fun x => m.desc.any fun d => d.1 = x.1 && b.issueBad core r x)

/-- ATTN_HALF_RELEASE (R281): an append waits while a snapshot holds positions it would overwrite; once none does, the ATTN
is carried out and waits no longer, and writes no hob byte outside its ranges. -/
def HalfReleased : Prop :=
  ∀ (e : Env) (core : Nat) (r : Run) (m : Macro) (p : AttnPlan) (tr : Trace) (s : State), Canonical s →
    (enter e s).run? (s.coreAt core).run = some r → (s.coreAt core).unretired.find? (·.pending = .half) = some m →
    (∀ x ∈ (s.coreAt core).unretired, x.index = m.index → x = m) → (enter e s).dieMhz (coreDie core) ≠ 0 → m.attnSeq ≠ 0 →
    (readAttn m.hob (enter e s) (jobBack (enter e s) core r m)).run.run { descs := [], peeks := [] } = (.ok p, tr) →
    ((enter e s).halfHeld p m.opId = true →
      ∃ t, exec (.attnHalfRelease e core) s = .next t ∧ (t.coreAt core).unretired = (s.coreAt core).unretired
        ∧ SameBytes s t ∧ KeepsBut [.cores] (enter e s) t)
    ∧ ((enter e s).halfHeld p m.opId = false →
      ∃ t m', exec (.attnHalfRelease e core) s = .next t ∧ m'.pending = .none ∧ m'.index = m.index ∧ m'.commit = m.commit
        ∧ (t.coreAt core).unretired = (s.coreAt core).unretired.map (fun x => if x.index = m.index then m' else x)
        ∧ HobOutside core p.writes s t ∧ KeepsBut (.kv :: workParts) (enter e s) t)

/-- UPDATE (13 R414 to R418): without preconditioning, with its state in hob memory and apart, every row of weights holds
the codes h and q of the weights that R416 gives, and every row of a first moment its new value. -/
def UpdateLands : Prop :=
  ∀ e core s r b bytes p tr bound, Turn kindUpdate e core s r b bytes p tr bound → Canonical s → p.roots = none →
    p.h.module = false → p.q.module = false →
    meets p.h.outSpans ((p.q :: (p.m.toList ++ p.v.toList)).map Tensor.outSpans).flatten = false →
    meets p.q.outSpans ((p.m.toList ++ p.v.toList).map Tensor.outSpans).flatten = false →
    ∃ t, exec (.updateLayer e core) s = .next t ∧ ∀ i < p.h.e 1, 0 < p.h.e 0 →
      let j := jobOf b core r (macroEntry bytes)
      let x := p.row b j 0 (p.h.e 0) i (b.readFlame j p.grad i 0 0)
      t.hobRead core (p.h.base + p.h.offset i 0 0) (2 * p.h.e 0) = packCodes 16 (x.codes.map Prod.fst)
        ∧ t.hobRead core (p.q.base + p.q.offset i 0 0) (p.h.e 0) = packCodes 8 (x.codes.map Prod.snd)
        ∧ ∀ f, p.m = some f → p.v = none → HobOut f → Landed t core f (i, 0, 0) 0 (f.encode x.m1)

/-- ROOT (13 R421 to R424): one that is not due counts itself as skipped and changes no byte; one that is counts what it
comes to, and only CONVERGED writes its output. -/
def RootsCounted : Prop :=
  ∀ e core s r b bytes p tr bound, Turn kindRoot e core s r b bytes p tr bound →
    (p.due = false → ∃ t, exec (.rootMatrix e core) s = .next t
      ∧ (t.coreAt core).rootSkipped = satAdd 8 (s.coreAt core).rootSkipped 1
      ∧ (t.coreAt core).rootConverged = (s.coreAt core).rootConverged ∧ SameBytes s t)
    ∧ ∀ o, p.due = true →
      o = p.compute ((List.range p.n).map fun i =>
        (b.readFlame (jobOf b core r (macroEntry bytes)) p.input i 0 0).map Prod.fst) →
      ∃ t m, exec (.rootMatrix e core) s = .next t ∧ Joined kindRoot core b t bytes p m
        ∧ (p.status ≠ absent → m.late = [(p.status, rootStatus o.iterations o.outcome o.residual (enc32 p.damping))])
        ∧ (t.coreAt core).rootSkipped = (s.coreAt core).rootSkipped
        ∧ (t.coreAt core).rootConverged
            = (if o.outcome = 1 then satAdd 8 (s.coreAt core).rootConverged 1 else (s.coreAt core).rootConverged)
        ∧ (t.coreAt core).rootNotConverged
            = (if o.outcome = 2 then satAdd 8 (s.coreAt core).rootNotConverged 1 else (s.coreAt core).rootNotConverged)
        ∧ (o.outcome ≠ 1 → m.status = p.out.gains Tally.none)

/-- BANKCHK (09 R323 to R325, R330): forced, or with no valid record, the tile is computed: nothing is skipped. With a valid
record of the same signature and a threshold above 0 it is reused: the entries behind it that SKIP counts are skipped. Each
outcome is counted. -/
def TilesChecked : Prop :=
  ∀ e core s r b bytes p tr bound, Turn kindBank e core s r b bytes p tr bound →
    let j := jobOf b core r (macroEntry bytes)
    let valid := (leAt (b.spaceRead j true p.record 16) 4 1).testBit 0
    let same := decide (p.signature b j = leAt (b.spaceRead j true p.record 16) 0 4)
    (p.force = true ∨ valid = false →
      ∃ t, exec (.bankchk e core) s = .next t ∧ (t.coreAt core).skip = (s.coreAt core).skip
        ∧ t.seqs.computed = satAdd 32 s.seqs.computed 1 ∧ t.seqs.reused = s.seqs.reused)
    ∧ (p.force = false → valid = true → same = true → FVal.zero.lt p.threshold = true →
      ∃ t, exec (.bankchk e core) s = .next t ∧ (t.coreAt core).skip = p.skip
        ∧ t.seqs.reused = satAdd 32 s.seqs.reused 1 ∧ t.seqs.computed = s.seqs.computed)

/-! ## Frames of memory -/

/-- The ranges in module memory, or in hob memory, of the rows and scales of outputs. -/
def rowSpans (module : Bool) (ts : List Tensor) : List Span :=
  ((ts.filter (·.module = module)).map fun t => (t.rows.map fun i =>
    (t.base + t.offset i.1 i.2.1 i.2.2, t.base + t.offset i.1 i.2.1 i.2.2 + t.rowBytes)
      :: (if t.scaled then [(t.scaleAddr i.1 i.2.1 i.2.2, t.scaleAddr i.1 i.2.1 i.2.2 + t.scaleCount)] else [])).flatten).flatten

/-- Module memory outside the ranges `ws` of partition `q` is as it was, every partition's. -/
def MemOutside (q : Nat) (ws : List Span) (s t : State) : Prop :=
  ∀ k, (∀ w ∈ ws, k < memKey q w.1 ∨ memKey q w.2 ≤ k) → cellGet t.mem.cells k = cellGet s.mem.cells k

/-- A macro-instruction of kind `k` that issues stores to the rows and scales of its outputs, to some more ranges of module
memory and of hob memory, and to nothing else. -/
def StoresOnly {P : Type} (k : Kind P) (c : Env → Nat → Instr) (outs : P → List Tensor) (more hob : P → List Span) : Prop :=
  ∀ e core s r b bytes p tr bound, Turn k e core s r b bytes p tr bound → Canonical s → PlainMemory b core r →
    bound.find? (·.2) = none →
    ∃ t, exec (c e core) s = .next t ∧ MemOutside r.partition (rowSpans true (outs p) ++ more p) s t
      ∧ HobOutside core (rowSpans false (outs p) ++ hob p) s t

/-- What moves data stores to its destination, a reduction and an atomic operation too, a message's receipt beside it; what
waits or sends stores nothing. -/
def MovesStore : Prop :=
  StoresOnly kindCopy Instr.copyTensor (fun p => [p.dst]) (fun _ => []) (fun _ => [])
    ∧ StoresOnly (kindReduce 1 .fp32) Instr.reduceFp32 (fun p => [p.dst]) (fun _ => []) (fun _ => [])
    ∧ StoresOnly (kindReduce 2 .bf16) Instr.reduceBf16 (fun p => [p.dst]) (fun _ => []) (fun _ => [])
    ∧ StoresOnly kindAtomic Instr.atomic (fun _ => []) (fun p => p.entries.map fun x => (x.va, x.va + x.width))
        (fun p => if p.results = absent then [] else [(p.results, p.results + 8 * p.entries.length)])
    ∧ StoresOnly kindRecv Instr.recv (fun _ => []) (fun _ => []) (fun p => (p.dst, p.dst + p.maxLength)
        :: (if p.receipt = absent then [] else [(p.receipt, p.receipt + 8)]))
    ∧ StoresOnly kindSend Instr.sendMsg (fun _ => []) (fun _ => []) (fun _ => [])
    ∧ StoresOnly (kindWait 0) Instr.waitCounter (fun _ => []) (fun _ => []) (fun _ => [])
    ∧ StoresOnly (kindWait 1) Instr.clusterBarrier (fun _ => []) (fun _ => []) (fun _ => [])
    ∧ StoresOnly (kindWait 2) Instr.waitMailbox (fun _ => []) (fun _ => []) (fun _ => [])
    ∧ StoresOnly (kindFence 0) Instr.fenceCore (fun _ => []) (fun _ => []) (fun _ => [])
    ∧ StoresOnly (kindFence 1) Instr.fenceDie (fun _ => []) (fun _ => []) (fun _ => [])
    ∧ StoresOnly (kindFence 2) Instr.fenceModule (fun _ => []) (fun _ => []) (fun _ => [])

/-- What computes stores to its output: CONV3D to the carries that it saves and to its fuse group's scratch besides, ATTN to
its LSE, and to memory through its appends alone, UPDATE to its weights and moments and its scratch, ROOT to its scratch,
BANKCHK to its reference and its record. -/
def WorkStores : Prop :=
  StoresOnly kindElt Instr.eltwise (fun p => [p.out]) (fun _ => []) (fun _ => [])
    ∧ StoresOnly kindPreload Instr.preload (fun _ => []) (fun _ => []) (fun _ => [])
    ∧ StoresOnly kindStat Instr.rowstat (fun p => [p.out]) (fun _ => []) (fun _ => [])
    ∧ StoresOnly kindNorm Instr.norm (fun p => [p.out]) (fun _ => []) (fun _ => [])
    ∧ StoresOnly kindMatmul Instr.matmul (fun p => [p.out]) (fun _ => []) (fun _ => [])
    ∧ StoresOnly kindConv Instr.conv3d (fun p => (p.members.getLast?.map fun m => m.out).toList
        ++ p.members.filterMap fun m => m.save) (fun _ => []) (fun p => [p.scratch])
    ∧ StoresOnly kindUpdate Instr.updateLayer (fun p => p.h :: p.q :: (p.m.toList ++ p.v.toList))
        (fun p => if p.roots.isSome then [(p.scratch, p.scratch + p.br * p.bc * 2)] else []) (fun _ => [])
    ∧ StoresOnly kindRoot Instr.rootMatrix (fun p => [p.out]) (fun p => [(p.scratch, p.scratch + 12 * p.n * p.n)]) (fun _ => [])
    ∧ StoresOnly kindBank Instr.bankchk (fun p => [p.live, p.ref]) (fun p => [(p.record, p.record + 16)]) (fun _ => [])
    ∧ ∀ e core s r b bytes p tr bound, Turn kindAttn e core s r b bytes p tr bound → Canonical s → PlainMemory b core r →
        p.commit = false →
        ∃ t, exec (.attn e core) s = .next t ∧ MemOutside r.partition [] s t
          ∧ HobOutside core (rowSpans false [p.out]
              ++ (if p.lse = absent then [] else [(p.lse, p.lse + 4 * p.heads * p.group * p.query.e 1)])) s t

/-! ## Invariants -/

/-- Memory is canonical, and the commands in flight are numbered below the next. -/
def Sound (s : State) : Prop := Canonical s ∧ Numbered s

/-- Every step keeps memory canonical and the commands in flight numbered. -/
def SoundKept : Prop := ∀ s t, Sound s → step s = .next t → Sound t

/-- Reset is sound. -/
def SoundAtReset : Prop := Sound State.reset

/-- Every step takes at most the command at the front, whatever that does. -/
def QueueConsumed : Prop := ∀ s t, step s = .next t → t.pending = s.pending.tail

/-- Media time never runs backward while an accepted command with a deadline is in flight (02 R25, its first sentence). -/
def TimeForward : Prop :=
  ∀ s t, step s = .next t →
    (∃ c ∈ t.cmds, c.contract = true ∧ ∃ d ∈ s.cmds, d.id = c.id ∧ d.contract = true) → s.clock.mt ≤ t.clock.mt

/-- The quotas and the cluster set of a partition stay fixed until PART_DESTROY (15 R471, its first sentence): no step changes
those of a partition that it keeps. -/
def PartitionsFixed : Prop :=
  ∀ s t n p q, step s = .next t → s.part? n = some p → t.part? n = some q →
    q.clusters = p.clusters ∧ q.slotQuota = p.slotQuota ∧ q.seqQuota = p.seqQuota ∧ q.windowQuota = p.windowQuota
      ∧ q.fbFloor = p.fbFloor ∧ q.fbCeiling = p.fbCeiling ∧ q.wsFloor = p.wsFloor ∧ q.wsCeiling = p.wsCeiling

end Sys2Proof.Claims

open Sys2Proof.Claims

/-- A step runs the command at the front of the queue on the queue's rest, and idles on an empty queue. The queue and
the idling are the form of the model (log entry 1). -/
def Obligations.StepTakesFront : Prop :=
  Sys2Proof.Claims.StepTakesFront

/-- Every command answers a next state: none faults and none is refused. That an operand the spec forbids has no effect
and does not stop the module is the model's choice (log entry 8). -/
def Obligations.AlwaysAnswers : Prop :=
  Sys2Proof.Claims.AlwaysAnswers

/-- Whatever a command does, a step leaves the queue's rest. The queue is the form of the model (log entry 1). -/
def Obligations.QueueConsumed : Prop :=
  Sys2Proof.Claims.QueueConsumed

/-- Every step keeps memory in its canonical form and the commands in flight numbered below the next. The canonical form
and the numbers of commands are the model's own (log entries 7 and 15). -/
def Obligations.SoundKept : Prop :=
  Sys2Proof.Claims.SoundKept

/-- After reset, memory is in its canonical form and no command is in flight. The canonical form is the model's own (log
entry 7). -/
def Obligations.SoundAtReset : Prop :=
  Sys2Proof.Claims.SoundAtReset

/-- Media time never runs backward while an accepted command with a deadline is in flight. -/
def Obligations.TimeForward : Prop :=
  Sys2Proof.Claims.TimeForward

/-- No step changes the quotas or the cluster set of a partition that it keeps. -/
def Obligations.PartitionsFixed : Prop :=
  Sys2Proof.Claims.PartitionsFixed

/-- HELLO, CAPS, BYE, NOTIFY_ACK and unknown opcodes, with what they leave alone. The moment at which a reply is stamped
within its bound is left open (log entry 4). -/
def Obligations.SessionCommands : Prop :=
  Sys2Proof.Claims.CapsAnswers ∧ Sys2Proof.Claims.ByeEnds ∧ Sys2Proof.Claims.AckEmpties ∧
    Sys2Proof.Claims.UnknownRefused ∧ Sys2Proof.Claims.HelloOpens

/-- Parameters that fail their CRC are answered with PARAM_CRC, for every opcode, and change nothing. -/
def Obligations.CrcRefused : Prop :=
  Sys2Proof.Claims.CrcRefused

/-- What precedes every opcode's own checks has no effect beyond its answer. -/
def Obligations.PacketsJudged : Prop :=
  Sys2Proof.Claims.PacketsJudged

/-- Resending, session ends, and the packets beside commands. -/
def Obligations.SessionEvents : Prop :=
  Sys2Proof.Claims.RetryResends ∧ Sys2Proof.Claims.TimeoutEnds ∧ Sys2Proof.Claims.RingExpires ∧
    Sys2Proof.Claims.ArpAnswered ∧ Sys2Proof.Claims.DiscoveryAnswered ∧ Sys2Proof.Claims.EchoAnswered ∧
    Sys2Proof.Claims.StrayPacketsDiscarded

/-- ALLOC, FREE and HINT change the allocation they name and no other, and no byte. -/
def Obligations.AllocationsChange : Prop :=
  Sys2Proof.Claims.AllocPlaces ∧ Sys2Proof.Claims.FreeRemoves ∧ Sys2Proof.Claims.MobilitySet ∧
    Sys2Proof.Claims.OwnerSet ∧ Sys2Proof.Claims.TouchSets ∧ Sys2Proof.Claims.PromoteAsks

/-- Granules that return read as zero; moves and scrubs change no byte. When granules return is read from R220 and R222
(log entry 16). -/
def Obligations.MemoryUpkeep : Prop :=
  Sys2Proof.Claims.GranulesReturn ∧ Sys2Proof.Claims.TierMoves ∧ Sys2Proof.Claims.HobScrubs ∧
    Sys2Proof.Claims.HbmScrubs

/-- Flue windows open, close and acknowledge. -/
def Obligations.WindowsChange : Prop :=
  Sys2Proof.Claims.WindowOpens ∧ Sys2Proof.Claims.WindowCloses ∧ Sys2Proof.Claims.AckTimerSends

/-- A write burst lands where its bytes belong and nowhere else; a read burst carries memory. -/
def Obligations.BurstsMove : Prop :=
  Sys2Proof.Claims.BurstWritten ∧ Sys2Proof.Claims.CreditRaised ∧ Sys2Proof.Claims.BurstSent

/-- An image is copied, checked in the order of R148, and unloaded. -/
def Obligations.ImagesLoad : Prop :=
  Sys2Proof.Claims.ImageCopied ∧ Sys2Proof.Claims.ImageChecked ∧ Sys2Proof.Claims.ImageUnloaded

/-- UNLOAD_IMAGE of an image that a sequence names is refused with STATE. -/
def Obligations.ImageNamed : Prop :=
  Sys2Proof.Claims.ImageNamed

/-- A launch waits for its boundary, starts, ends, and is reset when it stalls. -/
def Obligations.LaunchesRun : Prop :=
  Sys2Proof.Claims.LaunchWaits ∧ Sys2Proof.Claims.LaunchEnds ∧ Sys2Proof.Claims.StallResets ∧
    Sys2Proof.Claims.BoundaryActs

/-- SEQ_OPEN, REVIVE, SEQ_CLOSE, SEQ_STEP and the closing of a batch. How a decode step joins a batch is read by
inference (log entry 19). -/
def Obligations.SequencesChange : Prop :=
  Sys2Proof.Claims.SequenceOpens ∧ Sys2Proof.Claims.SequenceRevives ∧ Sys2Proof.Claims.SequenceCloses ∧
    Sys2Proof.Claims.StepJoins ∧ Sys2Proof.Claims.BatchCloses

/-- SEQ_QUERY replies with the 128-byte entry and changes nothing. -/
def Obligations.SequenceQueried : Prop :=
  Sys2Proof.Claims.SequenceQueried

/-- PT_EDIT: each operation changes the layers it names, and no other. -/
def Obligations.PagesChange : Prop :=
  Sys2Proof.Claims.SequenceBound ∧ Sys2Proof.Claims.PagesAppended ∧ Sys2Proof.Claims.PagesReplaced ∧
    Sys2Proof.Claims.PagesCut .truncate Sys2Proof.Claims.truncateCheck (fun p => arg p 16 8) ∧
    Sys2Proof.Claims.PagesCut .ptFree (Sys2Proof.Machine.editBad true fun _ _ => none) (fun _ => 0) ∧
    Sys2Proof.Claims.PagesReported ∧ Sys2Proof.Claims.FramesCarved

/-- NUM_WATCH sets the policy, the entries, or clears them. -/
def Obligations.WatchChanges : Prop :=
  Sys2Proof.Claims.PolicySet ∧ Sys2Proof.Claims.EntriesSet ∧ Sys2Proof.Claims.WatchCleared

/-- A journal opens empty; a commit publishes every shadow; an abort changes no byte. -/
def Obligations.JournalsEnd : Prop :=
  Sys2Proof.Claims.JournalOpens ∧ Sys2Proof.Claims.CommitWaits ∧ Sys2Proof.Claims.JournalAborts ∧
    Sys2Proof.Claims.CommitPublishes

/-- PART_CREATE, DAMPER_SET and the refilling of Dampers. The tokens of a new Damper are free (log entry 27), and the
instants of refilling are the multiples of 1,000 ns (log entry 17). -/
def Obligations.PartitionsChange : Prop :=
  Sys2Proof.Claims.PartitionCreated ∧ Sys2Proof.Claims.DamperChanged ∧ Sys2Proof.Claims.DampersRefill

/-- PART_DESTROY and the kinds of RESET. -/
def Obligations.PartitionsReset : Prop :=
  Sys2Proof.Claims.PartitionDestroyed ∧ Sys2Proof.Claims.CoresReset .resetCore 0 (fun k target => k = target) ∧
    Sys2Proof.Claims.CoresReset .resetCluster 1 (fun k target => Sys2Proof.Machine.coreCluster k = target) ∧
    Sys2Proof.Claims.PartitionResets ∧ Sys2Proof.Claims.PartitionDrained ∧ Sys2Proof.Claims.ModuleResetAsked

/-- CTR_CONFIG, CTR_READ and the end of a port window. -/
def Obligations.CountersChange : Prop :=
  Sys2Proof.Claims.CountersConfigured ∧ Sys2Proof.Claims.CountersRead ∧ Sys2Proof.Claims.WindowEnds

/-- CTR_FREEZE copies the counters at its stamp or at its boundary. -/
def Obligations.FreezesTaken : Prop :=
  Sys2Proof.Claims.FreezeTaken ∧ Sys2Proof.Claims.FreezeInstant

/-- Codec handles open, take pushes, code units and close. -/
def Obligations.CodecMoves : Prop :=
  Sys2Proof.Claims.CodecOpened ∧ Sys2Proof.Claims.FramesPushed ∧ Sys2Proof.Claims.CodecCloses ∧
    Sys2Proof.Claims.UnitEnds

/-- Link frames are acknowledged, replayed and counted. -/
def Obligations.FramesAnswered : Prop :=
  Sys2Proof.Claims.FramesAcknowledged ∧ Sys2Proof.Claims.FramesReplayed ∧ Sys2Proof.Claims.CreditTaken ∧
    Sys2Proof.Claims.UnknownFramesCounted ∧ Sys2Proof.Claims.CrcFailureAnswered

/-- A link falls, degrades and trains again. The reason of a lost lane lock is the model's choice (log entry 25). -/
def Obligations.LinksChange : Prop :=
  Sys2Proof.Claims.LinkLost ∧ Sys2Proof.Claims.FecCounted ∧ Sys2Proof.Claims.LinkRetrained

/-- COLL_GROUP defines a group, and COLL_POST queues its operations. -/
def Obligations.CollectivesPosted : Prop :=
  Sys2Proof.Claims.GroupDefined ∧ Sys2Proof.Claims.OperationsPosted

/-- Chunks are taken, sent and asked for again. -/
def Obligations.ChunksMove : Prop :=
  Sys2Proof.Claims.ChunkTaken ∧ Sys2Proof.Claims.ChunkSent ∧ Sys2Proof.Claims.ChunkControls

/-- Operations that fail are broken off, or retracted once released. -/
def Obligations.OperationsEnd : Prop :=
  Sys2Proof.Claims.OperationsBroken ∧ Sys2Proof.Claims.OperationsSettled

/-- Firmware is staged, verified, armed and activated. -/
def Obligations.FirmwareStaged : Prop :=
  Sys2Proof.Claims.ImageStaged ∧ Sys2Proof.Claims.ImageVerified ∧ Sys2Proof.Claims.SlotArmed ∧
    Sys2Proof.Claims.ActivationBegins

/-- The firmware relay, hop by hop. The serial number and the result reported for a hop not attempted are open (log
entry 30). -/
def Obligations.RelayMoves : Prop :=
  Sys2Proof.Claims.RelayStarts ∧ Sys2Proof.Claims.RelayTaken ∧ Sys2Proof.Claims.RelayStored ∧
    Sys2Proof.Claims.RelayReported ∧ Sys2Proof.Claims.RelayEnds

/-- Attestation quotes, and the storing of Heartwood. -/
def Obligations.KeysAndStores : Prop :=
  Sys2Proof.Claims.QuoteAsked ∧ Sys2Proof.Claims.QuoteSigned ∧ Sys2Proof.Claims.HeartwoodStored

/-- REG_READ and REG_WRITE follow each field's rule. -/
def Obligations.RegistersMove : Prop :=
  Sys2Proof.Claims.RegistersRead ∧ Sys2Proof.Claims.RegistersWritten

/-- MT_CTRL, MT_SET_SECONDS and the programming of flash. -/
def Obligations.ControlsMove : Prop :=
  Sys2Proof.Claims.TimeControlled ∧ Sys2Proof.Claims.FlashProgrammed

/-- RAP: CLAIM, RELEASE, READ and WRITE. That RELEASE by another sender is answered NOT_OWNER is the model's reading
(log entry 37). -/
def Obligations.RapMoves : Prop :=
  Sys2Proof.Claims.RapOwned ∧ Sys2Proof.Claims.RapReads ∧ Sys2Proof.Claims.RapWrites

/-- RAP acts for its owner alone. -/
def Obligations.OwnerRules : Prop :=
  Sys2Proof.Claims.OwnerRules

/-- A repeated RAP request is answered from the reply kept, and not acted on again. -/
def Obligations.RapRepeated : Prop :=
  Sys2Proof.Claims.RapRepeated

/-- What warm and power-on resets, rails and the automatic run keep and lose. LAST_CAUSE after a power-on reset is R9's
(log entry 5). -/
def Obligations.ResetsKeep : Prop :=
  Sys2Proof.Claims.WarmResets ∧ Sys2Proof.Claims.PowerOnResets ∧ Sys2Proof.Claims.RailsFollow ∧
    Sys2Proof.Claims.ResumesAlone

/-- Kindling steps 3 to 6: fuses, BIST, the core map and stacks. A record whose CRC fails leaves clear marks by the
model's reading (log entry 41). -/
def Obligations.StepsTest : Prop :=
  Sys2Proof.Claims.FusesRead ∧ Sys2Proof.Claims.CoresTested ∧ Sys2Proof.Claims.CoresEnabled ∧
    Sys2Proof.Claims.StacksTrained

/-- Kindling steps 7 to 10, and the completion of a step. That step 8 is degraded by a present link that is not UP is
the model's choice (log entry 33). -/
def Obligations.StepsTrain : Prop :=
  Sys2Proof.Claims.LinksTrained ∧ Sys2Proof.Claims.LinksChecked ∧ Sys2Proof.Claims.FirmwareBoots ∧
    Sys2Proof.Claims.FirmwareSpreads ∧ Sys2Proof.Claims.StepCompletes

/-- READY: kindling mode ends, and the port answers. When a fallback slot becomes ACTIVE is the model's reading (log
entry 34). -/
def Obligations.BecomesReady : Prop :=
  Sys2Proof.Claims.BecomesReady

/-- S2 and S3 are entered and left. The reason of the links in S3 and the live fields at an exit are the model's choices
(log entries 35 and 38). -/
def Obligations.PowerStates : Prop :=
  Sys2Proof.Claims.TargetWritten ∧ Sys2Proof.Claims.SleepEntered ∧ Sys2Proof.Claims.SleepLeft

/-- Supply episodes and thermal levels. -/
def Obligations.SupplyAndHeat : Prop :=
  Sys2Proof.Claims.RailFell ∧ Sys2Proof.Claims.RailEnded ∧ Sys2Proof.Claims.RailLost ∧
    Sys2Proof.Claims.HeatSampled ∧ Sys2Proof.Claims.HeatFell

/-- Media time follows its master, holds over and steps. Which Sync is good, and that a LOCKED counter is only slewed,
are the model's choices (log entry 14). -/
def Obligations.TimeFollows : Prop :=
  Sys2Proof.Claims.MasterChosen ∧ Sys2Proof.Claims.SyncTaken ∧ Sys2Proof.Claims.SourceLosses ∧
    Sys2Proof.Claims.StepMade

/-- PPS and frame sync pulses. -/
def Obligations.EdgesTaken : Prop :=
  Sys2Proof.Claims.EdgeTaken ∧ Sys2Proof.Claims.FrameSynced ∧ Sys2Proof.Claims.FrameSyncReported

/-- The I3C target. What R599 leaves to MIPI is presumed (log entry 40). -/
def Obligations.BusMoves : Prop :=
  Sys2Proof.Claims.AddressTaken ∧ Sys2Proof.Claims.TargetRead ∧ Sys2Proof.Claims.InterruptsAllowed ∧
    Sys2Proof.Claims.OtherCodesRefused ∧ Sys2Proof.Claims.ManagementMoved

/-- Every kind of macro-instruction issues at its turn, whatever its operands. -/
def Obligations.EntriesIssue : Prop :=
  Sys2Proof.Claims.ControlIssues ∧ Sys2Proof.Claims.MovesIssue ∧ Sys2Proof.Claims.FlameIssues ∧
    Sys2Proof.Claims.ArrayIssues ∧ Sys2Proof.Claims.UpdatesIssue

/-- A hazard holds an entry at issue; a failing check ends its launch there. -/
def Obligations.EntriesHeld : Prop :=
  Sys2Proof.Claims.HazardsHold ∧ Sys2Proof.Claims.BadEntriesEnd

/-- SEND, RECV and the granting of mailbox slots. -/
def Obligations.MessagesMove : Prop :=
  Sys2Proof.Claims.MessagesSent ∧ Sys2Proof.Claims.MessagesReceived ∧ Sys2Proof.Claims.SlotsGranted

/-- WAIT and FENCE hold issue; retirement signals, counts and finishes. -/
def Obligations.EntriesRetire : Prop :=
  Sys2Proof.Claims.WaitsEntered ∧ Sys2Proof.Claims.WaitsEnd ∧ Sys2Proof.Claims.FencesEntered ∧
    Sys2Proof.Claims.MacrosRetire

/-- MOVE: the destination holds what its mode says. -/
def Obligations.MovesLand : Prop :=
  Sys2Proof.Claims.CopiesLand ∧ Sys2Proof.Claims.ReductionsLand ∧ Sys2Proof.Claims.AtomicsLand

/-- ELTWISE, ROWSTAT, NORM and custom tables. The results of the functions within their bounds, and a statistic over no
elements, are free. -/
def Obligations.FlameLands : Prop :=
  Sys2Proof.Claims.EltwiseLands ∧ Sys2Proof.Claims.RowstatLands ∧ Sys2Proof.Claims.NormLands ∧
    Sys2Proof.Claims.PreloadDone ∧ Sys2Proof.Claims.TablesLoad

/-- MATMUL and CONV3D: every output holds its drained lanes. -/
def Obligations.ArrayLands : Prop :=
  Sys2Proof.Claims.MatmulLands ∧ Sys2Proof.Claims.ConvLands

/-- ATTN: softmax over the visible keys, sound culling, and appends that wait. -/
def Obligations.AttentionLands : Prop :=
  Sys2Proof.Claims.AttnLands ∧ Sys2Proof.Claims.CullingSound ∧ Sys2Proof.Claims.HalfReleased

/-- UPDATE, ROOT and BANKCHK. -/
def Obligations.UpdatesLand : Prop :=
  Sys2Proof.Claims.UpdateLands ∧ Sys2Proof.Claims.RootsCounted ∧ Sys2Proof.Claims.TilesChecked

/-- No macro-instruction that issues changes a byte outside what it stores to. Read one byte at a time, with no journal
open and nothing in the die's write stage. -/
def Obligations.StoresBounded : Prop :=
  Sys2Proof.Claims.MovesStore ∧ Sys2Proof.Claims.WorkStores
end

