-- ==== Sys2Proof/Laws/Cells.lean ====
section
/-! SUPPORT. The laws of memory: every operation on cells keeps the canonical form, a read after a write gives the value
written, and every other key reads as before. -/

namespace Sys2Proof.Machine

/-- The canonical form, said of all cells at once. -/
theorem cellsWf_iff (cs : List Host.Cell) :
    cellsWf cs = true ↔ cs.Pairwise (fun a b => a.1 < b.1) ∧ ∀ c ∈ cs, c.2 ≠ 0 := by
  induction cs with
  | nil => simp [cellsWf]
  | cons c cs ih =>
    obtain ⟨a, b⟩ := c
    cases cs with
    | nil => simp [cellsWf]
    | cons d ds =>
      obtain ⟨a', b'⟩ := d
      simp only [cellsWf, Bool.and_eq_true, decide_eq_true_eq, ih]
      constructor
      · rintro ⟨⟨h0, h1⟩, h2, h3⟩
        have h4 := (List.pairwise_cons.mp h2).1
        refine ⟨List.pairwise_cons.mpr ⟨?_, h2⟩, ?_⟩
        · intro x hx
          rcases List.mem_cons.mp hx with rfl | hx
          · exact h1
          · exact Nat.lt_trans h1 (h4 x hx)
        · intro x hx
          rcases List.mem_cons.mp hx with rfl | hx
          · exact h0
          · exact h3 x hx
      · rintro ⟨h1, h2⟩
        exact ⟨⟨h2 (a, b) (by simp), List.rel_of_pairwise_cons h1 (a' := (a', b')) (by simp)⟩, (List.pairwise_cons.mp h1).2,
          fun x hx => h2 x (List.mem_cons_of_mem _ hx)⟩

/-- A key below every listed one reads as zero. -/
theorem cellGet_below {cs : List Host.Cell} {k : Nat} (h : ∀ c ∈ cs, k < c.1) : cellGet cs k = 0 := by
  induction cs with
  | nil => rfl
  | cons c cs ih =>
    obtain ⟨a, b⟩ := c
    have := h (a, b) (by simp)
    simp only [cellGet]
    rw [if_neg (by simp at this; omega)]
    exact ih fun x hx => h x (List.mem_cons_of_mem _ hx)

/-- The keys listed after a write are those listed before it, and the one written. -/
theorem mem_cellSet {cs : List Host.Cell} {k : Nat} {v : Byte} {c : Host.Cell} (h : c ∈ cellSet cs k v) :
    c = (k, v) ∧ v ≠ 0 ∨ c ∈ cs := by
  induction cs with
  | nil =>
    unfold cellSet at h
    split at h <;> simp_all
  | cons d ds ih =>
    obtain ⟨a, b⟩ := d
    unfold cellSet at h
    split at h
    · split at h <;> simp_all
    · split at h
      · split at h <;> simp_all
        rcases h with h | h <;> simp_all
      · rcases List.mem_cons.mp h with rfl | h
        · exact .inr (by simp)
        · rcases ih h with h | h
          · exact .inl h
          · exact .inr (List.mem_cons_of_mem _ h)

/-- Writing one byte keeps the canonical form. -/
theorem cellSet_wf {cs : List Host.Cell} (k : Nat) (v : Byte) (h : cellsWf cs = true) : cellsWf (cellSet cs k v) = true := by
  rw [cellsWf_iff] at *
  obtain ⟨hp, hz⟩ := h
  refine ⟨?_, fun c hc => ?_⟩
  · induction cs with
    | nil => unfold cellSet; split <;> simp
    | cons d ds ih =>
      obtain ⟨a, b⟩ := d
      obtain ⟨h1, h2⟩ := List.pairwise_cons.mp hp
      have h3 := ih h2 fun x hx => hz x (List.mem_cons_of_mem _ hx)
      unfold cellSet
      split
      · split
        · exact hp
        · refine List.pairwise_cons.mpr ⟨fun x hx => ?_, hp⟩
          rcases List.mem_cons.mp hx with rfl | hx
          · assumption
          · exact Nat.lt_trans ‹k < a› (h1 x hx)
      · split
        · split
          · exact h2
          · subst_vars
            exact List.pairwise_cons.mpr ⟨h1, h2⟩
        · refine List.pairwise_cons.mpr ⟨fun x hx => ?_, h3⟩
          rcases mem_cellSet hx with ⟨rfl, _⟩ | hx
          · show a < k; omega
          · exact h1 x hx
  · rcases mem_cellSet hc with ⟨rfl, h⟩ | h
    · exact h
    · exact hz c h

/-- A read after a write to the same key gives the byte written. -/
theorem cellGet_cellSet_self {cs : List Host.Cell} (k : Nat) (v : Byte) (h : cellsWf cs = true) :
    cellGet (cellSet cs k v) k = v := by
  rw [cellsWf_iff] at h
  obtain ⟨hp, -⟩ := h
  induction cs with
  | nil => unfold cellSet; split <;> simp_all [cellGet]
  | cons d ds ih =>
    obtain ⟨a, b⟩ := d
    obtain ⟨h1, h2⟩ := List.pairwise_cons.mp hp
    unfold cellSet
    split
    · split
      · rw [cellGet_below, ‹v = 0›]
        intro c hc
        rcases List.mem_cons.mp hc with rfl | hc
        · assumption
        · exact Nat.lt_trans ‹k < a› (h1 c hc)
      · simp [cellGet]
    · split
      · split
        · subst_vars
          rw [cellGet_below h1]
        · simp [cellGet]
      · simp only [cellGet]
        rw [if_neg (by omega)]
        exact ih h2

/-- A write leaves every other key as it was. -/
theorem cellGet_cellSet_ne (cs : List Host.Cell) {k j : Nat} (v : Byte) (h : j ≠ k) :
    cellGet (cellSet cs k v) j = cellGet cs j := by
  induction cs with
  | nil => unfold cellSet; split <;> simp [cellGet, Ne.symm h]
  | cons d ds ih =>
    obtain ⟨a, b⟩ := d
    unfold cellSet
    split
    · split
      · rfl
      · simp [cellGet, Ne.symm h]
    · split
      · split
        · subst_vars
          simp [cellGet, Ne.symm h]
        · subst_vars
          simp [cellGet, Ne.symm h]
      · simp only [cellGet, ih]

/-- Writing bytes keeps the canonical form. -/
theorem cellSetN_wf {cs : List Host.Cell} (k : Nat) (bs : List Byte) (h : cellsWf cs = true) :
    cellsWf (cellSetN cs k bs) = true := by
  induction bs generalizing cs k with
  | nil => exact h
  | cons b bs ih => exact ih _ (cellSet_wf k b h)

/-- A write of bytes leaves every key outside them as it was. -/
theorem cellGet_cellSetN_out (cs : List Host.Cell) {k j : Nat} (bs : List Byte) (h : j < k ∨ k + bs.length ≤ j) :
    cellGet (cellSetN cs k bs) j = cellGet cs j := by
  induction bs generalizing cs k with
  | nil => rfl
  | cons b bs ih =>
    simp only [List.length_cons] at h
    show cellGet (cellSetN (cellSet cs k b) (k + 1) bs) j = _
    rw [ih _ (by omega), cellGet_cellSet_ne _ _ (by omega)]

/-- A read of a byte just written gives it. -/
theorem cellGet_cellSetN_in {cs : List Host.Cell} (k : Nat) (bs : List Byte) (h : cellsWf cs = true) (i : Nat) (hi : i < bs.length) :
    cellGet (cellSetN cs k bs) (k + i) = bs[i] := by
  induction bs generalizing cs k i with
  | nil => simp at hi
  | cons b bs ih =>
    show cellGet (cellSetN (cellSet cs k b) (k + 1) bs) (k + i) = _
    cases i with
    | zero => rw [cellGet_cellSetN_out _ _ (by omega)]; exact cellGet_cellSet_self k b h
    | succ i =>
      have := ih (k + 1) (cellSet_wf k b h) i (by simpa using hi)
      rw [Nat.add_assoc, Nat.add_comm 1 i] at this
      simpa using this

/-- Leaving out cells keeps the canonical form. -/
theorem filter_wf {cs : List Host.Cell} (p : Host.Cell → Bool) (h : cellsWf cs = true) : cellsWf (cs.filter p) = true := by
  rw [cellsWf_iff] at *
  exact ⟨h.1.filter p, fun c hc => h.2 c ((List.mem_filter.mp hc).1)⟩

/-- Forgetting a range keeps the canonical form. -/
theorem cellClear_wf {cs : List Host.Cell} (lo hi : Nat) (h : cellsWf cs = true) : cellsWf (cellClear cs lo hi) = true :=
  filter_wf _ h

/-- A read through a filter on keys: zero where the key is left out. -/
theorem cellGet_filter (cs : List Host.Cell) (p : Nat → Bool) (k : Nat) :
    cellGet (cs.filter fun c => p c.1) k = if p k then cellGet cs k else 0 := by
  induction cs with
  | nil => simp [cellGet]
  | cons d ds ih =>
    obtain ⟨a, b⟩ := d
    by_cases ha : a = k
    · subst ha
      by_cases hp : p a = true <;> simp [hp, cellGet] at *
      simpa [hp] using ih
    · by_cases hp : p a = true <;> simp [hp, cellGet, ha, ih]

/-- A range that is forgotten reads as zero, and every other key as before. -/
theorem cellGet_cellClear (cs : List Host.Cell) (lo hi k : Nat) :
    cellGet (cellClear cs lo hi) k = if k < lo ∨ hi ≤ k then cellGet cs k else 0 := by
  have := cellGet_filter cs (fun a => decide (a < lo) || decide (hi ≤ a)) k
  simpa [cellClear] using this

/-- The cells of a range have its keys, rising, and no zero. -/
theorem cellsOf_wf (lo : Nat) (f : Nat → Byte) (n : Nat) :
    (cellsOf lo f n).Pairwise (fun a b => a.1 < b.1) ∧ ∀ c ∈ cellsOf lo f n, c.2 ≠ 0 ∧ lo ≤ c.1 ∧ c.1 < lo + n := by
  induction n with
  | zero => simp [cellsOf]
  | succ n ih =>
    unfold cellsOf
    obtain ⟨h1, h2⟩ := ih
    split
    · simp only [List.append_nil]
      exact ⟨h1, fun c hc => ⟨(h2 c hc).1, (h2 c hc).2.1, by have := (h2 c hc).2.2; omega⟩⟩
    · refine ⟨List.pairwise_append.mpr ⟨h1, by simp, fun a ha b hb => ?_⟩, fun c hc => ?_⟩
      · rw [List.mem_singleton.mp hb]
        exact (h2 a ha).2.2
      · rcases List.mem_append.mp hc with hc | hc
        · exact ⟨(h2 c hc).1, (h2 c hc).2.1, by have := (h2 c hc).2.2; omega⟩
        · rw [List.mem_singleton.mp hc]
          exact ⟨‹_›, by simp⟩

/-- Filling a range keeps the canonical form. -/
theorem cellFill_wf {cs : List Host.Cell} (lo n : Nat) (f : Nat → Byte) (h : cellsWf cs = true) :
    cellsWf (cellFill cs lo n f) = true := by
  rw [cellsWf_iff] at *
  obtain ⟨h1, h2⟩ := h
  obtain ⟨h3, h4⟩ := cellsOf_wf lo f n
  unfold cellFill
  refine ⟨List.pairwise_append.mpr ⟨List.pairwise_append.mpr ⟨h1.filter _, h3, ?_⟩, h1.filter _, ?_⟩, ?_⟩
  · intro a ha b hb
    have := (List.mem_filter.mp ha).2
    have := (h4 b hb).2.1
    simp at *
    omega
  · intro a ha b hb
    have hb := (List.mem_filter.mp hb).2
    rcases List.mem_append.mp ha with ha | ha
    · have := (List.mem_filter.mp ha).2
      simp at *
      omega
    · have := (h4 a ha).2.2
      simp at *
      omega
  · intro c hc
    rcases List.mem_append.mp hc with hc | hc
    · rcases List.mem_append.mp hc with hc | hc
      · exact h2 c ((List.mem_filter.mp hc).1)
      · exact (h4 c hc).1
    · exact h2 c ((List.mem_filter.mp hc).1)

/-! ## The operations of module memory and hob memory -/

/-- A write at the home slices keeps module memory canonical. -/
theorem writeHome_wf {s : State} (q va : Nat) (bs : List Byte) (h : cellsWf s.mem.cells = true) :
    cellsWf (s.writeHome q va bs).mem.cells = true := cellSetN_wf _ _ h

/-- A write at the home slices leaves hob memory alone. -/
@[simp] theorem writeHome_hob (s : State) (q va : Nat) (bs : List Byte) : (s.writeHome q va bs).mem.hob = s.mem.hob := rfl

/-- A write at the home slices changes no key outside its bytes. -/
theorem writeHome_out (s : State) (q va : Nat) (bs : List Byte) {k : Nat} (h : k < memKey q va ∨ memKey q va + bs.length ≤ k) :
    cellGet (s.writeHome q va bs).mem.cells k = cellGet s.mem.cells k := cellGet_cellSetN_out _ _ h

/-- A write of hob memory keeps it canonical. -/
theorem hobWrite_wf {s : State} (core a : Nat) (bs : List Byte) (h : cellsWf s.mem.hob = true) :
    cellsWf (s.hobWrite core a bs).mem.hob = true := by
  unfold State.hobWrite
  split
  · exact h
  · exact cellSetN_wf _ _ h

/-- A write of hob memory leaves module memory alone. -/
@[simp] theorem hobWrite_cells (s : State) (core a : Nat) (bs : List Byte) : (s.hobWrite core a bs).mem.cells = s.mem.cells := by
  unfold State.hobWrite
  split <;> rfl

/-- A write of hob memory changes no key outside its bytes. -/
theorem hobWrite_out (s : State) (core a : Nat) (bs : List Byte) {k : Nat}
    (h : k < hobKey core a ∨ hobKey core a + bs.length ≤ k) :
    cellGet (s.hobWrite core a bs).mem.hob k = cellGet s.mem.hob k := by
  unfold State.hobWrite
  split
  · rfl
  · exact cellGet_cellSetN_out _ _ h

/-- What a write of hob memory stored is what a read finds. -/
theorem hobWrite_in {s : State} (core a : Nat) (bs : List Byte) (h : cellsWf s.mem.hob = true) (i : Nat) (hi : i < bs.length) :
    cellGet (s.hobWrite core a bs).mem.hob (hobKey core a + i) = bs[i] := by
  unfold State.hobWrite
  split
  · cases bs with
    | nil => simp at hi
    | cons => simp_all
  · exact cellGet_cellSetN_in _ _ h i hi

/-- A write that reaches its home slices from a write stage keeps module memory canonical. -/
theorem landStage_wf {s : State} (w : StageWrite) (h : cellsWf s.mem.cells = true) :
    cellsWf (s.landStage w).mem.cells = true := by
  unfold State.landStage
  split <;> exact cellSetN_wf _ _ h

/-- Folding writes of single cells keeps the canonical form. -/
theorem foldl_cellSet_wf {cs : List Host.Cell} (ws : List Host.Cell) (h : cellsWf cs = true) :
    cellsWf (ws.foldl (fun cs c => cellSet cs c.1 c.2) cs) = true := by
  induction ws generalizing cs with
  | nil => exact h
  | cons w ws ih => exact ih (cellSet_wf _ _ h)

/-- Reset memory is canonical. -/
theorem reset_cells_wf : cellsWf State.reset.mem.cells = true ∧ cellsWf State.reset.mem.hob = true := by decide

end Sys2Proof.Machine
end

