-- ==== Sys2Proof/Laws/State.lean ====
section
/-! SUPPORT. One lemma per field for each plain update of the state: which part it writes, and that it leaves every
other part alone. -/

namespace Sys2Proof.Machine

variable (s : State)

/-! `setCore` writes cores -/

@[simp] theorem setCore_fuses (n : Nat) (c : CoreSt) : (s.setCore n c).fuses = s.fuses := rfl
@[simp] theorem setCore_flash (n : Nat) (c : CoreSt) : (s.setCore n c).flash = s.flash := rfl
@[simp] theorem setCore_set (n : Nat) (c : CoreSt) : (s.setCore n c).set = s.set := rfl
@[simp] theorem setCore_clock (n : Nat) (c : CoreSt) : (s.setCore n c).clock = s.clock := rfl
@[simp] theorem setCore_net (n : Nat) (c : CoreSt) : (s.setCore n c).net = s.net := rfl
@[simp] theorem setCore_cmds (n : Nat) (c : CoreSt) : (s.setCore n c).cmds = s.cmds := rfl
@[simp] theorem setCore_nextCmd (n : Nat) (c : CoreSt) : (s.setCore n c).nextCmd = s.nextCmd := rfl
@[simp] theorem setCore_parts (n : Nat) (c : CoreSt) : (s.setCore n c).parts = s.parts := rfl
@[simp] theorem setCore_mem (n : Nat) (c : CoreSt) : (s.setCore n c).mem = s.mem := rfl
@[simp] theorem setCore_kv (n : Nat) (c : CoreSt) : (s.setCore n c).kv = s.kv := rfl
@[simp] theorem setCore_seqs (n : Nat) (c : CoreSt) : (s.setCore n c).seqs = s.seqs := rfl
@[simp] theorem setCore_watch (n : Nat) (c : CoreSt) : (s.setCore n c).watch = s.watch := rfl
@[simp] theorem setCore_zhevub (n : Nat) (c : CoreSt) : (s.setCore n c).zhevub = s.zhevub := rfl
@[simp] theorem setCore_codec (n : Nat) (c : CoreSt) : (s.setCore n c).codec = s.codec := rfl
@[simp] theorem setCore_boot (n : Nat) (c : CoreSt) : (s.setCore n c).boot = s.boot := rfl
@[simp] theorem setCore_fw (n : Nat) (c : CoreSt) : (s.setCore n c).fw = s.fw := rfl
@[simp] theorem setCore_ctrs (n : Nat) (c : CoreSt) : (s.setCore n c).ctrs = s.ctrs := rfl
@[simp] theorem setCore_phys (n : Nat) (c : CoreSt) : (s.setCore n c).phys = s.phys := rfl
@[simp] theorem setCore_pending (n : Nat) (c : CoreSt) : (s.setCore n c).pending = s.pending := rfl
@[simp] theorem setCore_out (n : Nat) (c : CoreSt) : (s.setCore n c).out = s.out := rfl
@[simp] theorem setCore_fresh (n : Nat) (c : CoreSt) : (s.setCore n c).fresh = s.fresh := rfl

/-! `modCore` writes cores -/

@[simp] theorem modCore_fuses (n : Nat) (f : CoreSt → CoreSt) : (s.modCore n f).fuses = s.fuses := rfl
@[simp] theorem modCore_flash (n : Nat) (f : CoreSt → CoreSt) : (s.modCore n f).flash = s.flash := rfl
@[simp] theorem modCore_set (n : Nat) (f : CoreSt → CoreSt) : (s.modCore n f).set = s.set := rfl
@[simp] theorem modCore_clock (n : Nat) (f : CoreSt → CoreSt) : (s.modCore n f).clock = s.clock := rfl
@[simp] theorem modCore_net (n : Nat) (f : CoreSt → CoreSt) : (s.modCore n f).net = s.net := rfl
@[simp] theorem modCore_cmds (n : Nat) (f : CoreSt → CoreSt) : (s.modCore n f).cmds = s.cmds := rfl
@[simp] theorem modCore_nextCmd (n : Nat) (f : CoreSt → CoreSt) : (s.modCore n f).nextCmd = s.nextCmd := rfl
@[simp] theorem modCore_parts (n : Nat) (f : CoreSt → CoreSt) : (s.modCore n f).parts = s.parts := rfl
@[simp] theorem modCore_mem (n : Nat) (f : CoreSt → CoreSt) : (s.modCore n f).mem = s.mem := rfl
@[simp] theorem modCore_kv (n : Nat) (f : CoreSt → CoreSt) : (s.modCore n f).kv = s.kv := rfl
@[simp] theorem modCore_seqs (n : Nat) (f : CoreSt → CoreSt) : (s.modCore n f).seqs = s.seqs := rfl
@[simp] theorem modCore_watch (n : Nat) (f : CoreSt → CoreSt) : (s.modCore n f).watch = s.watch := rfl
@[simp] theorem modCore_zhevub (n : Nat) (f : CoreSt → CoreSt) : (s.modCore n f).zhevub = s.zhevub := rfl
@[simp] theorem modCore_codec (n : Nat) (f : CoreSt → CoreSt) : (s.modCore n f).codec = s.codec := rfl
@[simp] theorem modCore_boot (n : Nat) (f : CoreSt → CoreSt) : (s.modCore n f).boot = s.boot := rfl
@[simp] theorem modCore_fw (n : Nat) (f : CoreSt → CoreSt) : (s.modCore n f).fw = s.fw := rfl
@[simp] theorem modCore_ctrs (n : Nat) (f : CoreSt → CoreSt) : (s.modCore n f).ctrs = s.ctrs := rfl
@[simp] theorem modCore_phys (n : Nat) (f : CoreSt → CoreSt) : (s.modCore n f).phys = s.phys := rfl
@[simp] theorem modCore_pending (n : Nat) (f : CoreSt → CoreSt) : (s.modCore n f).pending = s.pending := rfl
@[simp] theorem modCore_out (n : Nat) (f : CoreSt → CoreSt) : (s.modCore n f).out = s.out := rfl
@[simp] theorem modCore_fresh (n : Nat) (f : CoreSt → CoreSt) : (s.modCore n f).fresh = s.fresh := rfl

/-! `modDie` writes mem -/

@[simp] theorem modDie_fuses (d : Nat) (f : Die → Die) : (s.modDie d f).fuses = s.fuses := rfl
@[simp] theorem modDie_flash (d : Nat) (f : Die → Die) : (s.modDie d f).flash = s.flash := rfl
@[simp] theorem modDie_set (d : Nat) (f : Die → Die) : (s.modDie d f).set = s.set := rfl
@[simp] theorem modDie_clock (d : Nat) (f : Die → Die) : (s.modDie d f).clock = s.clock := rfl
@[simp] theorem modDie_net (d : Nat) (f : Die → Die) : (s.modDie d f).net = s.net := rfl
@[simp] theorem modDie_cmds (d : Nat) (f : Die → Die) : (s.modDie d f).cmds = s.cmds := rfl
@[simp] theorem modDie_nextCmd (d : Nat) (f : Die → Die) : (s.modDie d f).nextCmd = s.nextCmd := rfl
@[simp] theorem modDie_parts (d : Nat) (f : Die → Die) : (s.modDie d f).parts = s.parts := rfl
@[simp] theorem modDie_cores (d : Nat) (f : Die → Die) : (s.modDie d f).cores = s.cores := rfl
@[simp] theorem modDie_kv (d : Nat) (f : Die → Die) : (s.modDie d f).kv = s.kv := rfl
@[simp] theorem modDie_seqs (d : Nat) (f : Die → Die) : (s.modDie d f).seqs = s.seqs := rfl
@[simp] theorem modDie_watch (d : Nat) (f : Die → Die) : (s.modDie d f).watch = s.watch := rfl
@[simp] theorem modDie_zhevub (d : Nat) (f : Die → Die) : (s.modDie d f).zhevub = s.zhevub := rfl
@[simp] theorem modDie_codec (d : Nat) (f : Die → Die) : (s.modDie d f).codec = s.codec := rfl
@[simp] theorem modDie_boot (d : Nat) (f : Die → Die) : (s.modDie d f).boot = s.boot := rfl
@[simp] theorem modDie_fw (d : Nat) (f : Die → Die) : (s.modDie d f).fw = s.fw := rfl
@[simp] theorem modDie_ctrs (d : Nat) (f : Die → Die) : (s.modDie d f).ctrs = s.ctrs := rfl
@[simp] theorem modDie_phys (d : Nat) (f : Die → Die) : (s.modDie d f).phys = s.phys := rfl
@[simp] theorem modDie_pending (d : Nat) (f : Die → Die) : (s.modDie d f).pending = s.pending := rfl
@[simp] theorem modDie_out (d : Nat) (f : Die → Die) : (s.modDie d f).out = s.out := rfl
@[simp] theorem modDie_fresh (d : Nat) (f : Die → Die) : (s.modDie d f).fresh = s.fresh := rfl

/-! `modStack` writes mem -/

@[simp] theorem modStack_fuses (k : Nat) (f : Stack → Stack) : (s.modStack k f).fuses = s.fuses := rfl
@[simp] theorem modStack_flash (k : Nat) (f : Stack → Stack) : (s.modStack k f).flash = s.flash := rfl
@[simp] theorem modStack_set (k : Nat) (f : Stack → Stack) : (s.modStack k f).set = s.set := rfl
@[simp] theorem modStack_clock (k : Nat) (f : Stack → Stack) : (s.modStack k f).clock = s.clock := rfl
@[simp] theorem modStack_net (k : Nat) (f : Stack → Stack) : (s.modStack k f).net = s.net := rfl
@[simp] theorem modStack_cmds (k : Nat) (f : Stack → Stack) : (s.modStack k f).cmds = s.cmds := rfl
@[simp] theorem modStack_nextCmd (k : Nat) (f : Stack → Stack) : (s.modStack k f).nextCmd = s.nextCmd := rfl
@[simp] theorem modStack_parts (k : Nat) (f : Stack → Stack) : (s.modStack k f).parts = s.parts := rfl
@[simp] theorem modStack_cores (k : Nat) (f : Stack → Stack) : (s.modStack k f).cores = s.cores := rfl
@[simp] theorem modStack_kv (k : Nat) (f : Stack → Stack) : (s.modStack k f).kv = s.kv := rfl
@[simp] theorem modStack_seqs (k : Nat) (f : Stack → Stack) : (s.modStack k f).seqs = s.seqs := rfl
@[simp] theorem modStack_watch (k : Nat) (f : Stack → Stack) : (s.modStack k f).watch = s.watch := rfl
@[simp] theorem modStack_zhevub (k : Nat) (f : Stack → Stack) : (s.modStack k f).zhevub = s.zhevub := rfl
@[simp] theorem modStack_codec (k : Nat) (f : Stack → Stack) : (s.modStack k f).codec = s.codec := rfl
@[simp] theorem modStack_boot (k : Nat) (f : Stack → Stack) : (s.modStack k f).boot = s.boot := rfl
@[simp] theorem modStack_fw (k : Nat) (f : Stack → Stack) : (s.modStack k f).fw = s.fw := rfl
@[simp] theorem modStack_ctrs (k : Nat) (f : Stack → Stack) : (s.modStack k f).ctrs = s.ctrs := rfl
@[simp] theorem modStack_phys (k : Nat) (f : Stack → Stack) : (s.modStack k f).phys = s.phys := rfl
@[simp] theorem modStack_pending (k : Nat) (f : Stack → Stack) : (s.modStack k f).pending = s.pending := rfl
@[simp] theorem modStack_out (k : Nat) (f : Stack → Stack) : (s.modStack k f).out = s.out := rfl
@[simp] theorem modStack_fresh (k : Nat) (f : Stack → Stack) : (s.modStack k f).fresh = s.fresh := rfl

/-! `modLink` writes zhevub -/

@[simp] theorem modLink_fuses (k : Nat) (f : Link → Link) : (s.modLink k f).fuses = s.fuses := rfl
@[simp] theorem modLink_flash (k : Nat) (f : Link → Link) : (s.modLink k f).flash = s.flash := rfl
@[simp] theorem modLink_set (k : Nat) (f : Link → Link) : (s.modLink k f).set = s.set := rfl
@[simp] theorem modLink_clock (k : Nat) (f : Link → Link) : (s.modLink k f).clock = s.clock := rfl
@[simp] theorem modLink_net (k : Nat) (f : Link → Link) : (s.modLink k f).net = s.net := rfl
@[simp] theorem modLink_cmds (k : Nat) (f : Link → Link) : (s.modLink k f).cmds = s.cmds := rfl
@[simp] theorem modLink_nextCmd (k : Nat) (f : Link → Link) : (s.modLink k f).nextCmd = s.nextCmd := rfl
@[simp] theorem modLink_parts (k : Nat) (f : Link → Link) : (s.modLink k f).parts = s.parts := rfl
@[simp] theorem modLink_mem (k : Nat) (f : Link → Link) : (s.modLink k f).mem = s.mem := rfl
@[simp] theorem modLink_cores (k : Nat) (f : Link → Link) : (s.modLink k f).cores = s.cores := rfl
@[simp] theorem modLink_kv (k : Nat) (f : Link → Link) : (s.modLink k f).kv = s.kv := rfl
@[simp] theorem modLink_seqs (k : Nat) (f : Link → Link) : (s.modLink k f).seqs = s.seqs := rfl
@[simp] theorem modLink_watch (k : Nat) (f : Link → Link) : (s.modLink k f).watch = s.watch := rfl
@[simp] theorem modLink_codec (k : Nat) (f : Link → Link) : (s.modLink k f).codec = s.codec := rfl
@[simp] theorem modLink_boot (k : Nat) (f : Link → Link) : (s.modLink k f).boot = s.boot := rfl
@[simp] theorem modLink_fw (k : Nat) (f : Link → Link) : (s.modLink k f).fw = s.fw := rfl
@[simp] theorem modLink_ctrs (k : Nat) (f : Link → Link) : (s.modLink k f).ctrs = s.ctrs := rfl
@[simp] theorem modLink_phys (k : Nat) (f : Link → Link) : (s.modLink k f).phys = s.phys := rfl
@[simp] theorem modLink_pending (k : Nat) (f : Link → Link) : (s.modLink k f).pending = s.pending := rfl
@[simp] theorem modLink_out (k : Nat) (f : Link → Link) : (s.modLink k f).out = s.out := rfl
@[simp] theorem modLink_fresh (k : Nat) (f : Link → Link) : (s.modLink k f).fresh = s.fresh := rfl

/-! `modPart` writes parts -/

@[simp] theorem modPart_fuses (q : Nat) (f : Partition → Partition) : (s.modPart q f).fuses = s.fuses := rfl
@[simp] theorem modPart_flash (q : Nat) (f : Partition → Partition) : (s.modPart q f).flash = s.flash := rfl
@[simp] theorem modPart_set (q : Nat) (f : Partition → Partition) : (s.modPart q f).set = s.set := rfl
@[simp] theorem modPart_clock (q : Nat) (f : Partition → Partition) : (s.modPart q f).clock = s.clock := rfl
@[simp] theorem modPart_net (q : Nat) (f : Partition → Partition) : (s.modPart q f).net = s.net := rfl
@[simp] theorem modPart_cmds (q : Nat) (f : Partition → Partition) : (s.modPart q f).cmds = s.cmds := rfl
@[simp] theorem modPart_nextCmd (q : Nat) (f : Partition → Partition) : (s.modPart q f).nextCmd = s.nextCmd := rfl
@[simp] theorem modPart_mem (q : Nat) (f : Partition → Partition) : (s.modPart q f).mem = s.mem := rfl
@[simp] theorem modPart_cores (q : Nat) (f : Partition → Partition) : (s.modPart q f).cores = s.cores := rfl
@[simp] theorem modPart_kv (q : Nat) (f : Partition → Partition) : (s.modPart q f).kv = s.kv := rfl
@[simp] theorem modPart_seqs (q : Nat) (f : Partition → Partition) : (s.modPart q f).seqs = s.seqs := rfl
@[simp] theorem modPart_watch (q : Nat) (f : Partition → Partition) : (s.modPart q f).watch = s.watch := rfl
@[simp] theorem modPart_zhevub (q : Nat) (f : Partition → Partition) : (s.modPart q f).zhevub = s.zhevub := rfl
@[simp] theorem modPart_codec (q : Nat) (f : Partition → Partition) : (s.modPart q f).codec = s.codec := rfl
@[simp] theorem modPart_boot (q : Nat) (f : Partition → Partition) : (s.modPart q f).boot = s.boot := rfl
@[simp] theorem modPart_fw (q : Nat) (f : Partition → Partition) : (s.modPart q f).fw = s.fw := rfl
@[simp] theorem modPart_ctrs (q : Nat) (f : Partition → Partition) : (s.modPart q f).ctrs = s.ctrs := rfl
@[simp] theorem modPart_phys (q : Nat) (f : Partition → Partition) : (s.modPart q f).phys = s.phys := rfl
@[simp] theorem modPart_pending (q : Nat) (f : Partition → Partition) : (s.modPart q f).pending = s.pending := rfl
@[simp] theorem modPart_out (q : Nat) (f : Partition → Partition) : (s.modPart q f).out = s.out := rfl
@[simp] theorem modPart_fresh (q : Nat) (f : Partition → Partition) : (s.modPart q f).fresh = s.fresh := rfl

/-! `modSession` writes net -/

@[simp] theorem modSession_fuses (id : Nat) (f : Session → Session) : (s.modSession id f).fuses = s.fuses := rfl
@[simp] theorem modSession_flash (id : Nat) (f : Session → Session) : (s.modSession id f).flash = s.flash := rfl
@[simp] theorem modSession_set (id : Nat) (f : Session → Session) : (s.modSession id f).set = s.set := rfl
@[simp] theorem modSession_clock (id : Nat) (f : Session → Session) : (s.modSession id f).clock = s.clock := rfl
@[simp] theorem modSession_cmds (id : Nat) (f : Session → Session) : (s.modSession id f).cmds = s.cmds := rfl
@[simp] theorem modSession_nextCmd (id : Nat) (f : Session → Session) : (s.modSession id f).nextCmd = s.nextCmd := rfl
@[simp] theorem modSession_parts (id : Nat) (f : Session → Session) : (s.modSession id f).parts = s.parts := rfl
@[simp] theorem modSession_mem (id : Nat) (f : Session → Session) : (s.modSession id f).mem = s.mem := rfl
@[simp] theorem modSession_cores (id : Nat) (f : Session → Session) : (s.modSession id f).cores = s.cores := rfl
@[simp] theorem modSession_kv (id : Nat) (f : Session → Session) : (s.modSession id f).kv = s.kv := rfl
@[simp] theorem modSession_seqs (id : Nat) (f : Session → Session) : (s.modSession id f).seqs = s.seqs := rfl
@[simp] theorem modSession_watch (id : Nat) (f : Session → Session) : (s.modSession id f).watch = s.watch := rfl
@[simp] theorem modSession_zhevub (id : Nat) (f : Session → Session) : (s.modSession id f).zhevub = s.zhevub := rfl
@[simp] theorem modSession_codec (id : Nat) (f : Session → Session) : (s.modSession id f).codec = s.codec := rfl
@[simp] theorem modSession_boot (id : Nat) (f : Session → Session) : (s.modSession id f).boot = s.boot := rfl
@[simp] theorem modSession_fw (id : Nat) (f : Session → Session) : (s.modSession id f).fw = s.fw := rfl
@[simp] theorem modSession_ctrs (id : Nat) (f : Session → Session) : (s.modSession id f).ctrs = s.ctrs := rfl
@[simp] theorem modSession_phys (id : Nat) (f : Session → Session) : (s.modSession id f).phys = s.phys := rfl
@[simp] theorem modSession_pending (id : Nat) (f : Session → Session) : (s.modSession id f).pending = s.pending := rfl
@[simp] theorem modSession_out (id : Nat) (f : Session → Session) : (s.modSession id f).out = s.out := rfl
@[simp] theorem modSession_fresh (id : Nat) (f : Session → Session) : (s.modSession id f).fresh = s.fresh := rfl

/-! `modCmd` writes cmds -/

@[simp] theorem modCmd_fuses (id : Nat) (f : Cmd → Cmd) : (s.modCmd id f).fuses = s.fuses := rfl
@[simp] theorem modCmd_flash (id : Nat) (f : Cmd → Cmd) : (s.modCmd id f).flash = s.flash := rfl
@[simp] theorem modCmd_set (id : Nat) (f : Cmd → Cmd) : (s.modCmd id f).set = s.set := rfl
@[simp] theorem modCmd_clock (id : Nat) (f : Cmd → Cmd) : (s.modCmd id f).clock = s.clock := rfl
@[simp] theorem modCmd_net (id : Nat) (f : Cmd → Cmd) : (s.modCmd id f).net = s.net := rfl
@[simp] theorem modCmd_nextCmd (id : Nat) (f : Cmd → Cmd) : (s.modCmd id f).nextCmd = s.nextCmd := rfl
@[simp] theorem modCmd_parts (id : Nat) (f : Cmd → Cmd) : (s.modCmd id f).parts = s.parts := rfl
@[simp] theorem modCmd_mem (id : Nat) (f : Cmd → Cmd) : (s.modCmd id f).mem = s.mem := rfl
@[simp] theorem modCmd_cores (id : Nat) (f : Cmd → Cmd) : (s.modCmd id f).cores = s.cores := rfl
@[simp] theorem modCmd_kv (id : Nat) (f : Cmd → Cmd) : (s.modCmd id f).kv = s.kv := rfl
@[simp] theorem modCmd_seqs (id : Nat) (f : Cmd → Cmd) : (s.modCmd id f).seqs = s.seqs := rfl
@[simp] theorem modCmd_watch (id : Nat) (f : Cmd → Cmd) : (s.modCmd id f).watch = s.watch := rfl
@[simp] theorem modCmd_zhevub (id : Nat) (f : Cmd → Cmd) : (s.modCmd id f).zhevub = s.zhevub := rfl
@[simp] theorem modCmd_codec (id : Nat) (f : Cmd → Cmd) : (s.modCmd id f).codec = s.codec := rfl
@[simp] theorem modCmd_boot (id : Nat) (f : Cmd → Cmd) : (s.modCmd id f).boot = s.boot := rfl
@[simp] theorem modCmd_fw (id : Nat) (f : Cmd → Cmd) : (s.modCmd id f).fw = s.fw := rfl
@[simp] theorem modCmd_ctrs (id : Nat) (f : Cmd → Cmd) : (s.modCmd id f).ctrs = s.ctrs := rfl
@[simp] theorem modCmd_phys (id : Nat) (f : Cmd → Cmd) : (s.modCmd id f).phys = s.phys := rfl
@[simp] theorem modCmd_pending (id : Nat) (f : Cmd → Cmd) : (s.modCmd id f).pending = s.pending := rfl
@[simp] theorem modCmd_out (id : Nat) (f : Cmd → Cmd) : (s.modCmd id f).out = s.out := rfl
@[simp] theorem modCmd_fresh (id : Nat) (f : Cmd → Cmd) : (s.modCmd id f).fresh = s.fresh := rfl

/-! `modAlloc` writes mem -/

@[simp] theorem modAlloc_fuses (h : Nat) (f : Alloc → Alloc) : (s.modAlloc h f).fuses = s.fuses := rfl
@[simp] theorem modAlloc_flash (h : Nat) (f : Alloc → Alloc) : (s.modAlloc h f).flash = s.flash := rfl
@[simp] theorem modAlloc_set (h : Nat) (f : Alloc → Alloc) : (s.modAlloc h f).set = s.set := rfl
@[simp] theorem modAlloc_clock (h : Nat) (f : Alloc → Alloc) : (s.modAlloc h f).clock = s.clock := rfl
@[simp] theorem modAlloc_net (h : Nat) (f : Alloc → Alloc) : (s.modAlloc h f).net = s.net := rfl
@[simp] theorem modAlloc_cmds (h : Nat) (f : Alloc → Alloc) : (s.modAlloc h f).cmds = s.cmds := rfl
@[simp] theorem modAlloc_nextCmd (h : Nat) (f : Alloc → Alloc) : (s.modAlloc h f).nextCmd = s.nextCmd := rfl
@[simp] theorem modAlloc_parts (h : Nat) (f : Alloc → Alloc) : (s.modAlloc h f).parts = s.parts := rfl
@[simp] theorem modAlloc_cores (h : Nat) (f : Alloc → Alloc) : (s.modAlloc h f).cores = s.cores := rfl
@[simp] theorem modAlloc_kv (h : Nat) (f : Alloc → Alloc) : (s.modAlloc h f).kv = s.kv := rfl
@[simp] theorem modAlloc_seqs (h : Nat) (f : Alloc → Alloc) : (s.modAlloc h f).seqs = s.seqs := rfl
@[simp] theorem modAlloc_watch (h : Nat) (f : Alloc → Alloc) : (s.modAlloc h f).watch = s.watch := rfl
@[simp] theorem modAlloc_zhevub (h : Nat) (f : Alloc → Alloc) : (s.modAlloc h f).zhevub = s.zhevub := rfl
@[simp] theorem modAlloc_codec (h : Nat) (f : Alloc → Alloc) : (s.modAlloc h f).codec = s.codec := rfl
@[simp] theorem modAlloc_boot (h : Nat) (f : Alloc → Alloc) : (s.modAlloc h f).boot = s.boot := rfl
@[simp] theorem modAlloc_fw (h : Nat) (f : Alloc → Alloc) : (s.modAlloc h f).fw = s.fw := rfl
@[simp] theorem modAlloc_ctrs (h : Nat) (f : Alloc → Alloc) : (s.modAlloc h f).ctrs = s.ctrs := rfl
@[simp] theorem modAlloc_phys (h : Nat) (f : Alloc → Alloc) : (s.modAlloc h f).phys = s.phys := rfl
@[simp] theorem modAlloc_pending (h : Nat) (f : Alloc → Alloc) : (s.modAlloc h f).pending = s.pending := rfl
@[simp] theorem modAlloc_out (h : Nat) (f : Alloc → Alloc) : (s.modAlloc h f).out = s.out := rfl
@[simp] theorem modAlloc_fresh (h : Nat) (f : Alloc → Alloc) : (s.modAlloc h f).fresh = s.fresh := rfl

/-! `modSeq` writes seqs -/

@[simp] theorem modSeq_fuses (h : Nat) (f : Seq → Seq) : (s.modSeq h f).fuses = s.fuses := rfl
@[simp] theorem modSeq_flash (h : Nat) (f : Seq → Seq) : (s.modSeq h f).flash = s.flash := rfl
@[simp] theorem modSeq_set (h : Nat) (f : Seq → Seq) : (s.modSeq h f).set = s.set := rfl
@[simp] theorem modSeq_clock (h : Nat) (f : Seq → Seq) : (s.modSeq h f).clock = s.clock := rfl
@[simp] theorem modSeq_net (h : Nat) (f : Seq → Seq) : (s.modSeq h f).net = s.net := rfl
@[simp] theorem modSeq_cmds (h : Nat) (f : Seq → Seq) : (s.modSeq h f).cmds = s.cmds := rfl
@[simp] theorem modSeq_nextCmd (h : Nat) (f : Seq → Seq) : (s.modSeq h f).nextCmd = s.nextCmd := rfl
@[simp] theorem modSeq_parts (h : Nat) (f : Seq → Seq) : (s.modSeq h f).parts = s.parts := rfl
@[simp] theorem modSeq_mem (h : Nat) (f : Seq → Seq) : (s.modSeq h f).mem = s.mem := rfl
@[simp] theorem modSeq_cores (h : Nat) (f : Seq → Seq) : (s.modSeq h f).cores = s.cores := rfl
@[simp] theorem modSeq_kv (h : Nat) (f : Seq → Seq) : (s.modSeq h f).kv = s.kv := rfl
@[simp] theorem modSeq_watch (h : Nat) (f : Seq → Seq) : (s.modSeq h f).watch = s.watch := rfl
@[simp] theorem modSeq_zhevub (h : Nat) (f : Seq → Seq) : (s.modSeq h f).zhevub = s.zhevub := rfl
@[simp] theorem modSeq_codec (h : Nat) (f : Seq → Seq) : (s.modSeq h f).codec = s.codec := rfl
@[simp] theorem modSeq_boot (h : Nat) (f : Seq → Seq) : (s.modSeq h f).boot = s.boot := rfl
@[simp] theorem modSeq_fw (h : Nat) (f : Seq → Seq) : (s.modSeq h f).fw = s.fw := rfl
@[simp] theorem modSeq_ctrs (h : Nat) (f : Seq → Seq) : (s.modSeq h f).ctrs = s.ctrs := rfl
@[simp] theorem modSeq_phys (h : Nat) (f : Seq → Seq) : (s.modSeq h f).phys = s.phys := rfl
@[simp] theorem modSeq_pending (h : Nat) (f : Seq → Seq) : (s.modSeq h f).pending = s.pending := rfl
@[simp] theorem modSeq_out (h : Nat) (f : Seq → Seq) : (s.modSeq h f).out = s.out := rfl
@[simp] theorem modSeq_fresh (h : Nat) (f : Seq → Seq) : (s.modSeq h f).fresh = s.fresh := rfl

/-! `modRun` writes seqs -/

@[simp] theorem modRun_fuses (id : Nat) (f : Run → Run) : (s.modRun id f).fuses = s.fuses := rfl
@[simp] theorem modRun_flash (id : Nat) (f : Run → Run) : (s.modRun id f).flash = s.flash := rfl
@[simp] theorem modRun_set (id : Nat) (f : Run → Run) : (s.modRun id f).set = s.set := rfl
@[simp] theorem modRun_clock (id : Nat) (f : Run → Run) : (s.modRun id f).clock = s.clock := rfl
@[simp] theorem modRun_net (id : Nat) (f : Run → Run) : (s.modRun id f).net = s.net := rfl
@[simp] theorem modRun_cmds (id : Nat) (f : Run → Run) : (s.modRun id f).cmds = s.cmds := rfl
@[simp] theorem modRun_nextCmd (id : Nat) (f : Run → Run) : (s.modRun id f).nextCmd = s.nextCmd := rfl
@[simp] theorem modRun_parts (id : Nat) (f : Run → Run) : (s.modRun id f).parts = s.parts := rfl
@[simp] theorem modRun_mem (id : Nat) (f : Run → Run) : (s.modRun id f).mem = s.mem := rfl
@[simp] theorem modRun_cores (id : Nat) (f : Run → Run) : (s.modRun id f).cores = s.cores := rfl
@[simp] theorem modRun_kv (id : Nat) (f : Run → Run) : (s.modRun id f).kv = s.kv := rfl
@[simp] theorem modRun_watch (id : Nat) (f : Run → Run) : (s.modRun id f).watch = s.watch := rfl
@[simp] theorem modRun_zhevub (id : Nat) (f : Run → Run) : (s.modRun id f).zhevub = s.zhevub := rfl
@[simp] theorem modRun_codec (id : Nat) (f : Run → Run) : (s.modRun id f).codec = s.codec := rfl
@[simp] theorem modRun_boot (id : Nat) (f : Run → Run) : (s.modRun id f).boot = s.boot := rfl
@[simp] theorem modRun_fw (id : Nat) (f : Run → Run) : (s.modRun id f).fw = s.fw := rfl
@[simp] theorem modRun_ctrs (id : Nat) (f : Run → Run) : (s.modRun id f).ctrs = s.ctrs := rfl
@[simp] theorem modRun_phys (id : Nat) (f : Run → Run) : (s.modRun id f).phys = s.phys := rfl
@[simp] theorem modRun_pending (id : Nat) (f : Run → Run) : (s.modRun id f).pending = s.pending := rfl
@[simp] theorem modRun_out (id : Nat) (f : Run → Run) : (s.modRun id f).out = s.out := rfl
@[simp] theorem modRun_fresh (id : Nat) (f : Run → Run) : (s.modRun id f).fresh = s.fresh := rfl

/-! `modMacro` writes cores -/

@[simp] theorem modMacro_fuses (n i : Nat) (f : Macro → Macro) : (s.modMacro n i f).fuses = s.fuses := rfl
@[simp] theorem modMacro_flash (n i : Nat) (f : Macro → Macro) : (s.modMacro n i f).flash = s.flash := rfl
@[simp] theorem modMacro_set (n i : Nat) (f : Macro → Macro) : (s.modMacro n i f).set = s.set := rfl
@[simp] theorem modMacro_clock (n i : Nat) (f : Macro → Macro) : (s.modMacro n i f).clock = s.clock := rfl
@[simp] theorem modMacro_net (n i : Nat) (f : Macro → Macro) : (s.modMacro n i f).net = s.net := rfl
@[simp] theorem modMacro_cmds (n i : Nat) (f : Macro → Macro) : (s.modMacro n i f).cmds = s.cmds := rfl
@[simp] theorem modMacro_nextCmd (n i : Nat) (f : Macro → Macro) : (s.modMacro n i f).nextCmd = s.nextCmd := rfl
@[simp] theorem modMacro_parts (n i : Nat) (f : Macro → Macro) : (s.modMacro n i f).parts = s.parts := rfl
@[simp] theorem modMacro_mem (n i : Nat) (f : Macro → Macro) : (s.modMacro n i f).mem = s.mem := rfl
@[simp] theorem modMacro_kv (n i : Nat) (f : Macro → Macro) : (s.modMacro n i f).kv = s.kv := rfl
@[simp] theorem modMacro_seqs (n i : Nat) (f : Macro → Macro) : (s.modMacro n i f).seqs = s.seqs := rfl
@[simp] theorem modMacro_watch (n i : Nat) (f : Macro → Macro) : (s.modMacro n i f).watch = s.watch := rfl
@[simp] theorem modMacro_zhevub (n i : Nat) (f : Macro → Macro) : (s.modMacro n i f).zhevub = s.zhevub := rfl
@[simp] theorem modMacro_codec (n i : Nat) (f : Macro → Macro) : (s.modMacro n i f).codec = s.codec := rfl
@[simp] theorem modMacro_boot (n i : Nat) (f : Macro → Macro) : (s.modMacro n i f).boot = s.boot := rfl
@[simp] theorem modMacro_fw (n i : Nat) (f : Macro → Macro) : (s.modMacro n i f).fw = s.fw := rfl
@[simp] theorem modMacro_ctrs (n i : Nat) (f : Macro → Macro) : (s.modMacro n i f).ctrs = s.ctrs := rfl
@[simp] theorem modMacro_phys (n i : Nat) (f : Macro → Macro) : (s.modMacro n i f).phys = s.phys := rfl
@[simp] theorem modMacro_pending (n i : Nat) (f : Macro → Macro) : (s.modMacro n i f).pending = s.pending := rfl
@[simp] theorem modMacro_out (n i : Nat) (f : Macro → Macro) : (s.modMacro n i f).out = s.out := rfl
@[simp] theorem modMacro_fresh (n i : Nat) (f : Macro → Macro) : (s.modMacro n i f).fresh = s.fresh := rfl

/-! `stamp` writes net -/

@[simp] theorem stamp_fuses : (s.stamp.2).fuses = s.fuses := rfl
@[simp] theorem stamp_flash : (s.stamp.2).flash = s.flash := rfl
@[simp] theorem stamp_set : (s.stamp.2).set = s.set := rfl
@[simp] theorem stamp_clock : (s.stamp.2).clock = s.clock := rfl
@[simp] theorem stamp_cmds : (s.stamp.2).cmds = s.cmds := rfl
@[simp] theorem stamp_nextCmd : (s.stamp.2).nextCmd = s.nextCmd := rfl
@[simp] theorem stamp_parts : (s.stamp.2).parts = s.parts := rfl
@[simp] theorem stamp_mem : (s.stamp.2).mem = s.mem := rfl
@[simp] theorem stamp_cores : (s.stamp.2).cores = s.cores := rfl
@[simp] theorem stamp_kv : (s.stamp.2).kv = s.kv := rfl
@[simp] theorem stamp_seqs : (s.stamp.2).seqs = s.seqs := rfl
@[simp] theorem stamp_watch : (s.stamp.2).watch = s.watch := rfl
@[simp] theorem stamp_zhevub : (s.stamp.2).zhevub = s.zhevub := rfl
@[simp] theorem stamp_codec : (s.stamp.2).codec = s.codec := rfl
@[simp] theorem stamp_boot : (s.stamp.2).boot = s.boot := rfl
@[simp] theorem stamp_fw : (s.stamp.2).fw = s.fw := rfl
@[simp] theorem stamp_ctrs : (s.stamp.2).ctrs = s.ctrs := rfl
@[simp] theorem stamp_phys : (s.stamp.2).phys = s.phys := rfl
@[simp] theorem stamp_pending : (s.stamp.2).pending = s.pending := rfl
@[simp] theorem stamp_out : (s.stamp.2).out = s.out := rfl
@[simp] theorem stamp_fresh : (s.stamp.2).fresh = s.fresh := rfl

/-! `take` writes fresh -/

@[simp] theorem take_fuses : (s.take.2).fuses = s.fuses := rfl
@[simp] theorem take_flash : (s.take.2).flash = s.flash := rfl
@[simp] theorem take_set : (s.take.2).set = s.set := rfl
@[simp] theorem take_clock : (s.take.2).clock = s.clock := rfl
@[simp] theorem take_net : (s.take.2).net = s.net := rfl
@[simp] theorem take_cmds : (s.take.2).cmds = s.cmds := rfl
@[simp] theorem take_nextCmd : (s.take.2).nextCmd = s.nextCmd := rfl
@[simp] theorem take_parts : (s.take.2).parts = s.parts := rfl
@[simp] theorem take_mem : (s.take.2).mem = s.mem := rfl
@[simp] theorem take_cores : (s.take.2).cores = s.cores := rfl
@[simp] theorem take_kv : (s.take.2).kv = s.kv := rfl
@[simp] theorem take_seqs : (s.take.2).seqs = s.seqs := rfl
@[simp] theorem take_watch : (s.take.2).watch = s.watch := rfl
@[simp] theorem take_zhevub : (s.take.2).zhevub = s.zhevub := rfl
@[simp] theorem take_codec : (s.take.2).codec = s.codec := rfl
@[simp] theorem take_boot : (s.take.2).boot = s.boot := rfl
@[simp] theorem take_fw : (s.take.2).fw = s.fw := rfl
@[simp] theorem take_ctrs : (s.take.2).ctrs = s.ctrs := rfl
@[simp] theorem take_phys : (s.take.2).phys = s.phys := rfl
@[simp] theorem take_pending : (s.take.2).pending = s.pending := rfl
@[simp] theorem take_out : (s.take.2).out = s.out := rfl

/-! `portBytes` writes ctrs -/

@[simp] theorem portBytes_fuses (n a b : Nat) : (s.portBytes n a b).fuses = s.fuses := rfl
@[simp] theorem portBytes_flash (n a b : Nat) : (s.portBytes n a b).flash = s.flash := rfl
@[simp] theorem portBytes_set (n a b : Nat) : (s.portBytes n a b).set = s.set := rfl
@[simp] theorem portBytes_clock (n a b : Nat) : (s.portBytes n a b).clock = s.clock := rfl
@[simp] theorem portBytes_net (n a b : Nat) : (s.portBytes n a b).net = s.net := rfl
@[simp] theorem portBytes_cmds (n a b : Nat) : (s.portBytes n a b).cmds = s.cmds := rfl
@[simp] theorem portBytes_nextCmd (n a b : Nat) : (s.portBytes n a b).nextCmd = s.nextCmd := rfl
@[simp] theorem portBytes_parts (n a b : Nat) : (s.portBytes n a b).parts = s.parts := rfl
@[simp] theorem portBytes_mem (n a b : Nat) : (s.portBytes n a b).mem = s.mem := rfl
@[simp] theorem portBytes_cores (n a b : Nat) : (s.portBytes n a b).cores = s.cores := rfl
@[simp] theorem portBytes_kv (n a b : Nat) : (s.portBytes n a b).kv = s.kv := rfl
@[simp] theorem portBytes_seqs (n a b : Nat) : (s.portBytes n a b).seqs = s.seqs := rfl
@[simp] theorem portBytes_watch (n a b : Nat) : (s.portBytes n a b).watch = s.watch := rfl
@[simp] theorem portBytes_zhevub (n a b : Nat) : (s.portBytes n a b).zhevub = s.zhevub := rfl
@[simp] theorem portBytes_codec (n a b : Nat) : (s.portBytes n a b).codec = s.codec := rfl
@[simp] theorem portBytes_boot (n a b : Nat) : (s.portBytes n a b).boot = s.boot := rfl
@[simp] theorem portBytes_fw (n a b : Nat) : (s.portBytes n a b).fw = s.fw := rfl
@[simp] theorem portBytes_phys (n a b : Nat) : (s.portBytes n a b).phys = s.phys := rfl
@[simp] theorem portBytes_pending (n a b : Nat) : (s.portBytes n a b).pending = s.pending := rfl
@[simp] theorem portBytes_out (n a b : Nat) : (s.portBytes n a b).out = s.out := rfl
@[simp] theorem portBytes_fresh (n a b : Nat) : (s.portBytes n a b).fresh = s.fresh := rfl

/-! `emitAll` writes ctrs, out -/

@[simp] theorem emitAll_fuses (es : List Emission) : (s.emitAll es).fuses = s.fuses := rfl
@[simp] theorem emitAll_flash (es : List Emission) : (s.emitAll es).flash = s.flash := rfl
@[simp] theorem emitAll_set (es : List Emission) : (s.emitAll es).set = s.set := rfl
@[simp] theorem emitAll_clock (es : List Emission) : (s.emitAll es).clock = s.clock := rfl
@[simp] theorem emitAll_net (es : List Emission) : (s.emitAll es).net = s.net := rfl
@[simp] theorem emitAll_cmds (es : List Emission) : (s.emitAll es).cmds = s.cmds := rfl
@[simp] theorem emitAll_nextCmd (es : List Emission) : (s.emitAll es).nextCmd = s.nextCmd := rfl
@[simp] theorem emitAll_parts (es : List Emission) : (s.emitAll es).parts = s.parts := rfl
@[simp] theorem emitAll_mem (es : List Emission) : (s.emitAll es).mem = s.mem := rfl
@[simp] theorem emitAll_cores (es : List Emission) : (s.emitAll es).cores = s.cores := rfl
@[simp] theorem emitAll_kv (es : List Emission) : (s.emitAll es).kv = s.kv := rfl
@[simp] theorem emitAll_seqs (es : List Emission) : (s.emitAll es).seqs = s.seqs := rfl
@[simp] theorem emitAll_watch (es : List Emission) : (s.emitAll es).watch = s.watch := rfl
@[simp] theorem emitAll_zhevub (es : List Emission) : (s.emitAll es).zhevub = s.zhevub := rfl
@[simp] theorem emitAll_codec (es : List Emission) : (s.emitAll es).codec = s.codec := rfl
@[simp] theorem emitAll_boot (es : List Emission) : (s.emitAll es).boot = s.boot := rfl
@[simp] theorem emitAll_fw (es : List Emission) : (s.emitAll es).fw = s.fw := rfl
@[simp] theorem emitAll_phys (es : List Emission) : (s.emitAll es).phys = s.phys := rfl
@[simp] theorem emitAll_pending (es : List Emission) : (s.emitAll es).pending = s.pending := rfl
@[simp] theorem emitAll_fresh (es : List Emission) : (s.emitAll es).fresh = s.fresh := rfl

/-! `emit` writes ctrs, out -/

@[simp] theorem emit_fuses (e : Emission) : (s.emit e).fuses = s.fuses := rfl
@[simp] theorem emit_flash (e : Emission) : (s.emit e).flash = s.flash := rfl
@[simp] theorem emit_set (e : Emission) : (s.emit e).set = s.set := rfl
@[simp] theorem emit_clock (e : Emission) : (s.emit e).clock = s.clock := rfl
@[simp] theorem emit_net (e : Emission) : (s.emit e).net = s.net := rfl
@[simp] theorem emit_cmds (e : Emission) : (s.emit e).cmds = s.cmds := rfl
@[simp] theorem emit_nextCmd (e : Emission) : (s.emit e).nextCmd = s.nextCmd := rfl
@[simp] theorem emit_parts (e : Emission) : (s.emit e).parts = s.parts := rfl
@[simp] theorem emit_mem (e : Emission) : (s.emit e).mem = s.mem := rfl
@[simp] theorem emit_cores (e : Emission) : (s.emit e).cores = s.cores := rfl
@[simp] theorem emit_kv (e : Emission) : (s.emit e).kv = s.kv := rfl
@[simp] theorem emit_seqs (e : Emission) : (s.emit e).seqs = s.seqs := rfl
@[simp] theorem emit_watch (e : Emission) : (s.emit e).watch = s.watch := rfl
@[simp] theorem emit_zhevub (e : Emission) : (s.emit e).zhevub = s.zhevub := rfl
@[simp] theorem emit_codec (e : Emission) : (s.emit e).codec = s.codec := rfl
@[simp] theorem emit_boot (e : Emission) : (s.emit e).boot = s.boot := rfl
@[simp] theorem emit_fw (e : Emission) : (s.emit e).fw = s.fw := rfl
@[simp] theorem emit_phys (e : Emission) : (s.emit e).phys = s.phys := rfl
@[simp] theorem emit_pending (e : Emission) : (s.emit e).pending = s.pending := rfl
@[simp] theorem emit_fresh (e : Emission) : (s.emit e).fresh = s.fresh := rfl

/-! `sendReply` writes ctrs, out -/

@[simp] theorem sendReply_fuses (d : Endpoint) (r : Reply) : (s.sendReply d r).fuses = s.fuses := rfl
@[simp] theorem sendReply_flash (d : Endpoint) (r : Reply) : (s.sendReply d r).flash = s.flash := rfl
@[simp] theorem sendReply_set (d : Endpoint) (r : Reply) : (s.sendReply d r).set = s.set := rfl
@[simp] theorem sendReply_clock (d : Endpoint) (r : Reply) : (s.sendReply d r).clock = s.clock := rfl
@[simp] theorem sendReply_net (d : Endpoint) (r : Reply) : (s.sendReply d r).net = s.net := rfl
@[simp] theorem sendReply_cmds (d : Endpoint) (r : Reply) : (s.sendReply d r).cmds = s.cmds := rfl
@[simp] theorem sendReply_nextCmd (d : Endpoint) (r : Reply) : (s.sendReply d r).nextCmd = s.nextCmd := rfl
@[simp] theorem sendReply_parts (d : Endpoint) (r : Reply) : (s.sendReply d r).parts = s.parts := rfl
@[simp] theorem sendReply_mem (d : Endpoint) (r : Reply) : (s.sendReply d r).mem = s.mem := rfl
@[simp] theorem sendReply_cores (d : Endpoint) (r : Reply) : (s.sendReply d r).cores = s.cores := rfl
@[simp] theorem sendReply_kv (d : Endpoint) (r : Reply) : (s.sendReply d r).kv = s.kv := rfl
@[simp] theorem sendReply_seqs (d : Endpoint) (r : Reply) : (s.sendReply d r).seqs = s.seqs := rfl
@[simp] theorem sendReply_watch (d : Endpoint) (r : Reply) : (s.sendReply d r).watch = s.watch := rfl
@[simp] theorem sendReply_zhevub (d : Endpoint) (r : Reply) : (s.sendReply d r).zhevub = s.zhevub := rfl
@[simp] theorem sendReply_codec (d : Endpoint) (r : Reply) : (s.sendReply d r).codec = s.codec := rfl
@[simp] theorem sendReply_boot (d : Endpoint) (r : Reply) : (s.sendReply d r).boot = s.boot := rfl
@[simp] theorem sendReply_fw (d : Endpoint) (r : Reply) : (s.sendReply d r).fw = s.fw := rfl
@[simp] theorem sendReply_phys (d : Endpoint) (r : Reply) : (s.sendReply d r).phys = s.phys := rfl
@[simp] theorem sendReply_pending (d : Endpoint) (r : Reply) : (s.sendReply d r).pending = s.pending := rfl
@[simp] theorem sendReply_fresh (d : Endpoint) (r : Reply) : (s.sendReply d r).fresh = s.fresh := rfl

/-! `broadcast` writes net, ctrs, out -/

@[simp] theorem broadcast_fuses (w : Session → Bool) (r : NRecord) : (s.broadcast w r).fuses = s.fuses := rfl
@[simp] theorem broadcast_flash (w : Session → Bool) (r : NRecord) : (s.broadcast w r).flash = s.flash := rfl
@[simp] theorem broadcast_set (w : Session → Bool) (r : NRecord) : (s.broadcast w r).set = s.set := rfl
@[simp] theorem broadcast_clock (w : Session → Bool) (r : NRecord) : (s.broadcast w r).clock = s.clock := rfl
@[simp] theorem broadcast_cmds (w : Session → Bool) (r : NRecord) : (s.broadcast w r).cmds = s.cmds := rfl
@[simp] theorem broadcast_nextCmd (w : Session → Bool) (r : NRecord) : (s.broadcast w r).nextCmd = s.nextCmd := rfl
@[simp] theorem broadcast_parts (w : Session → Bool) (r : NRecord) : (s.broadcast w r).parts = s.parts := rfl
@[simp] theorem broadcast_mem (w : Session → Bool) (r : NRecord) : (s.broadcast w r).mem = s.mem := rfl
@[simp] theorem broadcast_cores (w : Session → Bool) (r : NRecord) : (s.broadcast w r).cores = s.cores := rfl
@[simp] theorem broadcast_kv (w : Session → Bool) (r : NRecord) : (s.broadcast w r).kv = s.kv := rfl
@[simp] theorem broadcast_seqs (w : Session → Bool) (r : NRecord) : (s.broadcast w r).seqs = s.seqs := rfl
@[simp] theorem broadcast_watch (w : Session → Bool) (r : NRecord) : (s.broadcast w r).watch = s.watch := rfl
@[simp] theorem broadcast_zhevub (w : Session → Bool) (r : NRecord) : (s.broadcast w r).zhevub = s.zhevub := rfl
@[simp] theorem broadcast_codec (w : Session → Bool) (r : NRecord) : (s.broadcast w r).codec = s.codec := rfl
@[simp] theorem broadcast_boot (w : Session → Bool) (r : NRecord) : (s.broadcast w r).boot = s.boot := rfl
@[simp] theorem broadcast_fw (w : Session → Bool) (r : NRecord) : (s.broadcast w r).fw = s.fw := rfl
@[simp] theorem broadcast_phys (w : Session → Bool) (r : NRecord) : (s.broadcast w r).phys = s.phys := rfl
@[simp] theorem broadcast_pending (w : Session → Bool) (r : NRecord) : (s.broadcast w r).pending = s.pending := rfl
@[simp] theorem broadcast_fresh (w : Session → Bool) (r : NRecord) : (s.broadcast w r).fresh = s.fresh := rfl

/-! `raise` writes net, ctrs, out -/

@[simp] theorem raise_fuses (code part cause : Nat) (b : List Byte) : (s.raise code part cause b).fuses = s.fuses := rfl
@[simp] theorem raise_flash (code part cause : Nat) (b : List Byte) : (s.raise code part cause b).flash = s.flash := rfl
@[simp] theorem raise_set (code part cause : Nat) (b : List Byte) : (s.raise code part cause b).set = s.set := rfl
@[simp] theorem raise_clock (code part cause : Nat) (b : List Byte) : (s.raise code part cause b).clock = s.clock := rfl
@[simp] theorem raise_cmds (code part cause : Nat) (b : List Byte) : (s.raise code part cause b).cmds = s.cmds := rfl
@[simp] theorem raise_nextCmd (code part cause : Nat) (b : List Byte) : (s.raise code part cause b).nextCmd = s.nextCmd := rfl
@[simp] theorem raise_parts (code part cause : Nat) (b : List Byte) : (s.raise code part cause b).parts = s.parts := rfl
@[simp] theorem raise_mem (code part cause : Nat) (b : List Byte) : (s.raise code part cause b).mem = s.mem := rfl
@[simp] theorem raise_cores (code part cause : Nat) (b : List Byte) : (s.raise code part cause b).cores = s.cores := rfl
@[simp] theorem raise_kv (code part cause : Nat) (b : List Byte) : (s.raise code part cause b).kv = s.kv := rfl
@[simp] theorem raise_seqs (code part cause : Nat) (b : List Byte) : (s.raise code part cause b).seqs = s.seqs := rfl
@[simp] theorem raise_watch (code part cause : Nat) (b : List Byte) : (s.raise code part cause b).watch = s.watch := rfl
@[simp] theorem raise_zhevub (code part cause : Nat) (b : List Byte) : (s.raise code part cause b).zhevub = s.zhevub := rfl
@[simp] theorem raise_codec (code part cause : Nat) (b : List Byte) : (s.raise code part cause b).codec = s.codec := rfl
@[simp] theorem raise_boot (code part cause : Nat) (b : List Byte) : (s.raise code part cause b).boot = s.boot := rfl
@[simp] theorem raise_fw (code part cause : Nat) (b : List Byte) : (s.raise code part cause b).fw = s.fw := rfl
@[simp] theorem raise_phys (code part cause : Nat) (b : List Byte) : (s.raise code part cause b).phys = s.phys := rfl
@[simp] theorem raise_pending (code part cause : Nat) (b : List Byte) : (s.raise code part cause b).pending = s.pending := rfl
@[simp] theorem raise_fresh (code part cause : Nat) (b : List Byte) : (s.raise code part cause b).fresh = s.fresh := rfl

/-! `strike` writes cmds -/

@[simp] theorem strike_fuses (code member : Nat) (p : Cmd → Bool) : (s.strike code member p).fuses = s.fuses := rfl
@[simp] theorem strike_flash (code member : Nat) (p : Cmd → Bool) : (s.strike code member p).flash = s.flash := rfl
@[simp] theorem strike_set (code member : Nat) (p : Cmd → Bool) : (s.strike code member p).set = s.set := rfl
@[simp] theorem strike_clock (code member : Nat) (p : Cmd → Bool) : (s.strike code member p).clock = s.clock := rfl
@[simp] theorem strike_net (code member : Nat) (p : Cmd → Bool) : (s.strike code member p).net = s.net := rfl
@[simp] theorem strike_nextCmd (code member : Nat) (p : Cmd → Bool) : (s.strike code member p).nextCmd = s.nextCmd := rfl
@[simp] theorem strike_parts (code member : Nat) (p : Cmd → Bool) : (s.strike code member p).parts = s.parts := rfl
@[simp] theorem strike_mem (code member : Nat) (p : Cmd → Bool) : (s.strike code member p).mem = s.mem := rfl
@[simp] theorem strike_cores (code member : Nat) (p : Cmd → Bool) : (s.strike code member p).cores = s.cores := rfl
@[simp] theorem strike_kv (code member : Nat) (p : Cmd → Bool) : (s.strike code member p).kv = s.kv := rfl
@[simp] theorem strike_seqs (code member : Nat) (p : Cmd → Bool) : (s.strike code member p).seqs = s.seqs := rfl
@[simp] theorem strike_watch (code member : Nat) (p : Cmd → Bool) : (s.strike code member p).watch = s.watch := rfl
@[simp] theorem strike_zhevub (code member : Nat) (p : Cmd → Bool) : (s.strike code member p).zhevub = s.zhevub := rfl
@[simp] theorem strike_codec (code member : Nat) (p : Cmd → Bool) : (s.strike code member p).codec = s.codec := rfl
@[simp] theorem strike_boot (code member : Nat) (p : Cmd → Bool) : (s.strike code member p).boot = s.boot := rfl
@[simp] theorem strike_fw (code member : Nat) (p : Cmd → Bool) : (s.strike code member p).fw = s.fw := rfl
@[simp] theorem strike_ctrs (code member : Nat) (p : Cmd → Bool) : (s.strike code member p).ctrs = s.ctrs := rfl
@[simp] theorem strike_phys (code member : Nat) (p : Cmd → Bool) : (s.strike code member p).phys = s.phys := rfl
@[simp] theorem strike_pending (code member : Nat) (p : Cmd → Bool) : (s.strike code member p).pending = s.pending := rfl
@[simp] theorem strike_out (code member : Nat) (p : Cmd → Bool) : (s.strike code member p).out = s.out := rfl
@[simp] theorem strike_fresh (code member : Nat) (p : Cmd → Bool) : (s.strike code member p).fresh = s.fresh := rfl

/-! `touchSession` writes net -/

@[simp] theorem touchSession_fuses (id : Nat) : (s.touchSession id).fuses = s.fuses := rfl
@[simp] theorem touchSession_flash (id : Nat) : (s.touchSession id).flash = s.flash := rfl
@[simp] theorem touchSession_set (id : Nat) : (s.touchSession id).set = s.set := rfl
@[simp] theorem touchSession_clock (id : Nat) : (s.touchSession id).clock = s.clock := rfl
@[simp] theorem touchSession_cmds (id : Nat) : (s.touchSession id).cmds = s.cmds := rfl
@[simp] theorem touchSession_nextCmd (id : Nat) : (s.touchSession id).nextCmd = s.nextCmd := rfl
@[simp] theorem touchSession_parts (id : Nat) : (s.touchSession id).parts = s.parts := rfl
@[simp] theorem touchSession_mem (id : Nat) : (s.touchSession id).mem = s.mem := rfl
@[simp] theorem touchSession_cores (id : Nat) : (s.touchSession id).cores = s.cores := rfl
@[simp] theorem touchSession_kv (id : Nat) : (s.touchSession id).kv = s.kv := rfl
@[simp] theorem touchSession_seqs (id : Nat) : (s.touchSession id).seqs = s.seqs := rfl
@[simp] theorem touchSession_watch (id : Nat) : (s.touchSession id).watch = s.watch := rfl
@[simp] theorem touchSession_zhevub (id : Nat) : (s.touchSession id).zhevub = s.zhevub := rfl
@[simp] theorem touchSession_codec (id : Nat) : (s.touchSession id).codec = s.codec := rfl
@[simp] theorem touchSession_boot (id : Nat) : (s.touchSession id).boot = s.boot := rfl
@[simp] theorem touchSession_fw (id : Nat) : (s.touchSession id).fw = s.fw := rfl
@[simp] theorem touchSession_ctrs (id : Nat) : (s.touchSession id).ctrs = s.ctrs := rfl
@[simp] theorem touchSession_phys (id : Nat) : (s.touchSession id).phys = s.phys := rfl
@[simp] theorem touchSession_pending (id : Nat) : (s.touchSession id).pending = s.pending := rfl
@[simp] theorem touchSession_out (id : Nat) : (s.touchSession id).out = s.out := rfl
@[simp] theorem touchSession_fresh (id : Nat) : (s.touchSession id).fresh = s.fresh := rfl

/-! `closeWindows` writes net -/

@[simp] theorem closeWindows_fuses (p : Window → Bool) : (s.closeWindows p).fuses = s.fuses := rfl
@[simp] theorem closeWindows_flash (p : Window → Bool) : (s.closeWindows p).flash = s.flash := rfl
@[simp] theorem closeWindows_set (p : Window → Bool) : (s.closeWindows p).set = s.set := rfl
@[simp] theorem closeWindows_clock (p : Window → Bool) : (s.closeWindows p).clock = s.clock := rfl
@[simp] theorem closeWindows_cmds (p : Window → Bool) : (s.closeWindows p).cmds = s.cmds := rfl
@[simp] theorem closeWindows_nextCmd (p : Window → Bool) : (s.closeWindows p).nextCmd = s.nextCmd := rfl
@[simp] theorem closeWindows_parts (p : Window → Bool) : (s.closeWindows p).parts = s.parts := rfl
@[simp] theorem closeWindows_mem (p : Window → Bool) : (s.closeWindows p).mem = s.mem := rfl
@[simp] theorem closeWindows_cores (p : Window → Bool) : (s.closeWindows p).cores = s.cores := rfl
@[simp] theorem closeWindows_kv (p : Window → Bool) : (s.closeWindows p).kv = s.kv := rfl
@[simp] theorem closeWindows_seqs (p : Window → Bool) : (s.closeWindows p).seqs = s.seqs := rfl
@[simp] theorem closeWindows_watch (p : Window → Bool) : (s.closeWindows p).watch = s.watch := rfl
@[simp] theorem closeWindows_zhevub (p : Window → Bool) : (s.closeWindows p).zhevub = s.zhevub := rfl
@[simp] theorem closeWindows_codec (p : Window → Bool) : (s.closeWindows p).codec = s.codec := rfl
@[simp] theorem closeWindows_boot (p : Window → Bool) : (s.closeWindows p).boot = s.boot := rfl
@[simp] theorem closeWindows_fw (p : Window → Bool) : (s.closeWindows p).fw = s.fw := rfl
@[simp] theorem closeWindows_ctrs (p : Window → Bool) : (s.closeWindows p).ctrs = s.ctrs := rfl
@[simp] theorem closeWindows_phys (p : Window → Bool) : (s.closeWindows p).phys = s.phys := rfl
@[simp] theorem closeWindows_pending (p : Window → Bool) : (s.closeWindows p).pending = s.pending := rfl
@[simp] theorem closeWindows_out (p : Window → Bool) : (s.closeWindows p).out = s.out := rfl
@[simp] theorem closeWindows_fresh (p : Window → Bool) : (s.closeWindows p).fresh = s.fresh := rfl

/-! `dropSession` writes net -/

@[simp] theorem dropSession_fuses (id : Nat) : (s.dropSession id).fuses = s.fuses := rfl
@[simp] theorem dropSession_flash (id : Nat) : (s.dropSession id).flash = s.flash := rfl
@[simp] theorem dropSession_set (id : Nat) : (s.dropSession id).set = s.set := rfl
@[simp] theorem dropSession_clock (id : Nat) : (s.dropSession id).clock = s.clock := rfl
@[simp] theorem dropSession_cmds (id : Nat) : (s.dropSession id).cmds = s.cmds := rfl
@[simp] theorem dropSession_nextCmd (id : Nat) : (s.dropSession id).nextCmd = s.nextCmd := rfl
@[simp] theorem dropSession_parts (id : Nat) : (s.dropSession id).parts = s.parts := rfl
@[simp] theorem dropSession_mem (id : Nat) : (s.dropSession id).mem = s.mem := rfl
@[simp] theorem dropSession_cores (id : Nat) : (s.dropSession id).cores = s.cores := rfl
@[simp] theorem dropSession_kv (id : Nat) : (s.dropSession id).kv = s.kv := rfl
@[simp] theorem dropSession_seqs (id : Nat) : (s.dropSession id).seqs = s.seqs := rfl
@[simp] theorem dropSession_watch (id : Nat) : (s.dropSession id).watch = s.watch := rfl
@[simp] theorem dropSession_zhevub (id : Nat) : (s.dropSession id).zhevub = s.zhevub := rfl
@[simp] theorem dropSession_codec (id : Nat) : (s.dropSession id).codec = s.codec := rfl
@[simp] theorem dropSession_boot (id : Nat) : (s.dropSession id).boot = s.boot := rfl
@[simp] theorem dropSession_fw (id : Nat) : (s.dropSession id).fw = s.fw := rfl
@[simp] theorem dropSession_ctrs (id : Nat) : (s.dropSession id).ctrs = s.ctrs := rfl
@[simp] theorem dropSession_phys (id : Nat) : (s.dropSession id).phys = s.phys := rfl
@[simp] theorem dropSession_pending (id : Nat) : (s.dropSession id).pending = s.pending := rfl
@[simp] theorem dropSession_out (id : Nat) : (s.dropSession id).out = s.out := rfl
@[simp] theorem dropSession_fresh (id : Nat) : (s.dropSession id).fresh = s.fresh := rfl

/-! `endSession` writes net -/

@[simp] theorem endSession_fuses (id : Nat) : (s.endSession id).fuses = s.fuses := rfl
@[simp] theorem endSession_flash (id : Nat) : (s.endSession id).flash = s.flash := rfl
@[simp] theorem endSession_set (id : Nat) : (s.endSession id).set = s.set := rfl
@[simp] theorem endSession_clock (id : Nat) : (s.endSession id).clock = s.clock := rfl
@[simp] theorem endSession_cmds (id : Nat) : (s.endSession id).cmds = s.cmds := rfl
@[simp] theorem endSession_nextCmd (id : Nat) : (s.endSession id).nextCmd = s.nextCmd := rfl
@[simp] theorem endSession_parts (id : Nat) : (s.endSession id).parts = s.parts := rfl
@[simp] theorem endSession_mem (id : Nat) : (s.endSession id).mem = s.mem := rfl
@[simp] theorem endSession_cores (id : Nat) : (s.endSession id).cores = s.cores := rfl
@[simp] theorem endSession_kv (id : Nat) : (s.endSession id).kv = s.kv := rfl
@[simp] theorem endSession_seqs (id : Nat) : (s.endSession id).seqs = s.seqs := rfl
@[simp] theorem endSession_watch (id : Nat) : (s.endSession id).watch = s.watch := rfl
@[simp] theorem endSession_zhevub (id : Nat) : (s.endSession id).zhevub = s.zhevub := rfl
@[simp] theorem endSession_codec (id : Nat) : (s.endSession id).codec = s.codec := rfl
@[simp] theorem endSession_boot (id : Nat) : (s.endSession id).boot = s.boot := rfl
@[simp] theorem endSession_fw (id : Nat) : (s.endSession id).fw = s.fw := rfl
@[simp] theorem endSession_ctrs (id : Nat) : (s.endSession id).ctrs = s.ctrs := rfl
@[simp] theorem endSession_phys (id : Nat) : (s.endSession id).phys = s.phys := rfl
@[simp] theorem endSession_pending (id : Nat) : (s.endSession id).pending = s.pending := rfl
@[simp] theorem endSession_out (id : Nat) : (s.endSession id).out = s.out := rfl
@[simp] theorem endSession_fresh (id : Nat) : (s.endSession id).fresh = s.fresh := rfl

/-! `leaveFields` writes clock, boot, ctrs -/

@[simp] theorem leaveFields_fuses : (s.leaveFields).fuses = s.fuses := rfl
@[simp] theorem leaveFields_flash : (s.leaveFields).flash = s.flash := rfl
@[simp] theorem leaveFields_set : (s.leaveFields).set = s.set := rfl
@[simp] theorem leaveFields_net : (s.leaveFields).net = s.net := rfl
@[simp] theorem leaveFields_cmds : (s.leaveFields).cmds = s.cmds := rfl
@[simp] theorem leaveFields_nextCmd : (s.leaveFields).nextCmd = s.nextCmd := rfl
@[simp] theorem leaveFields_parts : (s.leaveFields).parts = s.parts := rfl
@[simp] theorem leaveFields_mem : (s.leaveFields).mem = s.mem := rfl
@[simp] theorem leaveFields_cores : (s.leaveFields).cores = s.cores := rfl
@[simp] theorem leaveFields_kv : (s.leaveFields).kv = s.kv := rfl
@[simp] theorem leaveFields_seqs : (s.leaveFields).seqs = s.seqs := rfl
@[simp] theorem leaveFields_watch : (s.leaveFields).watch = s.watch := rfl
@[simp] theorem leaveFields_zhevub : (s.leaveFields).zhevub = s.zhevub := rfl
@[simp] theorem leaveFields_codec : (s.leaveFields).codec = s.codec := rfl
@[simp] theorem leaveFields_fw : (s.leaveFields).fw = s.fw := rfl
@[simp] theorem leaveFields_phys : (s.leaveFields).phys = s.phys := rfl
@[simp] theorem leaveFields_pending : (s.leaveFields).pending = s.pending := rfl
@[simp] theorem leaveFields_out : (s.leaveFields).out = s.out := rfl
@[simp] theorem leaveFields_fresh : (s.leaveFields).fresh = s.fresh := rfl

/-! `modCodec` writes codec -/

@[simp] theorem modCodec_fuses (h : Nat) (f : Codec → Codec) : (s.modCodec h f).fuses = s.fuses := rfl
@[simp] theorem modCodec_flash (h : Nat) (f : Codec → Codec) : (s.modCodec h f).flash = s.flash := rfl
@[simp] theorem modCodec_set (h : Nat) (f : Codec → Codec) : (s.modCodec h f).set = s.set := rfl
@[simp] theorem modCodec_clock (h : Nat) (f : Codec → Codec) : (s.modCodec h f).clock = s.clock := rfl
@[simp] theorem modCodec_net (h : Nat) (f : Codec → Codec) : (s.modCodec h f).net = s.net := rfl
@[simp] theorem modCodec_cmds (h : Nat) (f : Codec → Codec) : (s.modCodec h f).cmds = s.cmds := rfl
@[simp] theorem modCodec_nextCmd (h : Nat) (f : Codec → Codec) : (s.modCodec h f).nextCmd = s.nextCmd := rfl
@[simp] theorem modCodec_parts (h : Nat) (f : Codec → Codec) : (s.modCodec h f).parts = s.parts := rfl
@[simp] theorem modCodec_mem (h : Nat) (f : Codec → Codec) : (s.modCodec h f).mem = s.mem := rfl
@[simp] theorem modCodec_cores (h : Nat) (f : Codec → Codec) : (s.modCodec h f).cores = s.cores := rfl
@[simp] theorem modCodec_kv (h : Nat) (f : Codec → Codec) : (s.modCodec h f).kv = s.kv := rfl
@[simp] theorem modCodec_seqs (h : Nat) (f : Codec → Codec) : (s.modCodec h f).seqs = s.seqs := rfl
@[simp] theorem modCodec_watch (h : Nat) (f : Codec → Codec) : (s.modCodec h f).watch = s.watch := rfl
@[simp] theorem modCodec_zhevub (h : Nat) (f : Codec → Codec) : (s.modCodec h f).zhevub = s.zhevub := rfl
@[simp] theorem modCodec_boot (h : Nat) (f : Codec → Codec) : (s.modCodec h f).boot = s.boot := rfl
@[simp] theorem modCodec_fw (h : Nat) (f : Codec → Codec) : (s.modCodec h f).fw = s.fw := rfl
@[simp] theorem modCodec_ctrs (h : Nat) (f : Codec → Codec) : (s.modCodec h f).ctrs = s.ctrs := rfl
@[simp] theorem modCodec_phys (h : Nat) (f : Codec → Codec) : (s.modCodec h f).phys = s.phys := rfl
@[simp] theorem modCodec_pending (h : Nat) (f : Codec → Codec) : (s.modCodec h f).pending = s.pending := rfl
@[simp] theorem modCodec_out (h : Nat) (f : Codec → Codec) : (s.modCodec h f).out = s.out := rfl
@[simp] theorem modCodec_fresh (h : Nat) (f : Codec → Codec) : (s.modCodec h f).fresh = s.fresh := rfl

/-! `modEngine` writes codec -/

@[simp] theorem modEngine_fuses (k : Nat) (f : CodecEngine → CodecEngine) : (s.modEngine k f).fuses = s.fuses := rfl
@[simp] theorem modEngine_flash (k : Nat) (f : CodecEngine → CodecEngine) : (s.modEngine k f).flash = s.flash := rfl
@[simp] theorem modEngine_set (k : Nat) (f : CodecEngine → CodecEngine) : (s.modEngine k f).set = s.set := rfl
@[simp] theorem modEngine_clock (k : Nat) (f : CodecEngine → CodecEngine) : (s.modEngine k f).clock = s.clock := rfl
@[simp] theorem modEngine_net (k : Nat) (f : CodecEngine → CodecEngine) : (s.modEngine k f).net = s.net := rfl
@[simp] theorem modEngine_cmds (k : Nat) (f : CodecEngine → CodecEngine) : (s.modEngine k f).cmds = s.cmds := rfl
@[simp] theorem modEngine_nextCmd (k : Nat) (f : CodecEngine → CodecEngine) : (s.modEngine k f).nextCmd = s.nextCmd := rfl
@[simp] theorem modEngine_parts (k : Nat) (f : CodecEngine → CodecEngine) : (s.modEngine k f).parts = s.parts := rfl
@[simp] theorem modEngine_mem (k : Nat) (f : CodecEngine → CodecEngine) : (s.modEngine k f).mem = s.mem := rfl
@[simp] theorem modEngine_cores (k : Nat) (f : CodecEngine → CodecEngine) : (s.modEngine k f).cores = s.cores := rfl
@[simp] theorem modEngine_kv (k : Nat) (f : CodecEngine → CodecEngine) : (s.modEngine k f).kv = s.kv := rfl
@[simp] theorem modEngine_seqs (k : Nat) (f : CodecEngine → CodecEngine) : (s.modEngine k f).seqs = s.seqs := rfl
@[simp] theorem modEngine_watch (k : Nat) (f : CodecEngine → CodecEngine) : (s.modEngine k f).watch = s.watch := rfl
@[simp] theorem modEngine_zhevub (k : Nat) (f : CodecEngine → CodecEngine) : (s.modEngine k f).zhevub = s.zhevub := rfl
@[simp] theorem modEngine_boot (k : Nat) (f : CodecEngine → CodecEngine) : (s.modEngine k f).boot = s.boot := rfl
@[simp] theorem modEngine_fw (k : Nat) (f : CodecEngine → CodecEngine) : (s.modEngine k f).fw = s.fw := rfl
@[simp] theorem modEngine_ctrs (k : Nat) (f : CodecEngine → CodecEngine) : (s.modEngine k f).ctrs = s.ctrs := rfl
@[simp] theorem modEngine_phys (k : Nat) (f : CodecEngine → CodecEngine) : (s.modEngine k f).phys = s.phys := rfl
@[simp] theorem modEngine_pending (k : Nat) (f : CodecEngine → CodecEngine) : (s.modEngine k f).pending = s.pending := rfl
@[simp] theorem modEngine_out (k : Nat) (f : CodecEngine → CodecEngine) : (s.modEngine k f).out = s.out := rfl
@[simp] theorem modEngine_fresh (k : Nat) (f : CodecEngine → CodecEngine) : (s.modEngine k f).fresh = s.fresh := rfl

/-! `modPush` writes codec -/

@[simp] theorem modPush_fuses (k : Nat) (f : Push → Push) : (s.modPush k f).fuses = s.fuses := rfl
@[simp] theorem modPush_flash (k : Nat) (f : Push → Push) : (s.modPush k f).flash = s.flash := rfl
@[simp] theorem modPush_set (k : Nat) (f : Push → Push) : (s.modPush k f).set = s.set := rfl
@[simp] theorem modPush_clock (k : Nat) (f : Push → Push) : (s.modPush k f).clock = s.clock := rfl
@[simp] theorem modPush_net (k : Nat) (f : Push → Push) : (s.modPush k f).net = s.net := rfl
@[simp] theorem modPush_cmds (k : Nat) (f : Push → Push) : (s.modPush k f).cmds = s.cmds := rfl
@[simp] theorem modPush_nextCmd (k : Nat) (f : Push → Push) : (s.modPush k f).nextCmd = s.nextCmd := rfl
@[simp] theorem modPush_parts (k : Nat) (f : Push → Push) : (s.modPush k f).parts = s.parts := rfl
@[simp] theorem modPush_mem (k : Nat) (f : Push → Push) : (s.modPush k f).mem = s.mem := rfl
@[simp] theorem modPush_cores (k : Nat) (f : Push → Push) : (s.modPush k f).cores = s.cores := rfl
@[simp] theorem modPush_kv (k : Nat) (f : Push → Push) : (s.modPush k f).kv = s.kv := rfl
@[simp] theorem modPush_seqs (k : Nat) (f : Push → Push) : (s.modPush k f).seqs = s.seqs := rfl
@[simp] theorem modPush_watch (k : Nat) (f : Push → Push) : (s.modPush k f).watch = s.watch := rfl
@[simp] theorem modPush_zhevub (k : Nat) (f : Push → Push) : (s.modPush k f).zhevub = s.zhevub := rfl
@[simp] theorem modPush_boot (k : Nat) (f : Push → Push) : (s.modPush k f).boot = s.boot := rfl
@[simp] theorem modPush_fw (k : Nat) (f : Push → Push) : (s.modPush k f).fw = s.fw := rfl
@[simp] theorem modPush_ctrs (k : Nat) (f : Push → Push) : (s.modPush k f).ctrs = s.ctrs := rfl
@[simp] theorem modPush_phys (k : Nat) (f : Push → Push) : (s.modPush k f).phys = s.phys := rfl
@[simp] theorem modPush_pending (k : Nat) (f : Push → Push) : (s.modPush k f).pending = s.pending := rfl
@[simp] theorem modPush_out (k : Nat) (f : Push → Push) : (s.modPush k f).out = s.out := rfl
@[simp] theorem modPush_fresh (k : Nat) (f : Push → Push) : (s.modPush k f).fresh = s.fresh := rfl

/-! `modOp` writes zhevub -/

@[simp] theorem modOp_fuses (k : Nat) (f : CollOp → CollOp) : (s.modOp k f).fuses = s.fuses := rfl
@[simp] theorem modOp_flash (k : Nat) (f : CollOp → CollOp) : (s.modOp k f).flash = s.flash := rfl
@[simp] theorem modOp_set (k : Nat) (f : CollOp → CollOp) : (s.modOp k f).set = s.set := rfl
@[simp] theorem modOp_clock (k : Nat) (f : CollOp → CollOp) : (s.modOp k f).clock = s.clock := rfl
@[simp] theorem modOp_net (k : Nat) (f : CollOp → CollOp) : (s.modOp k f).net = s.net := rfl
@[simp] theorem modOp_cmds (k : Nat) (f : CollOp → CollOp) : (s.modOp k f).cmds = s.cmds := rfl
@[simp] theorem modOp_nextCmd (k : Nat) (f : CollOp → CollOp) : (s.modOp k f).nextCmd = s.nextCmd := rfl
@[simp] theorem modOp_parts (k : Nat) (f : CollOp → CollOp) : (s.modOp k f).parts = s.parts := rfl
@[simp] theorem modOp_mem (k : Nat) (f : CollOp → CollOp) : (s.modOp k f).mem = s.mem := rfl
@[simp] theorem modOp_cores (k : Nat) (f : CollOp → CollOp) : (s.modOp k f).cores = s.cores := rfl
@[simp] theorem modOp_kv (k : Nat) (f : CollOp → CollOp) : (s.modOp k f).kv = s.kv := rfl
@[simp] theorem modOp_seqs (k : Nat) (f : CollOp → CollOp) : (s.modOp k f).seqs = s.seqs := rfl
@[simp] theorem modOp_watch (k : Nat) (f : CollOp → CollOp) : (s.modOp k f).watch = s.watch := rfl
@[simp] theorem modOp_codec (k : Nat) (f : CollOp → CollOp) : (s.modOp k f).codec = s.codec := rfl
@[simp] theorem modOp_boot (k : Nat) (f : CollOp → CollOp) : (s.modOp k f).boot = s.boot := rfl
@[simp] theorem modOp_fw (k : Nat) (f : CollOp → CollOp) : (s.modOp k f).fw = s.fw := rfl
@[simp] theorem modOp_ctrs (k : Nat) (f : CollOp → CollOp) : (s.modOp k f).ctrs = s.ctrs := rfl
@[simp] theorem modOp_phys (k : Nat) (f : CollOp → CollOp) : (s.modOp k f).phys = s.phys := rfl
@[simp] theorem modOp_pending (k : Nat) (f : CollOp → CollOp) : (s.modOp k f).pending = s.pending := rfl
@[simp] theorem modOp_out (k : Nat) (f : CollOp → CollOp) : (s.modOp k f).out = s.out := rfl
@[simp] theorem modOp_fresh (k : Nat) (f : CollOp → CollOp) : (s.modOp k f).fresh = s.fresh := rfl

/-! `modDamper` writes parts -/

@[simp] theorem modDamper_fuses (q k : Nat) (f : Damper → Damper) : (s.modDamper q k f).fuses = s.fuses := rfl
@[simp] theorem modDamper_flash (q k : Nat) (f : Damper → Damper) : (s.modDamper q k f).flash = s.flash := rfl
@[simp] theorem modDamper_set (q k : Nat) (f : Damper → Damper) : (s.modDamper q k f).set = s.set := rfl
@[simp] theorem modDamper_clock (q k : Nat) (f : Damper → Damper) : (s.modDamper q k f).clock = s.clock := rfl
@[simp] theorem modDamper_net (q k : Nat) (f : Damper → Damper) : (s.modDamper q k f).net = s.net := rfl
@[simp] theorem modDamper_cmds (q k : Nat) (f : Damper → Damper) : (s.modDamper q k f).cmds = s.cmds := rfl
@[simp] theorem modDamper_nextCmd (q k : Nat) (f : Damper → Damper) : (s.modDamper q k f).nextCmd = s.nextCmd := rfl
@[simp] theorem modDamper_mem (q k : Nat) (f : Damper → Damper) : (s.modDamper q k f).mem = s.mem := rfl
@[simp] theorem modDamper_cores (q k : Nat) (f : Damper → Damper) : (s.modDamper q k f).cores = s.cores := rfl
@[simp] theorem modDamper_kv (q k : Nat) (f : Damper → Damper) : (s.modDamper q k f).kv = s.kv := rfl
@[simp] theorem modDamper_seqs (q k : Nat) (f : Damper → Damper) : (s.modDamper q k f).seqs = s.seqs := rfl
@[simp] theorem modDamper_watch (q k : Nat) (f : Damper → Damper) : (s.modDamper q k f).watch = s.watch := rfl
@[simp] theorem modDamper_zhevub (q k : Nat) (f : Damper → Damper) : (s.modDamper q k f).zhevub = s.zhevub := rfl
@[simp] theorem modDamper_codec (q k : Nat) (f : Damper → Damper) : (s.modDamper q k f).codec = s.codec := rfl
@[simp] theorem modDamper_boot (q k : Nat) (f : Damper → Damper) : (s.modDamper q k f).boot = s.boot := rfl
@[simp] theorem modDamper_fw (q k : Nat) (f : Damper → Damper) : (s.modDamper q k f).fw = s.fw := rfl
@[simp] theorem modDamper_ctrs (q k : Nat) (f : Damper → Damper) : (s.modDamper q k f).ctrs = s.ctrs := rfl
@[simp] theorem modDamper_phys (q k : Nat) (f : Damper → Damper) : (s.modDamper q k f).phys = s.phys := rfl
@[simp] theorem modDamper_pending (q k : Nat) (f : Damper → Damper) : (s.modDamper q k f).pending = s.pending := rfl
@[simp] theorem modDamper_out (q k : Nat) (f : Damper → Damper) : (s.modDamper q k f).out = s.out := rfl
@[simp] theorem modDamper_fresh (q k : Nat) (f : Damper → Damper) : (s.modDamper q k f).fresh = s.fresh := rfl

/-! `modWindow` writes net -/

@[simp] theorem modWindow_fuses (q id : Nat) (f : Window → Window) : (s.modWindow q id f).fuses = s.fuses := rfl
@[simp] theorem modWindow_flash (q id : Nat) (f : Window → Window) : (s.modWindow q id f).flash = s.flash := rfl
@[simp] theorem modWindow_set (q id : Nat) (f : Window → Window) : (s.modWindow q id f).set = s.set := rfl
@[simp] theorem modWindow_clock (q id : Nat) (f : Window → Window) : (s.modWindow q id f).clock = s.clock := rfl
@[simp] theorem modWindow_cmds (q id : Nat) (f : Window → Window) : (s.modWindow q id f).cmds = s.cmds := rfl
@[simp] theorem modWindow_nextCmd (q id : Nat) (f : Window → Window) : (s.modWindow q id f).nextCmd = s.nextCmd := rfl
@[simp] theorem modWindow_parts (q id : Nat) (f : Window → Window) : (s.modWindow q id f).parts = s.parts := rfl
@[simp] theorem modWindow_mem (q id : Nat) (f : Window → Window) : (s.modWindow q id f).mem = s.mem := rfl
@[simp] theorem modWindow_cores (q id : Nat) (f : Window → Window) : (s.modWindow q id f).cores = s.cores := rfl
@[simp] theorem modWindow_kv (q id : Nat) (f : Window → Window) : (s.modWindow q id f).kv = s.kv := rfl
@[simp] theorem modWindow_seqs (q id : Nat) (f : Window → Window) : (s.modWindow q id f).seqs = s.seqs := rfl
@[simp] theorem modWindow_watch (q id : Nat) (f : Window → Window) : (s.modWindow q id f).watch = s.watch := rfl
@[simp] theorem modWindow_zhevub (q id : Nat) (f : Window → Window) : (s.modWindow q id f).zhevub = s.zhevub := rfl
@[simp] theorem modWindow_codec (q id : Nat) (f : Window → Window) : (s.modWindow q id f).codec = s.codec := rfl
@[simp] theorem modWindow_boot (q id : Nat) (f : Window → Window) : (s.modWindow q id f).boot = s.boot := rfl
@[simp] theorem modWindow_fw (q id : Nat) (f : Window → Window) : (s.modWindow q id f).fw = s.fw := rfl
@[simp] theorem modWindow_ctrs (q id : Nat) (f : Window → Window) : (s.modWindow q id f).ctrs = s.ctrs := rfl
@[simp] theorem modWindow_phys (q id : Nat) (f : Window → Window) : (s.modWindow q id f).phys = s.phys := rfl
@[simp] theorem modWindow_pending (q id : Nat) (f : Window → Window) : (s.modWindow q id f).pending = s.pending := rfl
@[simp] theorem modWindow_out (q id : Nat) (f : Window → Window) : (s.modWindow q id f).out = s.out := rfl
@[simp] theorem modWindow_fresh (q id : Nat) (f : Window → Window) : (s.modWindow q id f).fresh = s.fresh := rfl

/-! `modStep` writes seqs -/

@[simp] theorem modStep_fuses (id : Nat) (f : SeqStep → SeqStep) : (s.modStep id f).fuses = s.fuses := rfl
@[simp] theorem modStep_flash (id : Nat) (f : SeqStep → SeqStep) : (s.modStep id f).flash = s.flash := rfl
@[simp] theorem modStep_set (id : Nat) (f : SeqStep → SeqStep) : (s.modStep id f).set = s.set := rfl
@[simp] theorem modStep_clock (id : Nat) (f : SeqStep → SeqStep) : (s.modStep id f).clock = s.clock := rfl
@[simp] theorem modStep_net (id : Nat) (f : SeqStep → SeqStep) : (s.modStep id f).net = s.net := rfl
@[simp] theorem modStep_cmds (id : Nat) (f : SeqStep → SeqStep) : (s.modStep id f).cmds = s.cmds := rfl
@[simp] theorem modStep_nextCmd (id : Nat) (f : SeqStep → SeqStep) : (s.modStep id f).nextCmd = s.nextCmd := rfl
@[simp] theorem modStep_parts (id : Nat) (f : SeqStep → SeqStep) : (s.modStep id f).parts = s.parts := rfl
@[simp] theorem modStep_mem (id : Nat) (f : SeqStep → SeqStep) : (s.modStep id f).mem = s.mem := rfl
@[simp] theorem modStep_cores (id : Nat) (f : SeqStep → SeqStep) : (s.modStep id f).cores = s.cores := rfl
@[simp] theorem modStep_kv (id : Nat) (f : SeqStep → SeqStep) : (s.modStep id f).kv = s.kv := rfl
@[simp] theorem modStep_watch (id : Nat) (f : SeqStep → SeqStep) : (s.modStep id f).watch = s.watch := rfl
@[simp] theorem modStep_zhevub (id : Nat) (f : SeqStep → SeqStep) : (s.modStep id f).zhevub = s.zhevub := rfl
@[simp] theorem modStep_codec (id : Nat) (f : SeqStep → SeqStep) : (s.modStep id f).codec = s.codec := rfl
@[simp] theorem modStep_boot (id : Nat) (f : SeqStep → SeqStep) : (s.modStep id f).boot = s.boot := rfl
@[simp] theorem modStep_fw (id : Nat) (f : SeqStep → SeqStep) : (s.modStep id f).fw = s.fw := rfl
@[simp] theorem modStep_ctrs (id : Nat) (f : SeqStep → SeqStep) : (s.modStep id f).ctrs = s.ctrs := rfl
@[simp] theorem modStep_phys (id : Nat) (f : SeqStep → SeqStep) : (s.modStep id f).phys = s.phys := rfl
@[simp] theorem modStep_pending (id : Nat) (f : SeqStep → SeqStep) : (s.modStep id f).pending = s.pending := rfl
@[simp] theorem modStep_out (id : Nat) (f : SeqStep → SeqStep) : (s.modStep id f).out = s.out := rfl
@[simp] theorem modStep_fresh (id : Nat) (f : SeqStep → SeqStep) : (s.modStep id f).fresh = s.fresh := rfl

/-! `modBatch` writes seqs -/

@[simp] theorem modBatch_fuses (id : Nat) (f : Batch → Batch) : (s.modBatch id f).fuses = s.fuses := rfl
@[simp] theorem modBatch_flash (id : Nat) (f : Batch → Batch) : (s.modBatch id f).flash = s.flash := rfl
@[simp] theorem modBatch_set (id : Nat) (f : Batch → Batch) : (s.modBatch id f).set = s.set := rfl
@[simp] theorem modBatch_clock (id : Nat) (f : Batch → Batch) : (s.modBatch id f).clock = s.clock := rfl
@[simp] theorem modBatch_net (id : Nat) (f : Batch → Batch) : (s.modBatch id f).net = s.net := rfl
@[simp] theorem modBatch_cmds (id : Nat) (f : Batch → Batch) : (s.modBatch id f).cmds = s.cmds := rfl
@[simp] theorem modBatch_nextCmd (id : Nat) (f : Batch → Batch) : (s.modBatch id f).nextCmd = s.nextCmd := rfl
@[simp] theorem modBatch_parts (id : Nat) (f : Batch → Batch) : (s.modBatch id f).parts = s.parts := rfl
@[simp] theorem modBatch_mem (id : Nat) (f : Batch → Batch) : (s.modBatch id f).mem = s.mem := rfl
@[simp] theorem modBatch_cores (id : Nat) (f : Batch → Batch) : (s.modBatch id f).cores = s.cores := rfl
@[simp] theorem modBatch_kv (id : Nat) (f : Batch → Batch) : (s.modBatch id f).kv = s.kv := rfl
@[simp] theorem modBatch_watch (id : Nat) (f : Batch → Batch) : (s.modBatch id f).watch = s.watch := rfl
@[simp] theorem modBatch_zhevub (id : Nat) (f : Batch → Batch) : (s.modBatch id f).zhevub = s.zhevub := rfl
@[simp] theorem modBatch_codec (id : Nat) (f : Batch → Batch) : (s.modBatch id f).codec = s.codec := rfl
@[simp] theorem modBatch_boot (id : Nat) (f : Batch → Batch) : (s.modBatch id f).boot = s.boot := rfl
@[simp] theorem modBatch_fw (id : Nat) (f : Batch → Batch) : (s.modBatch id f).fw = s.fw := rfl
@[simp] theorem modBatch_ctrs (id : Nat) (f : Batch → Batch) : (s.modBatch id f).ctrs = s.ctrs := rfl
@[simp] theorem modBatch_phys (id : Nat) (f : Batch → Batch) : (s.modBatch id f).phys = s.phys := rfl
@[simp] theorem modBatch_pending (id : Nat) (f : Batch → Batch) : (s.modBatch id f).pending = s.pending := rfl
@[simp] theorem modBatch_out (id : Nat) (f : Batch → Batch) : (s.modBatch id f).out = s.out := rfl
@[simp] theorem modBatch_fresh (id : Nat) (f : Batch → Batch) : (s.modBatch id f).fresh = s.fresh := rfl

/-! `modEntries` writes watch -/

@[simp] theorem modEntries_fuses (q : Nat) (f : WatchEntry → WatchEntry) : (s.modEntries q f).fuses = s.fuses := rfl
@[simp] theorem modEntries_flash (q : Nat) (f : WatchEntry → WatchEntry) : (s.modEntries q f).flash = s.flash := rfl
@[simp] theorem modEntries_set (q : Nat) (f : WatchEntry → WatchEntry) : (s.modEntries q f).set = s.set := rfl
@[simp] theorem modEntries_clock (q : Nat) (f : WatchEntry → WatchEntry) : (s.modEntries q f).clock = s.clock := rfl
@[simp] theorem modEntries_net (q : Nat) (f : WatchEntry → WatchEntry) : (s.modEntries q f).net = s.net := rfl
@[simp] theorem modEntries_cmds (q : Nat) (f : WatchEntry → WatchEntry) : (s.modEntries q f).cmds = s.cmds := rfl
@[simp] theorem modEntries_nextCmd (q : Nat) (f : WatchEntry → WatchEntry) : (s.modEntries q f).nextCmd = s.nextCmd := rfl
@[simp] theorem modEntries_parts (q : Nat) (f : WatchEntry → WatchEntry) : (s.modEntries q f).parts = s.parts := rfl
@[simp] theorem modEntries_mem (q : Nat) (f : WatchEntry → WatchEntry) : (s.modEntries q f).mem = s.mem := rfl
@[simp] theorem modEntries_cores (q : Nat) (f : WatchEntry → WatchEntry) : (s.modEntries q f).cores = s.cores := rfl
@[simp] theorem modEntries_kv (q : Nat) (f : WatchEntry → WatchEntry) : (s.modEntries q f).kv = s.kv := rfl
@[simp] theorem modEntries_seqs (q : Nat) (f : WatchEntry → WatchEntry) : (s.modEntries q f).seqs = s.seqs := rfl
@[simp] theorem modEntries_zhevub (q : Nat) (f : WatchEntry → WatchEntry) : (s.modEntries q f).zhevub = s.zhevub := rfl
@[simp] theorem modEntries_codec (q : Nat) (f : WatchEntry → WatchEntry) : (s.modEntries q f).codec = s.codec := rfl
@[simp] theorem modEntries_boot (q : Nat) (f : WatchEntry → WatchEntry) : (s.modEntries q f).boot = s.boot := rfl
@[simp] theorem modEntries_fw (q : Nat) (f : WatchEntry → WatchEntry) : (s.modEntries q f).fw = s.fw := rfl
@[simp] theorem modEntries_ctrs (q : Nat) (f : WatchEntry → WatchEntry) : (s.modEntries q f).ctrs = s.ctrs := rfl
@[simp] theorem modEntries_phys (q : Nat) (f : WatchEntry → WatchEntry) : (s.modEntries q f).phys = s.phys := rfl
@[simp] theorem modEntries_pending (q : Nat) (f : WatchEntry → WatchEntry) : (s.modEntries q f).pending = s.pending := rfl
@[simp] theorem modEntries_out (q : Nat) (f : WatchEntry → WatchEntry) : (s.modEntries q f).out = s.out := rfl
@[simp] theorem modEntries_fresh (q : Nat) (f : WatchEntry → WatchEntry) : (s.modEntries q f).fresh = s.fresh := rfl

/-! `modJournal` writes watch -/

@[simp] theorem modJournal_fuses (h : Nat) (f : Journal → Journal) : (s.modJournal h f).fuses = s.fuses := rfl
@[simp] theorem modJournal_flash (h : Nat) (f : Journal → Journal) : (s.modJournal h f).flash = s.flash := rfl
@[simp] theorem modJournal_set (h : Nat) (f : Journal → Journal) : (s.modJournal h f).set = s.set := rfl
@[simp] theorem modJournal_clock (h : Nat) (f : Journal → Journal) : (s.modJournal h f).clock = s.clock := rfl
@[simp] theorem modJournal_net (h : Nat) (f : Journal → Journal) : (s.modJournal h f).net = s.net := rfl
@[simp] theorem modJournal_cmds (h : Nat) (f : Journal → Journal) : (s.modJournal h f).cmds = s.cmds := rfl
@[simp] theorem modJournal_nextCmd (h : Nat) (f : Journal → Journal) : (s.modJournal h f).nextCmd = s.nextCmd := rfl
@[simp] theorem modJournal_parts (h : Nat) (f : Journal → Journal) : (s.modJournal h f).parts = s.parts := rfl
@[simp] theorem modJournal_mem (h : Nat) (f : Journal → Journal) : (s.modJournal h f).mem = s.mem := rfl
@[simp] theorem modJournal_cores (h : Nat) (f : Journal → Journal) : (s.modJournal h f).cores = s.cores := rfl
@[simp] theorem modJournal_kv (h : Nat) (f : Journal → Journal) : (s.modJournal h f).kv = s.kv := rfl
@[simp] theorem modJournal_seqs (h : Nat) (f : Journal → Journal) : (s.modJournal h f).seqs = s.seqs := rfl
@[simp] theorem modJournal_zhevub (h : Nat) (f : Journal → Journal) : (s.modJournal h f).zhevub = s.zhevub := rfl
@[simp] theorem modJournal_codec (h : Nat) (f : Journal → Journal) : (s.modJournal h f).codec = s.codec := rfl
@[simp] theorem modJournal_boot (h : Nat) (f : Journal → Journal) : (s.modJournal h f).boot = s.boot := rfl
@[simp] theorem modJournal_fw (h : Nat) (f : Journal → Journal) : (s.modJournal h f).fw = s.fw := rfl
@[simp] theorem modJournal_ctrs (h : Nat) (f : Journal → Journal) : (s.modJournal h f).ctrs = s.ctrs := rfl
@[simp] theorem modJournal_phys (h : Nat) (f : Journal → Journal) : (s.modJournal h f).phys = s.phys := rfl
@[simp] theorem modJournal_pending (h : Nat) (f : Journal → Journal) : (s.modJournal h f).pending = s.pending := rfl
@[simp] theorem modJournal_out (h : Nat) (f : Journal → Journal) : (s.modJournal h f).out = s.out := rfl
@[simp] theorem modJournal_fresh (h : Nat) (f : Journal → Journal) : (s.modJournal h f).fresh = s.fresh := rfl

/-! `advance` writes clock, mem, cores, out, fresh -/

@[simp] theorem advance_fuses (dt : Nat) : (advance dt s).fuses = s.fuses := rfl
@[simp] theorem advance_flash (dt : Nat) : (advance dt s).flash = s.flash := rfl
@[simp] theorem advance_set (dt : Nat) : (advance dt s).set = s.set := rfl
@[simp] theorem advance_net (dt : Nat) : (advance dt s).net = s.net := rfl
@[simp] theorem advance_cmds (dt : Nat) : (advance dt s).cmds = s.cmds := rfl
@[simp] theorem advance_nextCmd (dt : Nat) : (advance dt s).nextCmd = s.nextCmd := rfl
@[simp] theorem advance_parts (dt : Nat) : (advance dt s).parts = s.parts := rfl
@[simp] theorem advance_kv (dt : Nat) : (advance dt s).kv = s.kv := rfl
@[simp] theorem advance_seqs (dt : Nat) : (advance dt s).seqs = s.seqs := rfl
@[simp] theorem advance_watch (dt : Nat) : (advance dt s).watch = s.watch := rfl
@[simp] theorem advance_zhevub (dt : Nat) : (advance dt s).zhevub = s.zhevub := rfl
@[simp] theorem advance_codec (dt : Nat) : (advance dt s).codec = s.codec := rfl
@[simp] theorem advance_boot (dt : Nat) : (advance dt s).boot = s.boot := rfl
@[simp] theorem advance_fw (dt : Nat) : (advance dt s).fw = s.fw := rfl
@[simp] theorem advance_ctrs (dt : Nat) : (advance dt s).ctrs = s.ctrs := rfl
@[simp] theorem advance_phys (dt : Nat) : (advance dt s).phys = s.phys := rfl
@[simp] theorem advance_pending (dt : Nat) : (advance dt s).pending = s.pending := rfl

/-! `storeSoon` writes fw -/

@[simp] theorem storeSoon_fuses : (s.storeSoon).fuses = s.fuses := rfl
@[simp] theorem storeSoon_flash : (s.storeSoon).flash = s.flash := rfl
@[simp] theorem storeSoon_set : (s.storeSoon).set = s.set := rfl
@[simp] theorem storeSoon_clock : (s.storeSoon).clock = s.clock := rfl
@[simp] theorem storeSoon_net : (s.storeSoon).net = s.net := rfl
@[simp] theorem storeSoon_cmds : (s.storeSoon).cmds = s.cmds := rfl
@[simp] theorem storeSoon_nextCmd : (s.storeSoon).nextCmd = s.nextCmd := rfl
@[simp] theorem storeSoon_parts : (s.storeSoon).parts = s.parts := rfl
@[simp] theorem storeSoon_mem : (s.storeSoon).mem = s.mem := rfl
@[simp] theorem storeSoon_cores : (s.storeSoon).cores = s.cores := rfl
@[simp] theorem storeSoon_kv : (s.storeSoon).kv = s.kv := rfl
@[simp] theorem storeSoon_seqs : (s.storeSoon).seqs = s.seqs := rfl
@[simp] theorem storeSoon_watch : (s.storeSoon).watch = s.watch := rfl
@[simp] theorem storeSoon_zhevub : (s.storeSoon).zhevub = s.zhevub := rfl
@[simp] theorem storeSoon_codec : (s.storeSoon).codec = s.codec := rfl
@[simp] theorem storeSoon_boot : (s.storeSoon).boot = s.boot := rfl
@[simp] theorem storeSoon_ctrs : (s.storeSoon).ctrs = s.ctrs := rfl
@[simp] theorem storeSoon_phys : (s.storeSoon).phys = s.phys := rfl
@[simp] theorem storeSoon_pending : (s.storeSoon).pending = s.pending := rfl
@[simp] theorem storeSoon_out : (s.storeSoon).out = s.out := rfl
@[simp] theorem storeSoon_fresh : (s.storeSoon).fresh = s.fresh := rfl

end Sys2Proof.Machine
end

