-- ==== Sys2Proof/Laws/Packets.lean ====
section
/-! SUPPORT. What a command packet does on its way: one lemma for each of the operations that every opcode shares (03 R65
to R90). -/

namespace Sys2Proof.Machine

@[simp] theorem wake_fuses (s : State) : s.wake.fuses = s.fuses := by unfold State.wake; split <;> rfl
@[simp] theorem wake_flash (s : State) : s.wake.flash = s.flash := by unfold State.wake; split <;> rfl
@[simp] theorem wake_set (s : State) : s.wake.set = s.set := by unfold State.wake; split <;> rfl
@[simp] theorem wake_net (s : State) : s.wake.net = s.net := by unfold State.wake; split <;> rfl
@[simp] theorem wake_cmds (s : State) : s.wake.cmds = s.cmds := by unfold State.wake; split <;> rfl
@[simp] theorem wake_nextCmd (s : State) : s.wake.nextCmd = s.nextCmd := by unfold State.wake; split <;> rfl
@[simp] theorem wake_parts (s : State) : s.wake.parts = s.parts := by unfold State.wake; split <;> rfl
@[simp] theorem wake_mem (s : State) : s.wake.mem = s.mem := by unfold State.wake; split <;> rfl
@[simp] theorem wake_cores (s : State) : s.wake.cores = s.cores := by unfold State.wake; split <;> rfl
@[simp] theorem wake_kv (s : State) : s.wake.kv = s.kv := by unfold State.wake; split <;> rfl
@[simp] theorem wake_seqs (s : State) : s.wake.seqs = s.seqs := by unfold State.wake; split <;> rfl
@[simp] theorem wake_watch (s : State) : s.wake.watch = s.watch := by unfold State.wake; split <;> rfl
@[simp] theorem wake_zhevub (s : State) : s.wake.zhevub = s.zhevub := by unfold State.wake; split <;> rfl
@[simp] theorem wake_codec (s : State) : s.wake.codec = s.codec := by unfold State.wake; split <;> rfl
@[simp] theorem wake_fw (s : State) : s.wake.fw = s.fw := by unfold State.wake; split <;> rfl
@[simp] theorem wake_phys (s : State) : s.wake.phys = s.phys := by unfold State.wake; split <;> rfl
@[simp] theorem wake_pending (s : State) : s.wake.pending = s.pending := by unfold State.wake; split <;> rfl
@[simp] theorem wake_out (s : State) : s.wake.out = s.out := by unfold State.wake; split <;> rfl
@[simp] theorem wake_fresh (s : State) : s.wake.fresh = s.fresh := by unfold State.wake; split <;> rfl
@[simp] theorem received_fuses (s : State) (a : IpAddr) (n : Nat) : (s.received a n).fuses = s.fuses := by
  unfold State.received; split <;> rfl
@[simp] theorem received_flash (s : State) (a : IpAddr) (n : Nat) : (s.received a n).flash = s.flash := by
  unfold State.received; split <;> rfl
@[simp] theorem received_set (s : State) (a : IpAddr) (n : Nat) : (s.received a n).set = s.set := by
  unfold State.received; split <;> rfl
@[simp] theorem received_clock (s : State) (a : IpAddr) (n : Nat) : (s.received a n).clock = s.clock := by
  unfold State.received; split <;> rfl
@[simp] theorem received_net (s : State) (a : IpAddr) (n : Nat) : (s.received a n).net = s.net := by
  unfold State.received; split <;> rfl
@[simp] theorem received_cmds (s : State) (a : IpAddr) (n : Nat) : (s.received a n).cmds = s.cmds := by
  unfold State.received; split <;> rfl
@[simp] theorem received_nextCmd (s : State) (a : IpAddr) (n : Nat) : (s.received a n).nextCmd = s.nextCmd := by
  unfold State.received; split <;> rfl
@[simp] theorem received_parts (s : State) (a : IpAddr) (n : Nat) : (s.received a n).parts = s.parts := by
  unfold State.received; split <;> rfl
@[simp] theorem received_mem (s : State) (a : IpAddr) (n : Nat) : (s.received a n).mem = s.mem := by
  unfold State.received; split <;> rfl
@[simp] theorem received_cores (s : State) (a : IpAddr) (n : Nat) : (s.received a n).cores = s.cores := by
  unfold State.received; split <;> rfl
@[simp] theorem received_kv (s : State) (a : IpAddr) (n : Nat) : (s.received a n).kv = s.kv := by
  unfold State.received; split <;> rfl
@[simp] theorem received_seqs (s : State) (a : IpAddr) (n : Nat) : (s.received a n).seqs = s.seqs := by
  unfold State.received; split <;> rfl
@[simp] theorem received_watch (s : State) (a : IpAddr) (n : Nat) : (s.received a n).watch = s.watch := by
  unfold State.received; split <;> rfl
@[simp] theorem received_zhevub (s : State) (a : IpAddr) (n : Nat) : (s.received a n).zhevub = s.zhevub := by
  unfold State.received; split <;> rfl
@[simp] theorem received_codec (s : State) (a : IpAddr) (n : Nat) : (s.received a n).codec = s.codec := by
  unfold State.received; split <;> rfl
@[simp] theorem received_boot (s : State) (a : IpAddr) (n : Nat) : (s.received a n).boot = s.boot := by
  unfold State.received; split <;> rfl
@[simp] theorem received_fw (s : State) (a : IpAddr) (n : Nat) : (s.received a n).fw = s.fw := by
  unfold State.received; split <;> rfl
@[simp] theorem received_phys (s : State) (a : IpAddr) (n : Nat) : (s.received a n).phys = s.phys := by
  unfold State.received; split <;> rfl
@[simp] theorem received_pending (s : State) (a : IpAddr) (n : Nat) : (s.received a n).pending = s.pending := by
  unfold State.received; split <;> rfl
@[simp] theorem received_out (s : State) (a : IpAddr) (n : Nat) : (s.received a n).out = s.out := by
  unfold State.received; split <;> rfl
@[simp] theorem received_fresh (s : State) (a : IpAddr) (n : Nat) : (s.received a n).fresh = s.fresh := by
  unfold State.received; split <;> rfl
@[simp] theorem landed_fuses (p : Packet) (s : State) : (landed p s).fuses = s.fuses := by simp [landed]
@[simp] theorem landed_flash (p : Packet) (s : State) : (landed p s).flash = s.flash := by simp [landed]
@[simp] theorem landed_set (p : Packet) (s : State) : (landed p s).set = s.set := by simp [landed]
@[simp] theorem landed_clock (p : Packet) (s : State) : (landed p s).clock = (advance p.dt s).clock := by simp [landed]
@[simp] theorem landed_net (p : Packet) (s : State) : (landed p s).net = s.net := by simp [landed]
@[simp] theorem landed_cmds (p : Packet) (s : State) : (landed p s).cmds = s.cmds := by simp [landed]
@[simp] theorem landed_nextCmd (p : Packet) (s : State) : (landed p s).nextCmd = s.nextCmd := by simp [landed]
@[simp] theorem landed_parts (p : Packet) (s : State) : (landed p s).parts = s.parts := by simp [landed]
@[simp] theorem landed_mem (p : Packet) (s : State) : (landed p s).mem = (advance p.dt s).mem := by simp [landed]
@[simp] theorem landed_cores (p : Packet) (s : State) : (landed p s).cores = (advance p.dt s).cores := by simp [landed]
@[simp] theorem landed_kv (p : Packet) (s : State) : (landed p s).kv = s.kv := by simp [landed]
@[simp] theorem landed_seqs (p : Packet) (s : State) : (landed p s).seqs = s.seqs := by simp [landed]
@[simp] theorem landed_watch (p : Packet) (s : State) : (landed p s).watch = s.watch := by simp [landed]
@[simp] theorem landed_zhevub (p : Packet) (s : State) : (landed p s).zhevub = s.zhevub := by simp [landed]
@[simp] theorem landed_codec (p : Packet) (s : State) : (landed p s).codec = s.codec := by simp [landed]
@[simp] theorem landed_boot (p : Packet) (s : State) : (landed p s).boot = s.boot := by simp [landed]
@[simp] theorem landed_fw (p : Packet) (s : State) : (landed p s).fw = s.fw := by simp [landed]
@[simp] theorem landed_phys (p : Packet) (s : State) : (landed p s).phys = s.phys := by simp [landed]
@[simp] theorem landed_pending (p : Packet) (s : State) : (landed p s).pending = s.pending := by simp [landed]
@[simp] theorem landed_out (p : Packet) (s : State) : (landed p s).out = (advance p.dt s).out := by simp [landed]
@[simp] theorem landed_fresh (p : Packet) (s : State) : (landed p s).fresh = (advance p.dt s).fresh := by simp [landed]
@[simp] theorem heard_fuses (p : Packet) (n : Session) (s : State) : (heard p n s).fuses = s.fuses := by simp [heard]
@[simp] theorem heard_flash (p : Packet) (n : Session) (s : State) : (heard p n s).flash = s.flash := by simp [heard]
@[simp] theorem heard_set (p : Packet) (n : Session) (s : State) : (heard p n s).set = s.set := by simp [heard]
@[simp] theorem heard_cmds (p : Packet) (n : Session) (s : State) : (heard p n s).cmds = s.cmds := by simp [heard]
@[simp] theorem heard_nextCmd (p : Packet) (n : Session) (s : State) : (heard p n s).nextCmd = s.nextCmd := by simp [heard]
@[simp] theorem heard_parts (p : Packet) (n : Session) (s : State) : (heard p n s).parts = s.parts := by simp [heard]
@[simp] theorem heard_mem (p : Packet) (n : Session) (s : State) : (heard p n s).mem = (advance p.dt s).mem := by simp [heard]
@[simp] theorem heard_cores (p : Packet) (n : Session) (s : State) : (heard p n s).cores = (advance p.dt s).cores := by simp [heard]
@[simp] theorem heard_kv (p : Packet) (n : Session) (s : State) : (heard p n s).kv = s.kv := by simp [heard]
@[simp] theorem heard_seqs (p : Packet) (n : Session) (s : State) : (heard p n s).seqs = s.seqs := by simp [heard]
@[simp] theorem heard_watch (p : Packet) (n : Session) (s : State) : (heard p n s).watch = s.watch := by simp [heard]
@[simp] theorem heard_zhevub (p : Packet) (n : Session) (s : State) : (heard p n s).zhevub = s.zhevub := by simp [heard]
@[simp] theorem heard_codec (p : Packet) (n : Session) (s : State) : (heard p n s).codec = s.codec := by simp [heard]
@[simp] theorem heard_fw (p : Packet) (n : Session) (s : State) : (heard p n s).fw = s.fw := by simp [heard]
@[simp] theorem heard_phys (p : Packet) (n : Session) (s : State) : (heard p n s).phys = s.phys := by simp [heard]
@[simp] theorem heard_pending (p : Packet) (n : Session) (s : State) : (heard p n s).pending = s.pending := by simp [heard]
@[simp] theorem heard_out (p : Packet) (n : Session) (s : State) : (heard p n s).out = (advance p.dt s).out := by simp [heard]
@[simp] theorem heard_fresh (p : Packet) (n : Session) (s : State) : (heard p n s).fresh = (advance p.dt s).fresh := by simp [heard]

/-- Waking the module changes no media time and no capability block, and sets only PSTATE and the fields that no state
keeps. -/
@[simp] theorem wake_mt (s : State) : s.wake.clock.mt = s.clock.mt := by unfold State.wake; split <;> rfl
@[simp] theorem wake_caps (s : State) : s.wake.boot.caps = s.boot.caps := by unfold State.wake; split <;> rfl
@[simp] theorem heard_caps (p : Packet) (n : Session) (s : State) : (heard p n s).boot.caps = s.boot.caps := by simp [heard]
@[simp] theorem heard_mt (p : Packet) (n : Session) (s : State) : (heard p n s).clock.mt = (advance p.dt s).clock.mt := by
  simp [heard]
@[simp] theorem heard_eventSeq (p : Packet) (n : Session) (s : State) : (heard p n s).net.eventSeq = s.net.eventSeq := by
  simp [heard, State.touchSession, State.modSession]
@[simp] theorem heard_windows (p : Packet) (n : Session) (s : State) : (heard p n s).net.windows = s.net.windows := by
  simp [heard, State.touchSession, State.modSession]

/-- A reply opcode that is carried out answers by `answer`. -/
theorem replyOp_taken {o : Op} {check quota : Ctx → State → Option Bad} {before : Ctx → State → State}
    {effect : Ctx → State → State × List Byte} {p : Packet} {n : Session} {s : State}
    (hv : (landed p s).verdict p = .command n)
    (hb : (heard p n s).replyBad o check quota p n = none) :
    replyOp o check quota before effect p s
      = (heard p n s).answer o before effect p n := by
  simp only [heard] at hb ⊢; simp only [replyOp, withCommand, hv, hb]

/-- A reply opcode that is refused answers by `refuse`. -/
theorem replyOp_refused {o : Op} {check quota : Ctx → State → Option Bad} {before : Ctx → State → State}
    {effect : Ctx → State → State × List Byte} {p : Packet} {n : Session} {s : State} {b : Bad}
    (hv : (landed p s).verdict p = .command n)
    (hb : (heard p n s).replyBad o check quota p n = some b) :
    replyOp o check quota before effect p s
      = (heard p n s).refuse p (some n.id)
          (replyBound o p) b := by
  simp only [heard] at hb ⊢; simp only [replyOp, withCommand, hv, hb]

/-- A notification opcode without a deadline that passes every refusal is accepted. -/
theorem notifyOp_bestEffort {o : Op} {check quota : Ctx → State → Option Bad} {admission : Ctx → State → Admission}
    {before : Ctx → State → State} {start : Ctx → Cmd → State → State} {p : Packet} {n : Session} {s : State}
    (hv : (landed p s).verdict p = .command n)
    (hb : (heard p n s).notifyBad o check quota p n = none)
    (ha : admission ((heard p n s).ctx o p n)
      (heard p n s) = none) :
    notifyOp o check quota admission before start p s
      = (heard p n s).accept o none before start p n := by
  simp only [heard] at hb ha ⊢; simp only [notifyOp, withCommand, hv, hb, ha]

/-- A deadline command that admission takes is accepted with its reservation. -/
theorem notifyOp_admitted {o : Op} {check quota : Ctx → State → Option Bad} {admission : Ctx → State → Admission}
    {before : Ctx → State → State} {start : Ctx → Cmd → State → State} {p : Packet} {n : Session} {s : State}
    {r : Reservation}
    (hv : (landed p s).verdict p = .command n)
    (hb : (heard p n s).notifyBad o check quota p n = none)
    (ha : admission ((heard p n s).ctx o p n)
      (heard p n s) = some (.ok r)) :
    notifyOp o check quota admission before start p s
      = (heard p n s).accept o (some r) before start p n := by
  simp only [heard] at hb ha ⊢; simp only [notifyOp, withCommand, hv, hb, ha]

/-- The stamp of a reply lies within its bound (R42, R87). -/
theorem replyTime_bounds (s : State) (bound : Nat) :
    s.clock.mt ≤ s.replyTime bound ∧ s.replyTime bound ≤ s.clock.mt + bound := by
  have := Nat.mod_lt (Config.replyLatency s.fresh) (by omega : 0 < bound + 1)
  simp only [State.replyTime]; omega

/-- What is sent joins the end of what the step has sent. -/
@[simp] theorem emit_out (s : State) (e : Emission) : (s.emit e).out = s.out ++ [e] := rfl
@[simp] theorem emitAll_out (s : State) (es : List Emission) : (s.emitAll es).out = s.out ++ es := rfl
@[simp] theorem sendReply_out (s : State) (d : Endpoint) (r : Reply) :
    (s.sendReply d r).out = s.out ++ [.udp 46210 d r.bytes] := rfl

/-- A stamp takes the next event sequence number (R102). -/
@[simp] theorem stamp_eventSeq (s : State) : s.stamp.2.net.eventSeq = s.net.eventSeq + 1 := rfl
@[simp] theorem stamp_number (s : State) : s.stamp.1 = s.net.eventSeq + 1 := rfl

/-! The state in which a command acts differs from the one that took it by its stamp and the reply's open time. -/

variable (s : State) (o : Op) (p : Packet) (n : Session)

@[simp] theorem atStamp_fuses : (s.atStamp o nothing p n).2.fuses = s.fuses := rfl
@[simp] theorem atStamp_flash : (s.atStamp o nothing p n).2.flash = s.flash := rfl
@[simp] theorem atStamp_set : (s.atStamp o nothing p n).2.set = s.set := rfl
@[simp] theorem atStamp_clock : (s.atStamp o nothing p n).2.clock = s.clock := rfl
@[simp] theorem atStamp_cmds : (s.atStamp o nothing p n).2.cmds = s.cmds := rfl
@[simp] theorem atStamp_nextCmd : (s.atStamp o nothing p n).2.nextCmd = s.nextCmd := rfl
@[simp] theorem atStamp_parts : (s.atStamp o nothing p n).2.parts = s.parts := rfl
@[simp] theorem atStamp_mem : (s.atStamp o nothing p n).2.mem = s.mem := rfl
@[simp] theorem atStamp_cores : (s.atStamp o nothing p n).2.cores = s.cores := rfl
@[simp] theorem atStamp_kv : (s.atStamp o nothing p n).2.kv = s.kv := rfl
@[simp] theorem atStamp_seqs : (s.atStamp o nothing p n).2.seqs = s.seqs := rfl
@[simp] theorem atStamp_watch : (s.atStamp o nothing p n).2.watch = s.watch := rfl
@[simp] theorem atStamp_zhevub : (s.atStamp o nothing p n).2.zhevub = s.zhevub := rfl
@[simp] theorem atStamp_codec : (s.atStamp o nothing p n).2.codec = s.codec := rfl
@[simp] theorem atStamp_boot : (s.atStamp o nothing p n).2.boot = s.boot := rfl
@[simp] theorem atStamp_fw : (s.atStamp o nothing p n).2.fw = s.fw := rfl
@[simp] theorem atStamp_ctrs : (s.atStamp o nothing p n).2.ctrs = s.ctrs := rfl
@[simp] theorem atStamp_phys : (s.atStamp o nothing p n).2.phys = s.phys := rfl
@[simp] theorem atStamp_pending : (s.atStamp o nothing p n).2.pending = s.pending := rfl
@[simp] theorem atStamp_out : (s.atStamp o nothing p n).2.out = s.out := rfl
@[simp] theorem atStamp_sessions : (s.atStamp o nothing p n).2.net.sessions = s.net.sessions := rfl
@[simp] theorem atStamp_windows : (s.atStamp o nothing p n).2.net.windows = s.net.windows := rfl
@[simp] theorem atStamp_eventSeq : (s.atStamp o nothing p n).2.net.eventSeq = s.net.eventSeq + 1 := rfl
@[simp] theorem atStamp_seq : (s.atStamp o nothing p n).1.seq = s.net.eventSeq + 1 := rfl
@[simp] theorem atStamp_stamp (before : Ctx → State → State) :
    (s.atStamp o before p n).1.stamp = s.replyTime (replyBound o p) := rfl
@[simp] theorem atStamp_session (before : Ctx → State → State) : (s.atStamp o before p n).1.session = n.id := rfl
@[simp] theorem atStamp_part (before : Ctx → State → State) :
    (s.atStamp o before p n).1.part = p.partition.toNat := rfl
@[simp] theorem atStamp_params (before : Ctx → State → State) :
    (s.atStamp o before p n).1.params = p.params.drop (prefixLen p) := rfl
@[simp] theorem atStamp_packet (before : Ctx → State → State) : (s.atStamp o before p n).1.p = p := rfl

/-! An answer is the effect, the record of the reply in its session, and the reply. -/

variable (before : Ctx → State → State) (effect : Ctx → State → State × List Byte)

@[simp] theorem answer_fuses : (s.answer o before effect p n).fuses
    = (effect (s.atStamp o before p n).1 (s.atStamp o before p n).2).1.fuses := rfl
@[simp] theorem answer_flash : (s.answer o before effect p n).flash
    = (effect (s.atStamp o before p n).1 (s.atStamp o before p n).2).1.flash := rfl
@[simp] theorem answer_set : (s.answer o before effect p n).set
    = (effect (s.atStamp o before p n).1 (s.atStamp o before p n).2).1.set := rfl
@[simp] theorem answer_clock : (s.answer o before effect p n).clock
    = (effect (s.atStamp o before p n).1 (s.atStamp o before p n).2).1.clock := rfl
@[simp] theorem answer_cmds : (s.answer o before effect p n).cmds
    = (effect (s.atStamp o before p n).1 (s.atStamp o before p n).2).1.cmds := rfl
@[simp] theorem answer_nextCmd : (s.answer o before effect p n).nextCmd
    = (effect (s.atStamp o before p n).1 (s.atStamp o before p n).2).1.nextCmd := rfl
@[simp] theorem answer_parts : (s.answer o before effect p n).parts
    = (effect (s.atStamp o before p n).1 (s.atStamp o before p n).2).1.parts := rfl
@[simp] theorem answer_mem : (s.answer o before effect p n).mem
    = (effect (s.atStamp o before p n).1 (s.atStamp o before p n).2).1.mem := rfl
@[simp] theorem answer_cores : (s.answer o before effect p n).cores
    = (effect (s.atStamp o before p n).1 (s.atStamp o before p n).2).1.cores := rfl
@[simp] theorem answer_kv : (s.answer o before effect p n).kv
    = (effect (s.atStamp o before p n).1 (s.atStamp o before p n).2).1.kv := rfl
@[simp] theorem answer_seqs : (s.answer o before effect p n).seqs
    = (effect (s.atStamp o before p n).1 (s.atStamp o before p n).2).1.seqs := rfl
@[simp] theorem answer_watch : (s.answer o before effect p n).watch
    = (effect (s.atStamp o before p n).1 (s.atStamp o before p n).2).1.watch := rfl
@[simp] theorem answer_zhevub : (s.answer o before effect p n).zhevub
    = (effect (s.atStamp o before p n).1 (s.atStamp o before p n).2).1.zhevub := rfl
@[simp] theorem answer_codec : (s.answer o before effect p n).codec
    = (effect (s.atStamp o before p n).1 (s.atStamp o before p n).2).1.codec := rfl
@[simp] theorem answer_boot : (s.answer o before effect p n).boot
    = (effect (s.atStamp o before p n).1 (s.atStamp o before p n).2).1.boot := rfl
@[simp] theorem answer_fw : (s.answer o before effect p n).fw
    = (effect (s.atStamp o before p n).1 (s.atStamp o before p n).2).1.fw := rfl
@[simp] theorem answer_phys : (s.answer o before effect p n).phys
    = (effect (s.atStamp o before p n).1 (s.atStamp o before p n).2).1.phys := rfl
@[simp] theorem answer_pending : (s.answer o before effect p n).pending
    = (effect (s.atStamp o before p n).1 (s.atStamp o before p n).2).1.pending := rfl
@[simp] theorem answer_fresh : (s.answer o before effect p n).fresh
    = (effect (s.atStamp o before p n).1 (s.atStamp o before p n).2).1.fresh := rfl

/-- The reply of an answer (R85). -/
def answerReply : Reply :=
  { seq := p.seq.toNat, status := 0, cause := 0, eventSeq := (s.atStamp o before p n).1.seq,
    mediaTime := s.replyTime (replyBound o p),
    data := (effect (s.atStamp o before p n).1 (s.atStamp o before p n).2).2 }

theorem answer_out : (s.answer o before effect p n).out
    = (effect (s.atStamp o before p n).1 (s.atStamp o before p n).2).1.out
      ++ [.udp 46210 p.src (answerReply s o p n before effect).bytes] := rfl

theorem answer_net : (s.answer o before effect p n).net
    = ((effect (s.atStamp o before p n).1 (s.atStamp o before p n).2).1.modSession n.id
        (·.record (answerReply s o p n before effect))).net := rfl

/-! A refusal takes a stamp, records its reply where a session keeps it, and sends it. -/

variable (id : Option Nat) (bound : Nat) (b : Bad)

@[simp] theorem refuse_fuses : (s.refuse p id bound b).fuses = s.fuses := by cases id <;> rfl
@[simp] theorem refuse_flash : (s.refuse p id bound b).flash = s.flash := by cases id <;> rfl
@[simp] theorem refuse_set : (s.refuse p id bound b).set = s.set := by cases id <;> rfl
@[simp] theorem refuse_clock : (s.refuse p id bound b).clock = s.clock := by cases id <;> rfl
@[simp] theorem refuse_cmds : (s.refuse p id bound b).cmds = s.cmds := by cases id <;> rfl
@[simp] theorem refuse_nextCmd : (s.refuse p id bound b).nextCmd = s.nextCmd := by cases id <;> rfl
@[simp] theorem refuse_parts : (s.refuse p id bound b).parts = s.parts := by cases id <;> rfl
@[simp] theorem refuse_mem : (s.refuse p id bound b).mem = s.mem := by cases id <;> rfl
@[simp] theorem refuse_cores : (s.refuse p id bound b).cores = s.cores := by cases id <;> rfl
@[simp] theorem refuse_kv : (s.refuse p id bound b).kv = s.kv := by cases id <;> rfl
@[simp] theorem refuse_seqs : (s.refuse p id bound b).seqs = s.seqs := by cases id <;> rfl
@[simp] theorem refuse_watch : (s.refuse p id bound b).watch = s.watch := by cases id <;> rfl
@[simp] theorem refuse_zhevub : (s.refuse p id bound b).zhevub = s.zhevub := by cases id <;> rfl
@[simp] theorem refuse_codec : (s.refuse p id bound b).codec = s.codec := by cases id <;> rfl
@[simp] theorem refuse_boot : (s.refuse p id bound b).boot = s.boot := by cases id <;> rfl
@[simp] theorem refuse_fw : (s.refuse p id bound b).fw = s.fw := by cases id <;> rfl
@[simp] theorem refuse_phys : (s.refuse p id bound b).phys = s.phys := by cases id <;> rfl
@[simp] theorem refuse_pending : (s.refuse p id bound b).pending = s.pending := by cases id <;> rfl

theorem refuse_out : (s.refuse p id bound b).out = s.out ++ [.udp 46210 p.src (Reply.bytes
    { seq := p.seq.toNat, status := b.status, cause := b.cause, eventSeq := s.net.eventSeq + 1,
      mediaTime := s.replyTime bound, data := b.data })] := by cases id <;> rfl

end Sys2Proof.Machine
end

