-- ==== Sys2Proof/WellFormed.lean ====
section
/-! DEFINITION. The operands each command admits: the ranges that its row's chapter gives them. -/

namespace Sys2Proof

/-- A logical core number (04 R116). -/
def coreOk (n : Nat) : Bool := decide (n < 128)
/-- A link number (01 R10). -/
def linkOk (n : Nat) : Bool := decide (n < 64)
/-- A stack number (01 R10). -/
def stackOk (n : Nat) : Bool := decide (n < 32)
/-- A partition number (15 R469). -/
def partitionOk (n : Nat) : Bool := decide (n < 16)
/-- A hearth die number (01 R10). -/
def dieOk (n : Nat) : Bool := decide (n < 4)
/-- A codec engine number (16 R495). -/
def engineOk (n : Nat) : Bool := decide (n < 4)
/-- An I3C address, 7 bits (20 R599). -/
def i3cOk (n : Nat) : Bool := decide (n < 128)

/-- The packet's parameters are the UDP payload less the 32-byte header (03 R65). A payload shorter than the header
carries none. -/
def packetOk (p : Packet) : Bool := decide (p.params.length = p.udpLength - 32)

/-- The payload is what lies after the 16-byte header (03 R108). -/
def flueOk (f : FluePacket) : Bool := decide (f.payload.length < 65536)

/-- The values fit COUNT words of a packet (17 R514). -/
def rapOk (r : RapPacket) : Bool := decide (r.values.length ≤ 256)

/-- A frame of a link of the module with at most 4,096 payload bytes (14 R435). -/
def frameOk (f : Frame) : Bool := linkOk f.link && decide (f.payload.length ≤ 4096)

def outcomeOk (o : LinkOutcome) : Bool :=
  linkOk o.link && decide (o.width ∈ [0, 1, 2, 4]) && decide (o.passed ∈ [0, 1, 2, 4]) && decide (o.passed ≤ o.width)

/-- The UDP ports the module serves: Nervia, Flue, RAP and PTP (02 R22, 03 R62). -/
def servedPorts : List Nat := [46210, 46211, 46212, 319, 320]

/-- A physical core of a die, 36 to a die (17 R524, R525). -/
def physicalOk (x : Nat × Nat) : Bool := dieOk x.1 && decide (x.2 < 36)

/-- Byte `i` of the parameters names the sub-operation `v` of the `n` its chapter defines; a reserved value names none
and a packet too short to have the byte may stand under any row (07 R223, 08 R289, 12 R382, 17 R534, 19 R586, R589). -/
def subOp (p : Packet) (i v n : Nat) : Bool :=
  packetOk p && (match p.params[i]? with
    | some b => decide (b.toNat = v) || decide (n ≤ b.toNat)
    | none => true)

/-- SEQ_OPEN carries REVIVE, bit 1 of SEQ_FLAGS, or not (09 R302). -/
def reviveOk (p : Packet) (flag : Bool) : Bool :=
  packetOk p && (match p.params[31]? with
    | some b => b.toNat.testBit 1 == flag
    | none => true)

/-- COLL_GROUP carries MEMBERS 0, which deletes the group, or not (14 R444). -/
def membersOk (p : Packet) (zero : Bool) : Bool :=
  packetOk p && (match p.params[4]?, p.params[5]? with
    | some a, some b => decide (a.toNat = 0 ∧ b.toNat = 0) == zero
    | _, _ => true)

/-- The operands of a command lie in their ranges. -/
def Instr.wellFormed : Instr → Bool
  | .hello p | .caps p | .bye p | .notifyAck p | .alloc p | .freeAlloc p | .flueOpen p | .flueClose p
  | .loadImage p | .unloadImage p | .launch p | .seqStep p | .seqClose p | .seqQuery p | .collPost p
  | .codecOpen p | .codecPush p | .codecClose p | .stepBegin p | .stepCommit p | .stepAbort p | .ctrConfig p
  | .fwStage p | .fwRelay p | .fwArm p | .fwDisarm p | .attest p | .partCreate p | .partDestroy p
  | .damperSet p | .regRead p | .regWrite p => packetOk p
  | .unknownOpcode p _ => packetOk p
  | .setMobility p => subOp p 8 0 4
  | .setOwner p => subOp p 8 1 4
  | .touch p => subOp p 8 2 4
  | .promote p => subOp p 8 3 4
  | .bindSeq p => subOp p 10 0 7
  | .appendPages p => subOp p 10 1 7
  | .replacePages p => subOp p 10 2 7
  | .truncate p => subOp p 10 3 7
  | .ptFree p => subOp p 10 4 7
  | .carve p => subOp p 10 5 7
  | .ptState p => subOp p 10 6 7
  | .setPolicy p => subOp p 0 0 3
  | .setEntries p => subOp p 0 1 3
  | .clearAll p => subOp p 0 2 3
  | .ctrFreezeNow p => subOp p 0 0 2
  | .ctrFreezeAtBoundary p => subOp p 0 1 2
  | .ctrReadLive p => subOp p 0 0 3
  | .ctrReadSnapshot p => subOp p 0 1 3
  | .ctrReadSampleState p => subOp p 0 2 3
  | .resetCore p => subOp p 0 0 5
  | .resetCluster p => subOp p 0 1 5
  | .resetPartition p => subOp p 0 2 5
  | .resetWarm p => subOp p 0 3 5
  | .resetPowerOn p => subOp p 0 4 5
  | .seqOpen p => reviveOk p false
  | .revive p => reviveOk p true
  | .collGroup p => membersOk p false
  | .collGroupDelete p => membersOk p true
  | .flueData f | .flueCredit f => flueOk f
  | .rapRead r | .rapWrite r | .claim r | .releaseRap r => rapOk r
  | .matmul _ core | .conv3d _ core | .attn _ core | .attnHalfRelease _ core | .eltwise _ core
  | .preload _ core | .flameTableLoad _ core | .rowstat _ core | .norm _ core | .updateLayer _ core
  | .rootMatrix _ core | .copyTensor _ core | .reduceFp32 _ core | .reduceBf16 _ core | .atomic _ core
  | .sendMsg _ core | .mailboxSlotGrant _ core | .recv _ core | .waitCounter _ core | .clusterBarrier _ core
  | .waitMailbox _ core | .waitSatisfied _ core | .fenceCore _ core | .fenceDie _ core | .fenceModule _ core
  | .bankchk _ core => coreOk core
  | .macroRetire _ core _ => coreOk core
  | .hobScrub _ core address => coreOk core && decide (address < 0x800000)
  | .chunk _ f | .linkCredit _ f | .linkAck _ f | .linkNak _ f | .abortFrame _ f | .chunkAcknowledge _ f
  | .settleReport _ f | .retract _ f | .relayRoute _ f | .relayData _ f | .relayReport _ f
  | .chunkRequestedAgain _ f => frameOk f
  | .unknownFrameKind _ f kind => frameOk f && decide (kind.toNat = 0 ∨ 7 ≤ kind.toNat)
  | .laneLockLoss _ link | .linkCrcFailure _ link | .linkFecError _ link _ => linkOk link
  | .linkRetrain _ o => outcomeOk o
  | .linkTraining _ outcomes | .prbs31Check _ outcomes => outcomes.all outcomeOk
  | .powerStateExitDone _ failedStacks outcomes => failedStacks.all stackOk && outcomes.all outcomeOk
  | .hbmTraining _ failed => failed.all stackOk
  | .fuseReadout _ crcBad => crcBad.all dieOk
  | .bist _ badCores badDies => badCores.all physicalOk && badDies.all dieOk
  | .coreFirmwareDistribution _ failedTwice => failedTwice.all physicalOk
  | .flashProgBuffer _ values => decide (values.length ≤ 256)
  | .thermalSample _ temps => decide (temps.length ≤ 32)
  | .thermalLevelFall _ stack => stackOk stack
  | .supplyWarning _ die _ | .supplySustained _ die _ | .supplyRecovered _ die _ | .supplyResetLevel _ die _
  | .chunkSend _ die => dieOk die
  | .codecUnitEnd _ engine => engineOk engine
  | .stepCommitPublish _ partition | .ctrFreezeInstant _ partition | .partResetDrained _ partition => partitionOk partition
  | .flueAckTimer _ partition window => partitionOk partition && decide (window < 256)
  | .frameSyncLost _ partition gridId => partitionOk partition && decide (gridId < 65536)
  | .hbmScrub _ partition _ => partitionOk partition
  | .collWaitLimit _ tag => decide (tag < 65536)
  | .otherUdpPort _ port => decide (port.toNat ∉ servedPorts)
  | .echoRequest _ _ _ body => decide (body.length < 65536)
  | .entdaa _ address | .getpid _ address | .getbcr _ address | .getdcr _ address | .getstatus _ address
  | .getmxds _ address | .enec _ address _ | .disec _ address _ => i3cOk address
  | .setdasa _ static address => i3cOk static && i3cOk address
  | .i3cPrivateWrite _ address _ | .i3cPrivateRead _ address _ _ => i3cOk address
  | .flueReadBurst _ | .fwStageVerify _ | .relayTimeout _ | .fwActivating _ | .attestQuote _
  | .heartwoodStore _ | .warmReset _ | .powerOnReset _ | .autoResume _ | .stokeBoundary _ | .damperRefill _
  | .sourceLost _ | .holdoverExpiry _ | .mtStepped _ | .ppsAbsent _ | .ipFragment _ | .coreEnableApply _
  | .stokerFirmwareLoad _ | .ready _ | .kindleStepComplete _ | .powerTargetRun _ | .powerTargetS1 _
  | .powerTargetS2 _ | .powerTargetS3 _ | .powerStateEntry _ | .pwrEnHigh _ | .pwrGood _ | .pwrEnLow _
  | .rstdaa _ | .portWindowEnd _ | .fsyncAbsent _ | .pauseFrame _ => true
  | .freeGranulesReturn _ _ | .tierMove _ _ | .imageCheck _ _ | .mtCtrlWrite _ _ | .mtSetSecondsWrite _ _
  | .launchEnd _ _ | .stallLimit _ _ | .batchClose _ _ | .ptpSync _ _ | .ptpAnnounce _ _ | .ppsInEdge _ _
  | .frameSyncInPulse _ _ | .notifyRetry _ _ | .sessionTimeout _ _ | .ringExpiry _ _ | .collSettleLimit _ _
  | .flashProgSlot _ _ | .resetNLow _ _ | .i3cOtherCcc _ _ => true
  | .arpRequest _ _ _ | .neighbourDiscovery _ _ _ | .vinOutOfRange _ _ _ => true

end Sys2Proof
end

