-- ==== Sys2Proof/Tests/Slice0.lean ====
section
/-! SUPPORT. The model's own tests: ill-formed operands refused, and for every statement with hypotheses a state and
operands that meet them. -/

namespace Sys2Proof.Tests

open Sys2Proof.Machine Sys2Proof.Claims

/-! ## A small module: ready, one session, one partition -/

def host : Endpoint := { ip := .v4 0x0A000002, port := 40000 }
def moduleIp : IpAddr := .v4 0x0A000001

def session : Session :=
  { peer := host, version := 0x10, id := 1, notifyPort := 40001, partMask := 0xFFFF, eventMask := 0xFFFFFFFF, helloSeq := 1,
    first := true, high := 1, stored := [], lastActive := 0, opened := true, endedAt := 0, ring := Ring.fresh 0 }

def damper : Damper :=
  { rate := 0xFFFFFFFF, burst := 0, tokens := 0, waiting := [], waitUs := 0, waited := false }

def partition : Partition :=
  { num := 0, clusters := 1, slotQuota := 64, seqQuota := 8, windowQuota := 8, fbFloor := 0, fbCeiling := 4096, wsFloor := 0,
    wsCeiling := 4096, dampers := List.replicate 5 damper, resetting := false, resetCmd := 0, destroying := 0, ended := [] }

/-- READY, with core 0 enabled. -/
def ready : State :=
  { State.reset with
    boot.mode := .ready, boot.stepDone := 11
    net.sessions := [session], net.nextSession := 2, net.useV4 := some 0x0A000001
    parts := [partition]
    cores := State.reset.cores.set 0 { CoreSt.reset with phys := some 0 } }

/-- A packet of the session with intact parameters. -/
def packet (part : Byte) (params : List Byte) : Packet :=
  { dt := 0, src := host, dst := moduleIp, udpLength := 32 + params.length, magic := 0x4958, version := 0x10, flags := 0,
    partition := part, jobTag := 0, seq := 2, deadline := 0, paramLength := BitVec.ofNat 32 params.length,
    paramCrc := BitVec.ofNat 32 (crc32c params), params := params }

/-- No time and no error. -/
def now : Env := { dt := 0, errs := [] }

/-- An allocation of one granule, PINNED, in the Woodshed tier. -/
def alloc (handle base : Nat) : Alloc :=
  { handle := handle, partition := 0, base := base, granules := 1, tier := .woodshed, hbmSet := [4], first := 0,
    affinity := none, evictable := false, owner := 0, kv := false, carved := false, accessed := false, lastUse := 0,
    promote := false }

/-- `ready`, its stacks in service, with allocation 1. -/
def world : State :=
  { ready with
    mem.hbmSet := List.replicate 32 { Stack.reset with inService := true }
    mem.allocs := [alloc 1 0x200000], mem.nextHandle := 2, mem.placedWs := 1 }

/-- A link that trained at full width and passed. -/
def goodOutcome (link : Nat) : LinkOutcome :=
  { link := link, peerSeen := true, width := 4, lanes := 15, passed := 4, passedLanes := 15, peerSerial := 1, peerMin := 0x10,
    peerMax := 0x10 }
def plainFrame (link : Nat) (payload : List Byte) : Frame :=
  { link := link, hops := 0, frameSeq := 0, dest := 0, src := 0, groupTag := 0, ackSeq := 0, payload := payload }
def plainFlue (payload : List Byte) : FluePacket :=
  { dt := 0, src := host, dst := moduleIp, magic := 0x4958, partition := 0, windowId := 0, windowGen := 0,
    payloadLength := 0, burstSeq := 0, payloadCrc := 0, payload := payload }
def plainRap (values : List W32) : RapPacket :=
  { dt := 0, src := host, magic := 0x4958, kind := 0x52, seq := 0, address := 0, count := 1, status := 0, values := values,
    crc := 0 }

/-- A HELLO of another host port, with NOTIFY_PORT 40003. -/
def helloPacket : Packet :=
  let p := packet 255 ([0x10, 0x10, 0, 0] ++ beBytes 2 40003 ++ beBytes 2 0xFFFF ++ beBytes 4 0 ++ zeros 12)
  { p with src := { host with port := 40002 }, seq := 1 }

def later : Env := { dt := 100000000000, errs := [] }

/-- 5 µs later. -/
def soon : Env := { dt := 5000, errs := [] }

def endedSession : Session := { session with opened := false }
def closed : State := { ready with net.sessions := [endedSession] }

/-- A packet whose parameters fail their CRC. -/
def badCrc : Packet := { packet 255 [1] with paramCrc := 0 }
def notReady : State := { ready with boot.mode := .kindling }
/-- The session has answered SEQ 2. -/
def storedReply : Reply := { seq := 2, status := 0, cause := 0, eventSeq := 1, mediaTime := 0, data := [] }
def answeredSession : Session := { session with high := 2, first := false, stored := [storedReply] }
def answeredOnce : State := { ready with net.sessions := [answeredSession] }

def kindlerPeer : Endpoint := { host with port := 5 }
/-- A session that has come far, and a SEQ 100,000 before it. -/
def lateSession : Session := { session with high := 200000, first := false }
def readyLate : State := { ready with net.sessions := [lateSession] }
def staleSeq : W32 := 100000
def badHello : Packet := { helloPacket with paramCrc := 0 }

/-- An owner for an EVICTABLE allocation. -/
def sequence (handle : Nat) (st : SeqState) : Seq :=
  { handle := handle, index := 0, state := st, partition := 0, refine := false, priority := 1, batchMax := 1,
    refreshPeriod := 4, batchWait := 0, model := 0, grid := none, binding := none, passesDone := 0, lastRun := 0,
    resultHandle := 0, resultOffset := 0, resultBytes := 0, tilesComputed := 0, tilesReused := 0, coreSet := 0, closing := 0,
    closedSeq := 0 }

/-- `world`, with sequence 5 that owns EVICTABLE allocation 2. -/
def owned : State :=
  { world with
    seqs.table := [sequence 5 .ready]
    mem.allocs := [alloc 1 0x200000, { alloc 2 0x400000 with evictable := true, owner := 5 }], mem.nextHandle := 3 }

def freed : State := { world with mem.allocs := [], mem.freed := [{ alloc := alloc 1 0x200000, before := 1 }] }

/-- Allocation 2 in the Firebox tier, and fewer free granules there than FB_LOW_WATER. -/
def evictable : Alloc := { alloc 2 0x400000 with evictable := true, owner := 5, tier := .firebox }
def crowded : State :=
  { owned with mem.allocs := [alloc 1 0x200000, evictable], set.fbLowWater := 1000000, set.fbHighWater := 1000001 }

/-- Allocation 2 in the Woodshed tier, a promotion of it asked for. -/
def promoted : Alloc := { evictable with tier := .woodshed, promote := true }
def roomy : State := { owned with mem.allocs := [alloc 1 0x200000, promoted], set.fbLowWater := 0, set.fbHighWater := 1 }

def freedEntry : Freed := { alloc := alloc 1 0x200000, before := 1 }
def allocParams : List Byte := beBytes 8 3000000 ++ beBytes 4 0x19 ++ [1, 0, 0, 0] ++ beBytes 8 5 ++ zeros 8
def hintParams (kind mobility : Byte) (owner : Nat) : List Byte := beBytes 8 2 ++ [kind, mobility] ++ zeros 6 ++ beBytes 8 owner

/-- A window of two rows of 96 bytes, 128 apart, in bursts of 128 bytes, over allocation 1. -/
def window (read : Bool) : Window :=
  { partition := 0, id := 3, gen := 7, session := 1, handle := 1, start := 64, rowLength := 96, rowCount := 2, rowPitch := 128,
    read := read, burstSize := 128, hostPort := 40005, hint := 0, burstCount := 2, creditLimit := 2, cumSeq := 0, beyond := [],
    sinceAck := 0, lastBurst := none, next := 0, sent := 0 }

def writing : State := { world with net.windows := [window false] }
def reading : State := { world with net.windows := [window true] }

/-- Burst 0 of the write window has been written and not yet acknowledged. -/
def halfWritten : Window := { window false with cumSeq := 1, sinceAck := 1, lastBurst := some 0 }
def writingHalf : State := { world with net.windows := [halfWritten] }

def fluePacket (n : Nat) (payload : List Byte) : FluePacket :=
  { dt := 0, src := host, dst := moduleIp, magic := 0x4958, partition := 0, windowId := 3, windowGen := 7,
    payloadLength := BitVec.ofNat 16 payload.length, burstSeq := BitVec.ofNat 32 n,
    payloadCrc := BitVec.ofNat 32 (crc32c payload), payload := payload }

/-- FLUE_OPEN of window 4: 2 rows of 96 bytes, 128 apart, for writing, in bursts of 256 bytes. -/
def openParams : List Byte :=
  beBytes 8 1 ++ beBytes 8 0 ++ beBytes 4 96 ++ beBytes 4 2 ++ beBytes 8 128 ++ [0, 4] ++ beBytes 2 256 ++ beBytes 2 40005
    ++ zeros 10

def burstOne : FluePacket := fluePacket 1 (List.replicate 64 0xAB)
def burstZero : FluePacket := fluePacket 0 (List.replicate 128 0xAB)
def creditPacket : FluePacket := fluePacket 0xFFFFFFFF (beBytes 4 2 ++ zeros 4)

/-- An image for one core: one PROGRAM section with one WAIT entry at hob address 0, and its checksum. -/
def imageBody : List Byte :=
  leBytes 4 0x50385849 ++ leBytes 2 1 ++ leBytes 2 64 ++ leBytes 4 0 ++ leBytes 2 1 ++ leBytes 2 1 ++ leBytes 8 152
    ++ leBytes 4 64 ++ leBytes 4 84 ++ leBytes 4 0 ++ leBytes 4 0 ++ leBytes 8 0 ++ zeros 16
    ++ leBytes 2 0 ++ leBytes 2 1 ++ leBytes 4 80 ++ leBytes 2 0 ++ leBytes 2 0 ++ leBytes 4 0xFFFFFFFF
    ++ leBytes 2 0 ++ zeros 2
    ++ leBytes 8 116 ++ leBytes 4 32 ++ leBytes 4 0 ++ [0, 0, 0, 0] ++ leBytes 4 (crc32c (0x11 :: zeros 31)) ++ zeros 8
    ++ 0x11 :: zeros 31
def imageBytes : List Byte := imageBody ++ leBytes 4 (crc32c imageBody)

def image (loaded : Bool) : Image :=
  { handle := 9, partition := 0, bytes := imageBytes, poisoned := false, loaded := loaded, granules := 1, hbmSet := [4],
    first := 0 }

/-- The same, a byte of its padding struck. -/
def badImage : Image := { image false with bytes := imageBytes.set 100 1 }

/-- A command of the session in flight. -/
def command (opcode : Nat) (work : Work) : Cmd :=
  { id := 1, opcode := opcode, session := 1, seq := 2, jobTag := 0, partition := 0, deadline := 0, contract := false, replays := 0,
    reserved := Reservation.empty, costImage := 0, costId := 0, replySeq := 0, replyTime := 0, dies := [], hbmSet := [], links := [],
    strikes := [], poisoned := false, tainted := false, journal := 0, replayed := 0, work := work }

/-- The image's header stands in allocation 1. -/
def staged : State := { world with mem.cells := cellSetN [] 0x200000 (imageBytes.take 64) }
def copying : State :=
  { world with cmds := [command 0x0200 (.loadImage 9)], nextCmd := 2, mem.images := [image false], mem.nextImage := 10 }
def copyingBad : State := { copying with mem.images := [badImage] }
def loadedWorld : State := { world with mem.images := [image true], mem.nextImage := 10 }

def launchParams : List Byte := beBytes 8 9 ++ beBytes 16 1 ++ beBytes 2 0 ++ beBytes 2 4 ++ zeros 4 ++ [1, 2, 3, 4]

/-- A run of image 9 for command 1. -/
def launchRun (started : Bool) : Run :=
  { Run.blank with id := 3, kind := .launch 1, image := 9, partition := 0, cores := [0], started := started }

def launched : State :=
  { loadedWorld with
    cmds := [command 0x0202 (.launch 3)], nextCmd := 2, seqs.nextId := 4
    seqs.runs := [launchRun false] }
/-- Core 0 has retired its last macro-instruction of run 3. -/
def finishedRun : State :=
  { launched with
    seqs.runs := [launchRun true]
    cores := launched.cores.set 0 { CoreSt.reset with phys := some 0, run := 3, progLen := 1, next := 1, finished := true } }
/-- Core 0 of run 3 has been stalled since steady time 0. -/
def stalledRun : State :=
  { launched with
    seqs.runs := [launchRun true]
    cores := launched.cores.set 0 { CoreSt.reset with phys := some 0, run := 3, progLen := 1, next := 1, stalledSince := some 0 } }

def afterBoundary : State := onBoundary later launched
def sleepy : State := { world with boot.pstate := .s1, parts := [] }
def sleepless : State := { world with boot.target := 1, parts := [] }

def openSeqParams (flags handle : Nat) : List Byte :=
  beBytes 8 9 ++ zeros 16 ++ [0, 1, 1, 0] ++ beBytes 2 0 ++ beBytes 2 flags ++ zeros 24 ++ zeros 24 ++ beBytes 8 handle
def stepParams : List Byte := beBytes 8 5 ++ beBytes 2 1 ++ zeros 6 ++ zeros 8 ++ List.replicate 16 7 ++ zeros 8

def emptyLayer : Layer := { generation := 0, pages := [], boughs := 0, half := 0, fill := 0, length := 0 }
/-- One layer of pages of 16 tokens, one head of 64 values, BF16. -/
def binding : Binding :=
  { geometry := 0, layers := 1, layout := 0, basePos := 0, frameTokens := 0, rowTokens := 0, staging := 0, stagingOffset := 0,
    tables := [emptyLayer] }
def bound (st : SeqState) : Seq := { sequence 5 st with model := 9, binding := some binding }
def decoding (st : SeqState) : State := { loadedWorld with seqs.table := [bound st], seqs.nextSeq := 6 }

def seqStep : SeqStep :=
  { id := 3, cmd := 1, seq := 5, passes := 1, passIndex := 0, release := 0, args := zeros 16, passesRun := 0, forced := 0,
    computed := 0, reused := 0, batchCount := 0, cyclesMax := 0, attempt := 0, batch := 4 }
def stepping : State :=
  { decoding .ready with
    seqs.steps := [seqStep], seqs.nextId := 5, cmds := [command 0x0211 (.seqStep 3)], nextCmd := 2 }
def batch : Batch :=
  { id := 4, partition := 0, model := 9, batchMax := 8, batchWait := 100, members := [3], lead := 1, start := 0, closeAt := 100000,
    closed := false, launched := false }
def batching : State := { stepping with seqs.batches := [batch] }

/-- Pages of 256 tokens, one head of 64 8-bit values. -/
def geometry : Nat := 0x148
/-- Frames 0 to 2 of allocation 1: 0 FREE, 1 and 2 in use with the tags of pages 0 and 1. -/
def frame (n : Nat) (st : FrameState) : PageFrame :=
  { num := n, dataVa := 0x200000 + n * 32768, sidecarVa := 0x300000 + n * 1024, refcount := if st = .used then 1 else 0, partition := 0,
    state := st, geometry := geometry, pageScale := 0, tagFlags := 0, t0 := 0, t1 := 0, y0 := 0, y1 := 0, x0 := 0, x1 := 0,
    listOwner := 0, alloc := 1 }
def paged : Binding :=
  { binding with geometry := geometry, staging := 1, tables := [{ emptyLayer with pages := [1, 2], boughs := 1, length := 512 }] }
def pagedSeq : Seq := { sequence 5 .ready with model := 9, binding := some paged }
def pages : State :=
  { decoding .ready with
    kv.frames := [frame 0 .free, frame 1 .used, frame 2 .used], kv.boughsUsed := 1, seqs.table := [pagedSeq]
    mem.allocs := [{ alloc 1 0x200000 with carved := true, kv := true }] }

def kvAlloc : Alloc := { alloc 1 0x200000 with kv := true }
def carving : State := { world with mem.allocs := [kvAlloc] }
def unbound : State := { decoding .ready with seqs.table := [{ sequence 5 .opened with model := 9 }] }

def editParams (layer : Nat) (op : Byte) (count first : Nat) (rest : List Byte) : List Byte :=
  beBytes 8 5 ++ beBytes 2 layer ++ [op, 0] ++ beBytes 4 count ++ beBytes 8 first ++ zeros 8 ++ rest
def bindParams : List Byte :=
  editParams 0 4 0 0 (beBytes 4 geometry ++ beBytes 2 1 ++ zeros 18 ++ beBytes 8 1 ++ zeros 8)
def carveParams : List Byte := editParams 0 6 0 0 (beBytes 8 1 ++ beBytes 4 geometry ++ beBytes 4 2)
def entryOf0 : List Byte := beBytes 4 0 ++ beBytes 4 0x3F800000 ++ zeros 8

def policyParams : List Byte :=
  [0, 0, 0, 0, 0, 0, 0, 0, 2, 4] ++ beBytes 2 9 ++ beBytes 4 0x41000000 ++ beBytes 2 256 ++ beBytes 2 1 ++ beBytes 4 0x3C000000
    ++ beBytes 2 64 ++ [16] ++ zeros 5 ++ zeros 24
/-- Entry 3: 64 bytes of allocation 1, VALID. -/
def entriesParams : List Byte :=
  [1, 0] ++ beBytes 2 3 ++ beBytes 2 1 ++ zeros 2 ++ beBytes 2 7 ++ [0, 1] ++ zeros 4 ++ beBytes 8 1 ++ beBytes 8 0 ++ beBytes 8 64
    ++ zeros 32

def oldEntry (index : Nat) : WatchEntry :=
  { index := index, layerId := 7, gradient := false, valid := true, jump := false, witness := false, fallbackOk := false, handle := 1,
    offset := 4096 * (index + 1), length := 64, templateHandle := 0, templateOffset := 0, wideBytes := 0, wideCycles := 0, norm := 0,
    silence := 0, holdLeft := 0, wide := false, flagged := false, stepKey := (0, 0), stepRescaled := false, stepWitnessed := false,
    stepFlagged := false, stepWidened := false, tapKey := (0, 0, 0), taps := Taps.none, lastRun := 0, disagreements := 0,
    worstRel := .fin false 0, worstCore := 0, since := 0, retired := none }
/-- Partition 0 watches entries 3 and 4. -/
def watched : State :=
  { world with
    watch.parts := [{ partition := 0, policy := Policy.initial, entries := [oldEntry 3, oldEntry 4], committed := 0 }] }

/-- An open journal over allocation 1: its first granule is shadowed, with byte 5 changed to 6. -/
def journal (st : JournalState) : Journal :=
  { handle := 8, partition := 0, allocs := [1], fbReserved := 0, wsReserved := 1, state := st, commitCmd := 0, cmds := [], ended := [],
    shadowed := [0x200000 / granuleBytes], shadow := [(0x200005, 6)], shadowPoison := [], attempt := 0, attempts := 1, widened := 0,
    flagged := 0, events := 0, failed := 0, failedCause := 0, wideningClosed := false, retracted := false }
def journalled : State := { world with watch.journals := [journal .opened], mem.cells := [(0x200005, 3), (0x200006, 4)] }
def committing : Journal := { journal .committing with commitCmd := 1 }
def publishing : State :=
  { journalled with watch.journals := [committing], cmds := [command 0x0711 (.stepCommit 8)], nextCmd := 2 }

def damperEntries : List Byte := (List.range 5).flatMap fun _ => beBytes 4 100 ++ beBytes 4 200
/-- PART_CREATE of partition 1 with cluster 1. -/
def createParams : List Byte :=
  [1, 0] ++ beBytes 2 2 ++ beBytes 2 8 ++ beBytes 2 4 ++ beBytes 2 4 ++ zeros 6 ++ beBytes 4 1 ++ beBytes 4 2 ++ beBytes 4 3
    ++ beBytes 4 4 ++ damperEntries
/-- Cores 0 and 8 are enabled: clusters 0 and 1 are up. -/
def twoClusters : State :=
  { world with cores := world.cores.set 8 { CoreSt.reset with phys := some 8 } }
def damperParams : List Byte := [5] ++ zeros 7 ++ damperEntries

/-- Partition 0 with a regulated MANTEL class. -/
def regulated : Partition :=
  { partition with dampers := partition.dampers.set 1 { damper with rate := 100, burst := 200, tokens := 5 } }
def regulatedState : State := { world with parts := [regulated] }

def busyCore : CoreSt :=
  { CoreSt.reset with phys := some 0, run := 3, progLen := 1, next := 1, events := List.replicate 32 7 }
/-- Partition 0 at work: an open window, and run 3 on core 0. -/
def busy : State :=
  { launched with
    seqs.runs := [launchRun true], net.windows := [window false]
    cores := launched.cores.set 0 busyCore }
def resetParams (kind : Byte) : List Byte := [kind] ++ zeros 7

/-- Partition 0 is being reset for command 1. -/
def resetting : Partition := { regulated with resetting := true, resetCmd := 1 }
def resettingState : State :=
  { world with parts := [resetting], cmds := [command 0x0F02 (.reset 2 0)], nextCmd := 2 }

/-- CTR_CONFIG of core 0: counter 0 counts event 1 from zero. -/
def countersParams : List Byte :=
  beBytes 2 0 ++ beBytes 2 1 ++ beBytes 2 1 ++ zeros 26 ++ [1, 2, 0, 0] ++ zeros 60
def samplingParams : List Byte := beBytes 2 0 ++ beBytes 2 2 ++ zeros 2 ++ [3, 0] ++ beBytes 8 1 ++ beBytes 8 0 ++ beBytes 4 64 ++ zeros 68

/-- Grid 6 with a boundary every millisecond. -/
def grid : Grid :=
  { num := 1, den := 1000, phase := 0, fsyncBound := false, gridId := 6, base := 0, baseK := 0, sinceK := 0, lost := false }
def gridded : State := { world with seqs.table := [{ sequence 5 .ready with grid := some grid }] }
def freezeParams (mode flags : Byte) : List Byte := [mode, flags] ++ beBytes 2 6 ++ zeros 4 ++ beBytes 8 40
/-- A freeze for command 1 that waits for boundary 40 of grid 6. -/
def freeze : Freeze := { partition := 0, cmd := 1, gridId := 6, boundary := 40, hold := true, ports := false }
def freezing : State :=
  { gridded with ctrs.freezes := [freeze], cmds := [command 0x0801 (.ctrFreeze 0)], nextCmd := 2 }
/-- A snapshot of core 0 has been taken. -/
def snapped : State :=
  { world with ctrs.parts := [{ PartCtr.initial 0 with snapId := 1, snap := [(0, 1, List.replicate 16 9)] }] }

/-- A freeze at boundary 40 of grid 6, and what it is taken with. -/
def freezePacket : Packet := packet 0 (freezeParams 1 1)
def freezeHeard : State := heard freezePacket session gridded
def freezeCtx : Ctx := freezeHeard.ctx opCtrFreeze freezePacket session

/-- CODEC_OPEN: an AV1 encoder of 64 × 128 at 25 frames a second, from allocation 1 into its upper part. -/
def codecParams : List Byte :=
  [0, 0, 0, 8] ++ beBytes 2 64 ++ beBytes 2 128 ++ [0, 0, 0, 0] ++ beBytes 2 64 ++ beBytes 2 128 ++ beBytes 4 1000000
    ++ beBytes 4 80000 ++ beBytes 4 40000 ++ beBytes 4 1000 ++ (beBytes 4 1 ++ beBytes 4 25 ++ zeros 10 ++ beBytes 2 6 ++ zeros 4)
    ++ beBytes 8 1 ++ beBytes 8 0 ++ beBytes 4 64 ++ beBytes 4 64 ++ beBytes 8 16384 ++ beBytes 8 1 ++ beBytes 8 0x100000
    ++ beBytes 8 4000 ++ beBytes 2 0 ++ [1, 0, 0, 255, 0] ++ zeros 9

/-- Its handle. -/
def encoder : Codec :=
  { handle := 12, partition := 0, engine := 0, hevc := false, decode := false, bitDepth := 8, width := 64, height := 128,
    planeLayout := 0, rotation := 0, colour := 0, vbr := false, srcWidth := 64, srcHeight := 128, bitrate := 1000000,
    cpbSize := 80000, initialDelay := 40000, maxFrameBytes := 1000
    grid := { num := 1, den := 25, phase := 0, fsyncBound := false, gridId := 6, base := 0, baseK := 0, sinceK := 0, lost := false }
    srcHandle := 1, srcOffset := 0, lumaPitch := 64, chromaPitch := 64, frameStride := 16384, dstHandle := 1,
    dstOffset := 0x100000, ringSize := 4000, keyInterval := 0, refFrames := 1, requantRows := 0, qMin := 0, qMax := 255,
    poolPictures := 0, closing := 0, nextBoundary := some 3, written := 0, releasedTo := 0, reservedEnd := 0, hostPics := 0,
    dpb := 0, refs := [], toOutput := [], fullness := 40000, keyCount := 0, keyPending := true, dropping := true }
def coding : State := { world with codec.handles := [encoder], mem.nextHandle := 13 }

/-- A push of `count` frames, in row `row` of frame 0. -/
def push (count row : Nat) : Push :=
  { id := 2, cmd := 1, handle := 12, frameCount := count, flags := 0, firstBoundary := 1, firstFrame := 0, aus := [], deadline := 0,
    frame := 0, row := row, kept := 0, coded := 0, requants := 0, done := [], poisoned := false }
def encoding (count row : Nat) : State :=
  { coding with
    codec.pushes := [push count row], codec.nextId := 3, cmds := [command 0x0601 (.codecPush 2)], nextCmd := 2
    codec.engines := coding.codec.engines.set 0 { coding.codec.engines.headD CodecEngine.reset with busy := true, unit := 2 } }
def pushParams : List Byte := beBytes 8 12 ++ beBytes 2 1 ++ zeros 6 ++ beBytes 8 3 ++ beBytes 8 0 ++ zeros 16

def ownSerial : Nat := State.reset.fuses.serial

/-- Four modules in a ring: this one is rank 0, link 0 leads to rank 1 and link 1 to rank 3. -/
def group : Group :=
  { tag := 7, partition := 0
    members := [{ serial := ownSerial, linkMask := 0 }, { serial := 201, linkMask := 1 }, { serial := 202, linkMask := 0 },
                { serial := 203, linkMask := 2 }]
    rank := 0, dims := 1, sizes := [4, 1, 1], sequence := 0, stale := false }

def upLink (peer : Nat) : Link := { Link.reset with state := .up, width := 2, lanes := 15, peerSerial := peer }
/-- Links 0 and 1 are UP. -/
def linked : State :=
  { world with zhevub.links := (world.zhevub.links.set 0 (upLink 201)).set 1 (upLink 203) }
def grouped : State := { linked with zhevub.groups := [group] }

/-- The next frame on link 0, from rank 1. -/
def frameOf (payload : List Byte) : Frame :=
  { link := 0, hops := 15, frameSeq := 0, dest := BitVec.ofNat 64 ownSerial, src := 201, groupTag := 7, ackSeq := 4, payload := payload }

/-- Frames 4 and 5 await their acknowledgement on link 0. -/
def sentFrame (n : Nat) : SentFrame := { kind := 1, frame := { frameOf [9] with frameSeq := BitVec.ofNat 32 n }, replays := 0 }
def unacknowledged : State :=
  { linked with zhevub.links := linked.zhevub.links.set 0 { upLink 201 with replay := [sentFrame 4, sentFrame 5] } }
def newer : List SentFrame := [sentFrame 5]

def outcome : LinkOutcome :=
  { link := 2, peerSeen := true, width := 4, lanes := 15, passed := 4, passedLanes := 15, peerSerial := 204, peerMin := 0x10,
    peerMax := 0x10 }
def retraining : State := { linked with set.linkRetrain := linked.set.linkRetrain.set 2 1 }

/-- The table of `group`, at the start of allocation 1. -/
def memberTable : List Byte :=
  (group.members.map fun m => leBytes 8 m.serial ++ leBytes 8 m.linkMask).flatten
def groupable : State := { linked with mem.cells := cellSetN [] 0x200000 memberTable }
def groupParams (members : Nat) : List Byte :=
  beBytes 2 7 ++ beBytes 2 members ++ beBytes 2 0 ++ [1, 0] ++ beBytes 2 4 ++ beBytes 2 1 ++ beBytes 2 1 ++ zeros 2 ++ beBytes 8 1
    ++ beBytes 8 0

/-- An ALL_REDUCE of FP32 over 65,540 elements: segments of 16,385, in chunks of 16,384 and 1. -/
def entry : CollEntry :=
  { kind := 0, wireFormat := 0, reduceFormat := 0, memFormat := 0, shiftDim := 0, shiftBack := false, peer := 0, count := 65540,
    wireScale := 0x3F800000, srcHandle := 1, srcOffset := 0, dstHandle := 1, dstOffset := 0x80000, srcVa := 0x200000,
    dstVa := 0x280000 }
def collCommand : Cmd := command 0x0501 (.collPost 7)
def chunkOut : ChunkOut := { step := 0, chunk := 0, dest := 1, source := 0, bytes := [1, 2, 3, 4], sent := false, resends := 0 }
def operation (phase : CollPhase) (out : List ChunkOut) : CollOp :=
  { CollOp.blank collCommand 7 with
    id := 3, entries := [entry], signature := 77, phase := phase, outgoing := out }
/-- The same, with its working vector. -/
def vectorOp : CollOp := { operation .running [chunkOut] with acc := List.replicate 65540 0 }
def post : CollPost :=
  { cmd := 1, partition := 0, tag := 7, ops := [3], started := true, opsDone := 0, ended := false, saturated := 0, resends := 0 }
def collecting (o : CollOp) : State :=
  { grouped with
    zhevub.ops := [o], zhevub.posts := [post], zhevub.nextOp := 4, zhevub.credits := [(201, 2)], cmds := [collCommand], nextCmd := 2 }

def collParams : List Byte :=
  beBytes 2 7 ++ beBytes 2 1 ++ beBytes 2 0 ++ [0] ++ zeros 9
    ++ ([0, 0, 0, 0, 0, 0, 0, 0] ++ beBytes 4 16 ++ beBytes 4 0x3F800000 ++ beBytes 8 1 ++ beBytes 8 0 ++ beBytes 8 1 ++ beBytes 8 4096)

/-- A CHUNK frame of one element, of chunk 1 of step 0. -/
def chunkFrame (frames : Nat) : Frame :=
  frameOf (beBytes 8 77 ++ beBytes 4 1 ++ beBytes 2 0 ++ beBytes 2 0 ++ beBytes 2 frames ++ beBytes 2 3 ++ beBytes 4 0
    ++ beBytes 4 (crc32c [0, 0, 128, 63]) ++ zeros 4 ++ [0, 0, 128, 63])
/-- A control frame for operation 77, of chunk 0 of step 0. -/
def controlFrame (flag : Nat) : Frame := frameOf (control 1 flag 1 0 77 0 0 1)

def runningOp : CollOp := operation .running [chunkOut]
def sentOp : CollOp := operation .running [{ chunkOut with sent := true }]
def releasedOp : CollOp := operation .released []
def reduceStep : CollStep := { send := some 1, recv := some 3, any := false, out_ := [3], in_ := [2], combine := true }

/-- Slot 0 is ACTIVE and slot 1 as given, with bytes `b` and their digest zero. -/
def slotted (st : SlotState) (b : List Byte) (s : State) : State :=
  { s with
    flash.boot := s.flash.boot.map fun c => { c with record.slots := [.active, st] }
    flash.slots := [{ bytes := [], digest := [] }, { bytes := b, digest := zeros 64 }] }
def updating : State := slotted .empty [] linked
def stageParams : List Byte := [0, 255, 0, 0, 0, 0, 0, 0] ++ beBytes 8 1 ++ beBytes 8 0 ++ beBytes 8 370

/-- An image that fails check 1 of R558 is being staged in slot 1. -/
def stage : Stage := { cmd := 1, slot := 1, length := 4, srcPartition := 0, srcHandle := 1, srcOffset := 0 }
def stageCommand : Cmd := { command 0x0900 .fwStage with partition := 255 }
def verifying : State :=
  { slotted .empty [1, 2, 3, 4] linked with fw.stage := some stage, cmds := [stageCommand], nextCmd := 2 }

def hop : Hop := { link := 0, target := 1, expect := 201 }
def relayParams : List Byte := [1, 1, 0, 0, 0, 0, 0, 0] ++ hop.bytes
def relayReady : State := slotted .staged (List.replicate 8 3) linked

/-- A RELAY frame from rank 1. -/
def relayFrame (kind hop arg : Nat) (rest : List Byte) : Frame :=
  { frameOf (relayPayload kind hop 5 201 arg rest) with groupTag := 0 }
def relayHop : List Byte := hop.bytes

/-- A relay of 8 bytes into slot 1 has begun; this is its last hop. -/
def relayIn : Relay :=
  { cmd := 0, id := 5, origin := 201, hop := 1, hops := [], results := [], inLink := some 0, lastReport := 0, received := 4,
    length := 8, slot := 1 }
def receiving : State := { slotted .empty [1, 2, 3, 4] linked with fw.relay := some relayIn }

/-- A relay that module 0 runs for command 1, over two hops. -/
def relayOut : Relay :=
  { cmd := 1, id := 5, origin := 201, hop := 0, hops := [hop, { hop with link := 1, expect := 203 }], results := [none, none],
    inLink := none, lastReport := 0, received := 0, length := 0, slot := 1 }
def relayCommand : Cmd := { command 0x0901 .fwRelay with partition := 255 }
def relaying : State := { relayReady with fw.relay := some relayOut, cmds := [relayCommand], nextCmd := 2 }
/-- The same relay in the middle of the chain, received by link 1. -/
def relayMiddle : Relay := { relayOut with cmd := 0, inLink := some 1, results := [] }
def relayingMiddle : State := { relayReady with fw.relay := some relayMiddle }
/-- A report of hop 0 with a status. -/
def reportFrame (status : Nat) : Frame := relayFrame 2 0 0 (beBytes 8 201 ++ beBytes 2 status ++ zeros 6)
def atLast : Env := { dt := 300000000000, errs := [] }

/-- Slot 1 holds an image of security version 0, and is armed for 200 ms. -/
def armParams : List Byte := [1] ++ zeros 7 ++ beBytes 8 200000000 ++ zeros 16
def armable : State := slotted .staged (zeros 16) world
def armed : State := { armable with fw.armed := some (1, 200000000), cmds := [command 0x0202 (.launch 3)], nextCmd := 2 }

def attestCommand : Cmd := { command 0x0904 (.attest (zeros 32) 1) with partition := 255 }
def attesting : State := { world with fw.attests := [1], cmds := [attestCommand], nextCmd := 2 }
def storing : State := { world with fw.storeDue := true, set.mtu := 1500 }

def readParams (address : Nat) : List Byte := beBytes 4 address ++ beBytes 2 1 ++ zeros 2
def writeParams (address value : Nat) : List Byte := readParams address ++ beBytes 4 value
/-- The state after a register has been read. -/
def readLeft (p : Packet) (s : State) (address : Nat) : State :=
  (((heard p session s).readReg 0 address).map Prod.snd).getD s
def counted : State := { world with net.discards := 3, watch.replays := 4 }

def kindler : Endpoint := { ip := .v6 0xFE800000000000000000000000000001, port := 5000 }
def stranger : Endpoint := { kindler with port := 5001 }
/-- Kindling mode after step 2, the slots of `updating`, and `kindler` its owner. -/
def kindling : State :=
  { slotted .empty [] State.reset with
    boot.mode := .kindling, boot.stepDone := 2, boot.owner := some { peer := kindler, last := 0 }, phys.pwrGood := true }
def unowned : State := { kindling with boot.owner := none }
def programming : State := { kindling with fw.progSlot := some 1, fw.progOffset := 0 }

def rapPacket (op : Nat) (src : Endpoint) (address count : Nat) (values : List Nat) : RapPacket :=
  { dt := 0, src := src, magic := 0x4958, kind := 0x52, seq := 9, address := BitVec.ofNat 32 address, count := BitVec.ofNat 16 count,
    status := 0, values := values.map (BitVec.ofNat 32),
    crc := BitVec.ofNat 32 (crc32c (rapBody 0x52 op 9 address count 0 values)) }
def answered : RapReply := { seq := 9, bytes := [1, 2, 3] }
def repeated : State := { kindling with boot.lastRap := some answered }
/-- STEP 3 with KINDLE_CTRL's other fields at DIST_MODE 1, AUTO_RESUME 0 and CHECK_WINDOW 10. -/
def startStep3 : W32 := 3 + 32 + 1280

def warmAsked : State :=
  { world with boot.resetReq := some (.warm 3 2), cmds := [command 0x0202 (.launch 3)], nextCmd := 2 }
def railing : State := { State.reset with boot.mode := .rails }
def off : State := { State.reset with boot.mode := .off }
def resuming : State := { kindling with boot.autoRun := true }
/-- Step `n` is due, after the one before it. -/
def stepping_ (n : Nat) : State := { kindling with boot.stepRunning := n, boot.stepDone := n - 1, boot.stepActed := false }
/-- Every core is enabled, as step 5 leaves it. -/
def spreading : State := { stepping_ 10 with boot.enabled := List.replicate 4 1 }
/-- Link 0 has trained. -/
def checking : State :=
  { stepping_ 8 with zhevub.links := (stepping_ 8).zhevub.links.set 0 { Link.reset with trainedWidth := 4, trainedLanes := 15 } }
/-- Step `n` has acted and will end with a result. -/
def acted (n result : Nat) (auto : Bool) : State :=
  { kindling with boot.stepRunning := n, boot.stepDone := n - 1, boot.stepActed := true, boot.endResult := result, boot.autoRun := auto }
def fullOutcome (k : Nat) : LinkOutcome := { outcome with link := k }
def fullOutcomes : List LinkOutcome := (List.range 64).map fullOutcome
def trying : State :=
  { stepping_ 11 with flash.boot := (stepping_ 11).flash.boot.map fun c => { c with record.trial := some 0 } }

def exiting (deep : Nat) : State := { world with boot.pstate := .leaving, boot.pdeep := deep }
def targeted (v : Nat) : State := { world with boot.target := v }
/-- Die 1 is in an episode that began at steady time 0, at 600 mV. -/
def dipping : State :=
  { world with mem.dies := world.mem.dies.modify 1 fun d => { d with inEpisode := true, minMv := 600, warnSeq := 1 } }
/-- A contract whose work has used die 1. -/
def contracted : State :=
  { world with cmds := [{ command 0x0202 (.launch 3) with contract := true, deadline := 1000, dies := [1] }], nextCmd := 2 }
/-- Stack 3 is at level 2 and has been below its threshold since steady time 0. -/
def warm : State :=
  { world with mem.hbmSet := world.mem.hbmSet.set 3 { Stack.reset with inService := true, level := 2, below := some 0 } }

def announceMsg (grandmaster : W64) (priority : Byte) (ptp : Bool) : AnnounceMsg :=
  { grandmaster := grandmaster, domain := BitVec.ofNat 8 State.reset.set.domain, priority1 := priority, clockClass := 6, accuracy := 0x20,
    variance := 0, priority2 := 128, ptpTimescale := ptp, utcOffset := 37 }
def elsewhere : AnnounceMsg := { announceMsg 7 100 true with domain := 99 }
def master : Master := masterOf (announceMsg 7 100 true) 0
/-- Follows `master`, with 3 good Syncs. -/
def following (st : TimeState) : State := { world with clock.master := some master, clock.state := st, clock.goodSyncs := 3 }
def syncMsg (offset : Int) : SyncMsg := { grandmaster := 7, offset := offset, logInterval := 0, usable := true }
def pulsed (source : Nat) : State :=
  { following .locked with set.source := source, clock.ppsPresent := true, clock.lastPps := some 0 }
def steppingTime : State := { world with clock.stepPending := true, clock.stepOffset := 2000000 }
def hostTimed : State := { world with set.source := 2, clock.setSeconds := some 5 }
def holding : State := { world with clock.state := .holdover }
/-- A bound grid of 1 ms, pulses awaited from boundary 0 on. -/
def boundGrid : Grid := { grid with fsyncBound := true }
def synced : State :=
  { gridded with
    seqs.table := [{ sequence 5 .ready with grid := some boundGrid }], clock.fsyncPresent := true, clock.lastFsync := some 0 }
/-- The same, its next boundary 1 µs away. -/
def nearBoundary : State := { synced with clock.mt := 999000 }

/-- The same, a contract in flight. -/
def stepHeld : State := { contracted with clock.stepPending := true, clock.stepOffset := 2000000 }

def addressed : State := { world with phys.dynAddr := some 9 }
def telemetry : Telemetry := { vinMv := 54000, iinCa := 10, pinW := 500, inletC := 30 }
def atSerial : State := { addressed with phys.readOffset := 4 }
def atVoltage (good : Bool) : State := { addressed with phys.readOffset := 12, phys.pwrGood := good }

/-- An entry of a program. -/
def entryOf (op hints imm : Nat) (opnds : List Nat) : List Byte :=
  leBytes 1 op ++ [0, 0] ++ leBytes 1 hints ++ leBytes 4 imm
    ++ ((opnds ++ List.replicate 6 absent).take 6).flatMap (leBytes 4)

/-- A tensor descriptor of rows in one line. -/
def tensorBytes (fmt module : Nat) (ext : List Nat) (base row : Nat) : List Byte :=
  [1] ++ leBytes 1 fmt ++ leBytes 1 module ++ [0] ++ ext.flatMap (leBytes 4) ++ leBytes 4 absent ++ leBytes 8 base
    ++ leBytes 6 row ++ leBytes 6 (row * ext.getD 1 1) ++ leBytes 6 (row * ext.getD 1 1 * ext.getD 2 1) ++ [0, 0]
    ++ leBytes 4 0x3F800000 ++ zeros 8

def one32 : List Byte := leBytes 4 0x3F800000
def ones16 (n : Nat) : List Byte := (List.replicate n (leBytes 2 0x3F80)).flatten

/-- The cells of some bytes from an address on. -/
def cellsAt (a : Nat) (bs : List Byte) : List Host.Cell :=
  ((List.range bs.length).zip bs).filterMap fun x => if x.2 = 0 then none else some (a + x.1, x.2)

/-- Core 0 works for run 3, which has the entry next; its hob memory holds the parts given, in rising order. -/
def running (entry : List Byte) (parts : List (Nat × List Byte)) : State :=
  { launched with
    seqs.runs := [launchRun true]
    cores := launched.cores.set 0 { CoreSt.reset with phys := some 0, run := 3, progBase := 0x20, progLen := 4 }
    mem.hob := ((0x20, entry) :: parts).flatMap fun x => cellsAt x.1 x.2 }

def turnRun (s : State) : Run := s.seqs.runs.headD Run.blank
def turnState (s : State) : State := ((enter now s).decodeNext 0).1
def turnBytes (s : State) : List Byte := ((enter now s).decodeNext 0).2
/-- What an entry of kind `k` at issue reads as. -/
def turnRead {P : Type} (k : Kind P) (s : State) : Except Stop P × Trace :=
  (k.read ((turnState s).issueHob 0 (turnRun s)) (turnState s)
    (jobOf (turnState s) 0 (turnRun s) (macroEntry (turnBytes s)))).run.run { descs := [], peeks := [] }

def onTensors (op imm : Nat) (ds : List (List Byte)) (more : List (Nat × List Byte)) : State :=
  running (entryOf op 4 imm ((List.range ds.length).map fun k => 0x100 + 64 * k))
    ((List.range ds.length).map (fun k => (0x100 + 64 * k, ds.getD k [])) ++ more)

def hobRow (n base : Nat) : List Byte := tensorBytes 0 0 [n, 1, 1, 1] base (4 * n)

/-- Another macro-instruction, which has not retired, writes all of hob memory. -/
def blocked (s : State) : State :=
  let m : Macro := { Macro.start (jobOf s 0 (turnRun s) (macroEntry [])) (zeros 32) 0 0 with opId := 9, writes := [(0, hobTop)] }
  { s with cores := s.cores.set 0 { s.coreAt 0 with next := 1, progBase := 0, unretired := [m] } }
/-- An entry with a reserved bit set. -/
def illFormed (op imm : Nat) : State :=
  running ([BitVec.ofNat 8 op, 0, 255, 4] ++ leBytes 4 imm ++ (List.replicate 6 (leBytes 4 0x180)).flatten)
    [(0x180, [0, 0, 0, 0] ++ leBytes 4 (b2n (decide (op = 4) && decide (imm = 1))))]

def sending : State := running (entryOf 0x11 0 7 [0x2000, 4]) [(0x2000, [1, 2, 3, 4])]
/-- Core 1 of run 3 has finished. -/
def sendingTo (c : CoreSt) : State :=
  let s := running (entryOf 0x11 0 0x10007 [0x2000, 4]) [(0x2000, [1, 2, 3, 4])]
  { s with seqs.runs := [{ launchRun true with cores := [0, 1] }], cores := s.cores.set 1 c }
def peerDone : CoreSt := { CoreSt.reset with phys := some 1, run := 3, rel := 1, finished := true }
def peerBusy : CoreSt := { peerDone with finished := false }
def recvTurn : State := running (entryOf 0x12 0 7 [0x2000, 4, 0x2010]) []
def message : Message :=
  { id := 5, source := 0, tag := 7, length := 3, frags := [([1, 2, 3], false)], arrived := 1, drained := 0 }
def delivered : State :=
  { recvTurn with
    cores := recvTurn.cores.set 0 { CoreSt.reset with
      phys := some 0, run := 3, progBase := 0x20, progLen := 4, mailbox := [message], slotsUsed := 1 } }
def waiting (imm threshold : Nat) : State := running (entryOf 0x20 0 imm [threshold]) []
def fencing (scope : Nat) : State := running (entryOf 0x21 0 scope []) []

/-- The SEND of core 0 has asked core 0's own mailbox for its slot. -/
def sendMacro (n : Nat) : Macro :=
  { Macro.start (jobOf sending 0 (launchRun true) (macroEntry (entryOf 0x11 0 7 [0x2000, 256 * n])))
      (entryOf 0x11 0 7 [0x2000, 256 * n]) 0 0 with
    opId := 9, pending := .sending n }
def request (n : Nat) : SlotRequest :=
  { sender := 0, opId := 9, message := 5, source := 0, tag := 7, length := 256 * n, bytes := [1, 2, 3, 4], poison := false,
    last := decide (n = 1) }
def asking (n : Nat) (rs : List SlotRequest) : State :=
  { sending with
    cores := sending.cores.set 0 { CoreSt.reset with
      phys := some 0, run := 3, progBase := 0x20, progLen := 4, unretired := [sendMacro n], requests := rs } }
/-- Core 0 waits for event counter 1 to reach a threshold. -/
def held (n : Nat) : State :=
  { sending with
    cores := sending.cores.set 0 { CoreSt.reset with
      phys := some 0, run := 3, progBase := 0x20, progLen := 4, next := 1, hold := .counter 1 n, holdIndex := 0 } }

/-- A macro-instruction that is done, with a status word to add to and a signal. -/
def doneMacro (p : Pending) : Macro :=
  { Macro.start (jobOf sending 0 (launchRun true) (macroEntry (zeros 32))) ([4, 1, 3] ++ zeros 29) 0 0 with
    status := [(0x3000, [1, 2, 3, 4, 5])], pending := p, poisoned := true }
def doneRun (m : List Macro) (n skip : Nat) : State :=
  { sending with
    cores := sending.cores.set 0 { CoreSt.reset with
      phys := some 0, run := 3, progBase := 0x20, progLen := 4, next := n, skip := skip, unretired := m } }

def copying32 : State := onTensors 0x10 0 [hobRow 2 0x2000, hobRow 2 0x2100] [(0x2000, one32 ++ one32)]
/-- From FP32 to BF16. -/
def converting : State :=
  onTensors 0x10 0 [hobRow 2 0x2000, tensorBytes 1 0 [2, 1, 1, 1] 0x2100 4] [(0x2000, one32 ++ one32)]
def reducing (mode fmt : Nat) : State :=
  onTensors 0x10 mode [hobRow 2 0x2000, tensorBytes fmt 1 [2, 1, 1, 1] 0x200000 8] [(0x2000, one32 ++ one32)]
def atomicOp : State :=
  running (entryOf 0x10 4 0x10003 [0x100, 0x2000])
    [(0x100, leBytes 1 0 ++ leBytes 1 0 ++ zeros 6 ++ leBytes 8 0x200000 ++ leBytes 8 5 ++ zeros 8)]

def fnBytes (func flags : Nat) (table : Nat) : List Byte :=
  [0x0A] ++ leBytes 1 func ++ [0, 0] ++ leBytes 1 flags ++ zeros 3 ++ one32 ++ one32 ++ leBytes 8 table ++ zeros 40
def eltwise (func : Nat) : State :=
  running (entryOf 4 4 0 [0x100, absent, absent, 0x140, 0x180])
    [(0x100, hobRow 2 0x2000), (0x140, hobRow 2 0x2100), (0x180, fnBytes func 0 0), (0x2000, one32 ++ one32)]
def statistic : State :=
  onTensors 5 0 [hobRow 2 0x2000, hobRow 1 0x2100, [0x0C, 0, 0, 0] ++ one32 ++ zeros 56] [(0x2000, one32 ++ one32)]
def norming : State :=
  running (entryOf 6 4 0 [0x100, absent, 0x140, 0x180])
    [(0x100, hobRow 2 0x2000), (0x140, hobRow 2 0x2100), (0x180, [0x0D, 0, 0, 0] ++ one32 ++ zeros 56), (0x2000, one32 ++ one32)]
/-- A table at the start of allocation 1, in bank 0. -/
def bankOf (valid : Bool) : Bank :=
  { valid := valid, partition := 0, va := 0x200000, version := 0, table := zeros 64, poisoned := false, loading := !valid }
def preloading (bs : List Bank) : State :=
  let s := running (entryOf 4 4 0 [absent, absent, absent, absent, 0x180]) [(0x180, fnBytes 15 1 0x200000)]
  { s with cores := s.cores.set 0 { CoreSt.reset with phys := some 0, run := 3, progBase := 0x20, progLen := 4, banks := bs } }

def multiplying : State :=
  onTensors 1 0 [tensorBytes 1 0 [16, 2, 1, 1] 0x2000 32, tensorBytes 1 0 [16, 2, 1, 1] 0x2100 32,
      tensorBytes 0 0 [2, 2, 1, 1] 0x2200 8]
    [(0x2000, ones16 1), (0x2100, ones16 1)]
def convBytes : List Byte :=
  [7, 0, 1, 0, 1, 1, 1, 0, 1, 1, 1, 0] ++ (List.replicate 3 [1, 0]).flatten ++ zeros 30 ++ leBytes 4 absent ++ leBytes 4 absent
    ++ leBytes 4 absent ++ zeros 4
def convolving : State :=
  onTensors 2 0x80808 [tensorBytes 1 0 [2, 2, 1, 1] 0x2000 4, tensorBytes 1 0 [2, 1, 2, 1] 0x2100 4,
      tensorBytes 0 0 [2, 2, 1, 1] 0x2200 8, convBytes]
    [(0x2000, ones16 4), (0x2100, ones16 3)]

/-- Sequence 5 with one position staged; a query of one row. -/
def stagedSeq : Seq :=
  { sequence 5 .ready with model := 9, binding := some { binding with
      geometry := geometry, staging := 1, tables := [{ emptyLayer with fill := 1, length := 1 }] } }
def attnBytes : List Byte :=
  [3, 0, 1, 0, 1, 0, 0, 0] ++ leBytes 8 5 ++ zeros 4 ++ one32 ++ zeros 8 ++ leBytes 4 absent ++ leBytes 4 absent ++ zeros 24
def maskBytes : List Byte := [4, 0, 0, 0] ++ zeros 8 ++ leBytes 4 absent ++ zeros 304
def appendBytes (commit : Byte) : List Byte := [5, commit, 0, 0] ++ leBytes 4 0x400 ++ leBytes 4 0x440 ++ zeros 52
def attending (append : Nat) : State :=
  let s := running (entryOf 3 4 0 [0x100, 0x140, 0x180, 0x2C0, append])
    [(0x100, tensorBytes 1 0 [64, 1, 1, 1] 0x2000 128), (0x140, attnBytes), (0x180, maskBytes),
     (0x2C0, tensorBytes 0 0 [64, 1, 1, 1] 0x2100 256), (0x300, appendBytes 1), (0x400, tensorBytes 1 0 [64, 1, 1, 1] 0x2400 128),
     (0x440, tensorBytes 1 0 [64, 1, 1, 1] 0x2500 128), (0x2000, ones16 1), (0x2400, ones16 1)]
  { s with seqs.table := [stagedSeq], mem.cells := cellsAt 0x200000 (ones16 1) }

def groupBytes : List Byte :=
  [0, 0, 1, 0] ++ zeros 44 ++ one32 ++ zeros 4 ++ one32 ++ zeros 8 ++ one32 ++ zeros 8 ++ one32 ++ zeros 44
def updateBytes : List Byte := [0x0E, 0, 0, 0] ++ zeros 4 ++ leBytes 4 0x300 ++ leBytes 4 absent ++ leBytes 4 absent ++ zeros 44
def updateTurn : State :=
  running (entryOf 7 4 0 [0x100, 0x140, 0x180, 0x1C0, 0x200])
    [(0x100, [0x0F, 0, 0, 0] ++ zeros 4 ++ leBytes 8 0x4000 ++ zeros 48), (0x140, updateBytes),
     (0x180, tensorBytes 1 0 [2, 1, 1, 1] 0x2000 4), (0x1C0, tensorBytes 6 0 [2, 1, 1, 1] 0x2100 2),
     (0x200, hobRow 2 0x2200), (0x300, hobRow 2 0x2300), (0x2000, ones16 2), (0x2300, one32 ++ one32), (0x4000, groupBytes)]
def rooting (flags : Byte) : State :=
  let s := running (entryOf 8 4 0 [0x100, 0x140, 0x180])
    [(0x100, tensorBytes 0 1 [1, 1, 1, 1] 0x200000 4), (0x140, tensorBytes 0 1 [1, 1, 1, 1] 0x200100 4),
     (0x180, [0x10, flags, 0, 0] ++ zeros 4 ++ leBytes 4 0x200 ++ leBytes 4 0x3000 ++ leBytes 8 0x201000 ++ zeros 40),
     (0x200, [0x0F, 0, 0, 0] ++ zeros 4 ++ leBytes 8 0x4000 ++ zeros 48), (0x4000, groupBytes)]
  { s with mem.cells := cellsAt 0x200000 one32 }
/-- A tile of one row, with its record at the start of allocation 1 and its reference slot behind it. -/
def bankTurn (force : Byte) (record : List Byte) : State :=
  let s := running (entryOf 0x30 4 1 [0x100, 0x140, 0x180])
    [(0x100, tensorBytes 1 0 [128, 1, 1, 1] 0x2000 256),
     (0x140, [6, 0, 0, 0] ++ one32 ++ leBytes 4 0x280 ++ leBytes 4 0x1C0 ++ leBytes 8 0x200000 ++ leBytes 8 0x200100 ++ leBytes 4 256
        ++ zeros 28),
     (0x180, tensorBytes 1 1 [2, 1, 1, 1] 0x201000 4), (0x1C0, tensorBytes 1 0 [2, 1, 1, 1] 0x2200 4), (0x291, [force])]
  { s with mem.cells := cellsAt 0x200000 record }
/-- The record of a tile that reads as 128 zeros. -/
def sameRecord : List Byte := leBytes 4 0xb872b190 ++ [1] ++ zeros 11

/-- The mailbox of core 0 is full. -/
def fullBox : State :=
  { sending with
    cores := sending.cores.set 0 { CoreSt.reset with phys := some 0, run := 3, requests := [request 1], slotsUsed := 64 } }

/-- A PRELOAD that waits for its table. -/
def tableMacro : Macro :=
  { Macro.start (jobOf sending 0 (launchRun true) (macroEntry (entryOf 4 4 0 [absent, absent, absent, absent, 0x180])))
      (entryOf 4 4 0 [absent, absent, absent, absent, 0x180]) 0 0 with
    pending := .table 0, banks := [0], desc := [(0x180, fnBytes 15 1 0x200000)] }
/-- An odd table of one binade that is zero throughout. -/
def zeroTable : List Byte :=
  leBytes 4 0x4C425446 ++ leBytes 2 1 ++ [1, 0, 0, 1] ++ zeros 18 ++ leBytes 4 1024 ++ leBytes 4 0xeeaede7c ++ zeros 28
    ++ zeros 1024
def loadingOf (table : List Byte) : Bank := { bankOf false with table := table }
def tableLoading (table : List Byte) : State :=
  { sending with
    cores := sending.cores.set 0 { CoreSt.reset with
      phys := some 0, run := 3, next := 1, unretired := [tableMacro], banks := [loadingOf table, Bank.reset] } }

/-- A committing ATTN that waits, and the descriptors it has copied; `fill` positions of its half are held by another. -/
def halfMacro : Macro :=
  { Macro.start (jobOf sending 0 (launchRun true) (macroEntry (entryOf 3 4 0 [0x100, 0x140, 0x180, 0x2C0, 0x300])))
      (entryOf 3 4 0 [0x100, 0x140, 0x180, 0x2C0, 0x300]) 0 0 with
    opId := 9, pending := .half, attnSeq := 5
    commit := some { pages := [], boughs := 0, half := 0, fill := 2, length := 2 }
    desc := [(0x100, tensorBytes 1 0 [64, 1, 1, 1] 0x2000 128), (0x140, attnBytes), (0x180, maskBytes),
     (0x2C0, tensorBytes 0 0 [64, 1, 1, 1] 0x2100 256), (0x300, appendBytes 1), (0x400, tensorBytes 1 0 [64, 1, 1, 1] 0x2400 128),
     (0x440, tensorBytes 1 0 [64, 1, 1, 1] 0x2500 128)] }
def snapshot (fill : Nat) : Macro := { halfMacro with index := 7, opId := 8, pending := .none, attnFill := fill, commit := none }
def halfWaiting (fill : Nat) : State :=
  let s := attending 0x300
  { s with
    cores := s.cores.set 0 { CoreSt.reset with
      phys := some 0, run := 3, progBase := 0x20, progLen := 4, next := 1, unretired := [snapshot fill, halfMacro] } }
def halfRead (fill : Nat) : Except Stop AttnPlan × Trace :=
  (readAttn halfMacro.hob (enter now (halfWaiting fill)) (jobBack (enter now (halfWaiting fill)) 0 (launchRun true) halfMacro)).run.run
    { descs := [], peeks := [] }

/-- What the waiting ATTN reads, and whether its half is held. -/
def halfCheck (fill : Nat) (held : Bool) : Bool :=
  match (halfRead fill).1 with
  | .ok p => (enter now (halfWaiting fill)).halfHeld p halfMacro.opId == held
  | .error _ => false

/-- An entry of kind `k` has its turn in state `s`, and what it reads as meets `H`. -/
def TurnMet {P : Type} (k : Kind P) (s : State) (H : P → List (Nat × Bool) → Prop) : Prop :=
  ∃ p bound, Turn k now 0 s (turnRun s) (turnState s) (turnBytes s) p (turnRead k s).2 bound ∧ H p bound

/-- The same, as a check of what it reads as. -/
def turnCheck {P : Type} (k : Kind P) (s : State) (more : P → List (Nat × Bool) → Bool) : Bool :=
  match (turnRead k s).1 with
  | .error _ => false
  | .ok p =>
    match ((turnState s).coreAt 0).bind (turnRun s).partition (k.table p) with
    | none => false
    | some bound =>
      decide ((enter now s).front 0 = some (turnRun s)) && decide ((turnState s).decodeStop (macroEntry (turnBytes s)) = none)
        && k.mine ((turnState s).issueHob 0 (turnRun s)) (macroEntry (turnBytes s))
        && !hazard ((turnState s).coreAt 0).unretired ((turnRead k s).2.descs ++ k.reads p) (k.writes p)
        && decide (((turnState s).coreAt 0).enginesHeld < 4) && !k.blocked p ((turnState s).coreAt 0)
        && decide (((turnState s).coreAt 0).banks.length = 2) && more p bound

/-- An entry of kind `k` is at the front in state `s`, and reading it stops with `x`, no hazard being left. -/
def StopMet {P : Type} (k : Kind P) (s : State) (x : Stop) : Prop :=
  (enter now s).front 0 = some (turnRun s) ∧ (enter now s).decodeNext 0 = (turnState s, turnBytes s)
    ∧ (turnState s).decodeStop (macroEntry (turnBytes s)) = none
    ∧ k.mine ((turnState s).issueHob 0 (turnRun s)) (macroEntry (turnBytes s)) = true
    ∧ turnRead k s = (.error x, (turnRead k s).2)
    ∧ ((macroEntry (turnBytes s)).noHazard = true ∨ hazard ((turnState s).coreAt 0).unretired (turnRead k s).2.descs [] = false)
    ∧ (turnRun s).fail = 0

def stopCheck {P : Type} (k : Kind P) (s : State) (x : Stop) : Bool :=
  match (turnRead k s).1 with
  | .ok _ => false
  | .error y =>
    decide (y = x) && decide ((enter now s).front 0 = some (turnRun s))
      && decide ((turnState s).decodeStop (macroEntry (turnBytes s)) = none)
      && k.mine ((turnState s).issueHob 0 (turnRun s)) (macroEntry (turnBytes s))
      && !hazard ((turnState s).coreAt 0).unretired (turnRead k s).2.descs [] && decide ((turnRun s).fail = 0)

/-- An entry of kind `k` is at the front in state `s`, and a hazard holds it. -/
def HoldMet {P : Type} (k : Kind P) (s : State) : Prop :=
  ∃ res tr, (enter now s).front 0 = some (turnRun s) ∧ (enter now s).decodeNext 0 = (turnState s, turnBytes s)
    ∧ (turnState s).decodeStop (macroEntry (turnBytes s)) = none
    ∧ k.mine ((turnState s).issueHob 0 (turnRun s)) (macroEntry (turnBytes s)) = true
    ∧ turnRead k s = (res, tr) ∧ (macroEntry (turnBytes s)).noHazard = false
    ∧ (hazard ((turnState s).coreAt 0).unretired tr.descs [] = true
        ∨ ∃ p, res = .ok p ∧ hazard ((turnState s).coreAt 0).unretired (tr.descs ++ k.reads p) (k.writes p) = true)

def holdCheck {P : Type} (k : Kind P) (s : State) : Bool :=
  decide ((enter now s).front 0 = some (turnRun s)) && decide ((turnState s).decodeStop (macroEntry (turnBytes s)) = none)
    && k.mine ((turnState s).issueHob 0 (turnRun s)) (macroEntry (turnBytes s)) && !(macroEntry (turnBytes s)).noHazard
    && match (turnRead k s).1 with
       | .ok p => hazard ((turnState s).coreAt 0).unretired ((turnRead k s).2.descs ++ k.reads p) (k.writes p)
       | .error _ => false

/-- The bytes that the signature of a plan covers. -/
def signed (s : State) (p : BankPlan) : List Byte :=
  let rows := p.input.rows.map fun i =>
    ((turnState s).rawRow (jobOf (turnState s) 0 (turnRun s) (macroEntry (turnBytes s))) p.input i.1 i.2.1 i.2.2).1
  (rows.map fun r => (r.data.map Prod.snd).flatten).flatten ++ (rows.map (·.scales)).flatten
/-- The record that a plan names. -/
def recordOf (s : State) (p : BankPlan) : List Byte :=
  (turnState s).spaceRead (jobOf (turnState s) 0 (turnRun s) (macroEntry (turnBytes s))) true p.record 16

end Sys2Proof.Tests

section

set_option Elab.async false

open Sys2Proof Sys2Proof.Machine Sys2Proof.Claims Sys2Proof.Tests

/-! ### Ill-formed operands are refused by the check that concerns them -/

theorem test_packet_ill_formed : (Instr.hello { packet 255 [1] with udpLength := 32 }).wellFormed = false := by decide
theorem test_sub_operation_ill_formed : (Instr.touch (packet 0 (zeros 8 ++ [1]))).wellFormed = false := by decide
theorem test_revive_ill_formed : (Instr.revive (packet 0 (zeros 40))).wellFormed = false := by decide
theorem test_members_ill_formed : (Instr.collGroupDelete (packet 0 (zeros 4 ++ [0, 1]))).wellFormed = false := by decide
theorem test_flue_ill_formed : (Instr.flueData (plainFlue (List.replicate 65536 0))).wellFormed = false := by decide +kernel
theorem test_rap_ill_formed : (Instr.claim (plainRap (List.replicate 257 0))).wellFormed = false := by decide +kernel
theorem test_frame_ill_formed : (Instr.chunk now (plainFrame 64 [])).wellFormed = false
    ∧ (Instr.chunk now (plainFrame 0 (List.replicate 4097 0))).wellFormed = false := by decide +kernel
theorem test_frame_kind_ill_formed : (Instr.unknownFrameKind now (plainFrame 0 []) 1).wellFormed = false := by decide
theorem test_outcome_ill_formed : (Instr.linkRetrain now { goodOutcome 0 with width := 3 }).wellFormed = false
    ∧ (Instr.linkTraining now [{ goodOutcome 0 with width := 2 }]).wellFormed = false
    ∧ (Instr.prbs31Check now [goodOutcome 64]).wellFormed = false := by decide
theorem test_numbers_ill_formed : (Instr.matmul now 128).wellFormed = false ∧ (Instr.macroRetire now 128 0).wellFormed = false
    ∧ (Instr.hobScrub now 0 0x800000).wellFormed = false ∧ (Instr.laneLockLoss now 64).wellFormed = false
    ∧ (Instr.hbmTraining now [32]).wellFormed = false ∧ (Instr.thermalLevelFall now 32).wellFormed = false
    ∧ (Instr.supplyWarning now 4 500).wellFormed = false ∧ (Instr.codecUnitEnd now 4).wellFormed = false
    ∧ (Instr.partResetDrained now 16).wellFormed = false ∧ (Instr.flueAckTimer now 0 256).wellFormed = false
    ∧ (Instr.frameSyncLost now 0 65536).wellFormed = false ∧ (Instr.collWaitLimit now 65536).wellFormed = false
    ∧ (Instr.getbcr now 128).wellFormed = false ∧ (Instr.setdasa now 128 5).wellFormed = false := by decide
theorem test_boot_ill_formed : (Instr.fuseReadout now [4]).wellFormed = false
    ∧ (Instr.bist now [(0, 36)] []).wellFormed = false ∧ (Instr.coreFirmwareDistribution now [(4, 0)]).wellFormed = false
    ∧ (Instr.powerStateExitDone now [32] []).wellFormed = false := by decide
theorem test_lengths_ill_formed : (Instr.flashProgBuffer now (List.replicate 257 0)).wellFormed = false
    ∧ (Instr.thermalSample now (List.replicate 33 0)).wellFormed = false
    ∧ (Instr.echoRequest now moduleIp moduleIp (List.replicate 65536 0)).wellFormed = false := by decide +kernel
theorem test_port_ill_formed : (Instr.otherUdpPort now 46210).wellFormed = false := by decide
theorem test_well_formed : (Instr.hello (packet 255 [1])).wellFormed = true
    ∧ (Instr.touch (packet 0 (zeros 8 ++ [2]))).wellFormed = true ∧ (Instr.chunk now (plainFrame 63 [1])).wellFormed = true
    ∧ (Instr.linkRetrain now (goodOutcome 63)).wellFormed = true ∧ (Instr.matmul now 127).wellFormed = true := by decide

/-! ### Sessions and the port -/

theorem test_packet_commands : Instr.caps ∈ packetCommands := by simp [packetCommands]
theorem test_crc_refused : (landed badCrc ready).verdict badCrc = .crc session
    ∧ (landed badHello ready).servesAddress badHello.dst = true ∧ (landed badHello ready).discards badHello = false
    ∧ (((landed badHello ready).session? badHello.src).bind fun n =>
        if n.helloSeq = badHello.seq.toNat then n.stored.find? (·.seq = n.helloSeq) else none) = none
    ∧ negotiate (beAt badHello.params 0 1) (beAt badHello.params 1 1) moduleMin moduleMax = some 0x10
    ∧ crc32c badHello.params ≠ badHello.paramCrc.toNat := by decide +kernel
theorem test_packets_judged : (landed (packet 255 []) notReady).verdict (packet 255 []) = .discard
    ∧ (landed { packet 255 [] with src := kindlerPeer } ready).verdict { packet 255 [] with src := kindlerPeer } = .noSession
    ∧ (landed { packet 255 [] with version := 0x11 } ready).verdict { packet 255 [] with version := 0x11 } = .version session
    ∧ (landed { packet 255 [] with seq := staleSeq } readyLate).verdict { packet 255 [] with seq := staleSeq } = .stale lateSession
    ∧ (landed (packet 255 []) answeredOnce).verdict (packet 255 []) = .duplicate answeredSession storedReply := by
  decide +kernel

theorem test_caps_answers : Takes opCaps never never (packet 255 []) session ready := by decide +kernel
theorem test_bye_ends : Takes opBye never never (packet 255 []) session ready := by decide +kernel
theorem test_ack_empties : Takes opNotifyAck never never (packet 255 (zeros 4)) session ready := by decide +kernel
theorem test_hello_opens : HelloTaken helloPacket ready := by decide +kernel
theorem test_retry_resends : (List.find? (fun x => decide (x.id = 1)) ready.net.sessions = some session) ∧
    session.opened = true ∧ session.ring.lastRetry + ready.set.notifyRetry * 100000 ≤ ready.clock.steady + later.dt
    := by decide +kernel
theorem test_timeout_ends : (List.find? (fun x => decide (x.id = 1)) ready.net.sessions = some session) ∧
    session.opened = true ∧ session.lastActive + ready.set.sessionTimeout * 1000000000 ≤ ready.clock.steady +
    later.dt := by decide +kernel
theorem test_ring_expires : (List.find? (fun x => decide (x.id = 1)) closed.net.sessions = some endedSession) ∧
    endedSession.opened = false ∧ endedSession.endedAt + 60000000000 ≤ closed.clock.steady + later.dt
    := by decide +kernel
theorem test_unknown_refused : (landed (packet 255 []) ready).verdict (packet 255 []) = Verdict.command session
    := by decide +kernel
theorem test_step_takes_front : ready.pending = [] := by decide +kernel

/-! ### The pool -/

theorem test_alloc_places : Takes opAlloc allocCheck allocQuota (packet 0 allocParams) session owned ∧ allocPlace
    ((heard (packet 0 allocParams) session owned).ctx opAlloc (packet 0 allocParams) session) (freshened (heard
    (packet 0 allocParams) session owned)) = Placement.granted Tier.woodshed [] := by decide +kernel
theorem test_free_removes : Takes opFree freeCheck never (packet 0 (beBytes 8 1 ++ zeros 8)) session world
    := by decide +kernel
theorem test_mobility_set : (Takes opHint (hintCheck fun c s x => firstBad [badIf (decide (2 ≤ c.be 9 1)) 7,
    s.pairingBad c.part (decide (c.be 9 1 = 1)) (c.be 16 8)]) never (packet 0 (hintParams 0 1 5)) session owned)
    := by decide +kernel
theorem test_owner_set : (Takes opHint (hintCheck fun c s a => s.pairingBad c.part a.evictable (c.be 16 8)) never
    (packet 0 (hintParams 1 0 5)) session owned) := by decide +kernel
theorem test_touch_sets : (Takes opHint (hintCheck fun x x_1 x_2 => none) never (packet 0 (hintParams 2 0 0))
    session owned) := by decide +kernel
theorem test_promote_asks : (Takes opHint (hintCheck fun x x_1 a => badIf (!a.evictable || decide (a.tier =
    Tier.firebox)) 15) never (packet 0 (hintParams 3 0 0)) session owned) := by decide +kernel
theorem test_granules_return : (List.find? (fun x => decide (x.alloc.handle = 1)) freed.mem.freed = some freedEntry)
    ∧ (advance now.dt freed).retiredBefore freedEntry.alloc.partition freedEntry.before = true := by decide +kernel
theorem test_tier_moves : ((List.find? (fun x => decide (x.handle = evictable.handle)) (enter now
    crowded).mem.allocs = some evictable) ∧ (enter now crowded).demotionDue = true ∧ (enter now crowded).demotee =
    some evictable) ∧ ((List.find? (fun x => decide (x.handle = promoted.handle)) (enter now roomy).mem.allocs =
    some promoted) ∧ (enter now roomy).demotionDue = false ∧ (enter now roomy).mayPromote promoted = true)
    := by decide +kernel
theorem test_hob_scrubs : world.portUp = true ∧ 0 < world.cores.length ∧ 0 < 128 ∧ 100 < 8388608
    := by decide +kernel
theorem test_hbm_scrubs : world.portUp = true ∧ 9 < world.mem.hbmSet.length ∧ 9 < 32 := by decide +kernel

/-! ### The Flue port -/

theorem test_window_opens : Takes opFlueOpen flueOpenCheck flueOpenQuota (packet 0 openParams) session world
    := by decide +kernel
theorem test_window_closes : Takes opFlueClose flueCloseCheck never (packet 0 ([3, 7] ++ zeros 6)) session writing ∧
    writing.window? (BitVec.toNat (packet 0 ([3, 7] ++ zeros 6)).partition) (arg (packet 0 ([3, 7] ++ zeros 6)) 0 1)
    = some (window false) := by decide +kernel
theorem test_burst_written : (cellsWf writing.mem.cells = true ∧ (arrived burstZero writing).flueWindow burstZero
    false = some (window false) ∧ (window false).accepts (BitVec.toNat burstZero.burstSeq) burstZero.payload.length
    = true ∧ (window false).cumSeq ≤ BitVec.toNat burstZero.burstSeq ∧ ((window false).rowLength ≤ (window
    false).rowPitch ∨ (window false).rowCount ≤ 1)) ∧ (cellsWf writing.mem.cells = true ∧ (arrived burstOne
    writing).flueWindow burstOne false = some (window false) ∧ (window false).accepts (BitVec.toNat
    burstOne.burstSeq) burstOne.payload.length = true ∧ (window false).cumSeq ≤ BitVec.toNat burstOne.burstSeq ∧
    ((window false).rowLength ≤ (window false).rowPitch ∨ (window false).rowCount ≤ 1)) ∧ (cellsWf
    writingHalf.mem.cells = true ∧ (arrived burstOne writingHalf).flueWindow burstOne false = some halfWritten ∧
    halfWritten.accepts (BitVec.toNat burstOne.burstSeq) burstOne.payload.length = true ∧ halfWritten.cumSeq ≤
    BitVec.toNat burstOne.burstSeq ∧ (halfWritten.rowLength ≤ halfWritten.rowPitch ∨ halfWritten.rowCount ≤ 1)) ∧
    (cellsWf writingHalf.mem.cells = true ∧ (arrived burstZero writingHalf).flueWindow burstZero false = some
    halfWritten ∧ halfWritten.accepts (BitVec.toNat burstZero.burstSeq) burstZero.payload.length = true ∧
    BitVec.toNat burstZero.burstSeq < halfWritten.cumSeq) :=
  ⟨by decide +kernel, by decide +kernel, by decide +kernel, by decide +kernel⟩
theorem test_ack_timer_sends : writingHalf.window? halfWritten.partition halfWritten.id = some halfWritten ∧
    halfWritten.read = false ∧ 0 < halfWritten.sinceAck ∧ halfWritten.lastBurst = some 0 ∧ 0 + 20000 ≤
    writingHalf.clock.steady + later.dt := by decide +kernel
theorem test_credit_raised : (arrived creditPacket reading).flueWindow creditPacket true = some (window true) ∧
    creditPacket.payload.length = 8 ∧ (BitVec.toNat creditPacket.burstSeq = 4294967295 ∨ BitVec.toNat
    creditPacket.burstSeq < (window true).burstCount) := by decide +kernel
theorem test_burst_sent : List.find? (enter now reading).burstReady (enter now reading).net.windows = some (window
    true) ∧ (∀ (va : Nat), va ∈ (window true).burstSectors (windowBase (enter now reading) (window true)) (window
    true).next → (enter now reading).sectorPoison View.home (window true).partition va = false) := by decide +kernel

/-! ### Images and launches -/

theorem test_image_copied : TakesOn opLoadImage loadCheck loadQuota (packet 0 (beBytes 8 1 ++ beBytes 8 0 ++ beBytes
    8 152 ++ zeros 8)) session staged ∧ (freshened (heard (packet 0 (beBytes 8 1 ++ beBytes 8 0 ++ beBytes 8 152 ++
    zeros 8)) session staged)).placeWs (BitVec.toNat (packet 0 (beBytes 8 1 ++ beBytes 8 0 ++ beBytes 8 152 ++ zeros
    8)).partition) (ceilDiv (arg (packet 0 (beBytes 8 1 ++ beBytes 8 0 ++ beBytes 8 152 ++ zeros 8)) 16 8) 2097152)
    none = Placement.granted Tier.woodshed [] := by decide +kernel
theorem test_image_checked : ((enter now copying).cmd? (command 512 (Work.loadImage 9)).id = some (command 512
    (Work.loadImage 9)) ∧ (command 512 (Work.loadImage 9)).work = Work.loadImage (image false).handle ∧ (List.find?
    (fun x => decide (x.handle = (image false).handle)) (enter now copying).mem.images = some (image false)) ∧
    (enter now copying).imageBad (image false) (now.errs.any (strikesCopy (image false).partition)) = none) ∧
    ((enter now copyingBad).cmd? (command 512 (Work.loadImage 9)).id = some (command 512 (Work.loadImage 9)) ∧
    (command 512 (Work.loadImage 9)).work = Work.loadImage badImage.handle ∧ (List.find? (fun x => decide (x.handle
    = badImage.handle)) (enter now copyingBad).mem.images = some badImage) ∧ (enter now copyingBad).imageBad
    badImage (now.errs.any (strikesCopy badImage.partition)) = some (bad 7)) := by decide +kernel
theorem test_image_unloaded : Takes opUnloadImage unloadCheck never (packet 0 (beBytes 8 9 ++ zeros 8)) session
    loadedWorld := by decide +kernel
theorem test_launch_waits : TakesOn opLaunch launchCheck never (packet 0 launchParams) session loadedWorld ∧ byCost
    ((heard (packet 0 launchParams) session loadedWorld).ctx opLaunch (packet 0 launchParams) session) (heard
    (packet 0 launchParams) session loadedWorld) = Option.map Except.ok none :=
  by and_intros <;> first | decide +kernel | rfl | simp
theorem test_launch_ends : (enter now finishedRun).run? (launchRun true).id = some (launchRun true) ∧ (launchRun
    true).kind = RunKind.launch (command 514 (Work.launch 3)).id ∧ (enter now finishedRun).cmd? (command 514
    (Work.launch 3)).id = some (command 514 (Work.launch 3)) ∧ (command 514 (Work.launch 3)).journal = 0 ∧ (enter
    now finishedRun).journalOf 0 = none ∧ (launchRun true).poisoned = false ∧ (enter now finishedRun).runRetired
    (launchRun true) = true ∧ ((launchRun true).fail ≠ 0 ∨ ((enter now finishedRun).fenceRun (launchRun
    true)).launchEvents (launchRun true) = []) := by decide +kernel
theorem test_stall_resets : (advance later.dt stalledRun).run? (launchRun true).id = some (launchRun true) ∧
    (launchRun true).started = true ∧ (advance later.dt stalledRun).stalledOut (launchRun true) = true ∧ (Option.any
    (fun x => x.resetting) (stalledRun.part? (launchRun true).partition) = false) := by decide +kernel
theorem test_boundary_acts : ((enter later sleepy).boot.mode = Mode.ready ∧ (enter later sleepy).clock.lastBoundary
    < (enter later sleepy).boundaryNow ∧ (enter later sleepy).boot.pstate = PState.s1 ∧ sleepy.parts = []) ∧ ((enter
    later sleepless).boot.mode = Mode.ready ∧ (enter later sleepless).clock.lastBoundary < (enter later
    sleepless).boundaryNow ∧ (enter later sleepless).boot.pstate = PState.run ∧ sleepless.parts = [] ∧
    sleepless.boot.target = 1 ∧ (enter later sleepless).cmds = [] ∧ sleepless.net.windows = [] ∧
    sleepless.zhevub.posts = [] ∧ (enter later sleepless).zhevub.ops = [] ∧ sleepless.zhevub.waiting = [] ∧ (∀ (k :
    Link), k ∈ sleepless.zhevub.links → k.sumTimes = [])) ∧ ((enter later launched).boot.mode = Mode.ready ∧ (enter
    later launched).clock.lastBoundary < (enter later launched).boundaryNow ∧ afterBoundary = onBoundary later
    launched ∧ afterBoundary.boot.pstate = PState.run ∧ afterBoundary.boot.target = 0 ∧ afterBoundary.parts =
    [partition] ∧ partition.resetting = false ∧ afterBoundary.seqs.table = [] ∧ afterBoundary.seqs.batches = [] ∧
    afterBoundary.seqs.runs = [launchRun false] ∧ (launchRun false).partition = partition.num ∧ (launchRun
    false).started = false ∧ (launchRun false).kind = RunKind.launch (command 514 (Work.launch 3)).id ∧
    afterBoundary.cmd? (command 514 (Work.launch 3)).id = some (command 514 (Work.launch 3)) ∧ (command 514
    (Work.launch 3)).replyTime < (enter later launched).boundaryNow ∧ afterBoundary.journalLets (command 514
    (Work.launch 3)) = true ∧ (List.find? (fun x => decide (x.handle = (launchRun false).image))
    afterBoundary.mem.images = some (image true)) ∧ afterBoundary.placeCores partition.num (imgCores (image
    true).bytes) (maskOf (launchRun false).cores) = some [0] ∧ afterBoundary.damperOpen partition.num = true ∧
    afterBoundary.zhevub.posts = [] ∧ afterBoundary.zhevub.ops = [] ∧ afterBoundary.zhevub.waiting = [] ∧ (∀ (k :
    Link), k ∈ afterBoundary.zhevub.links → k.sumTimes = [])) := by decide +kernel
theorem test_image_named : (landed (packet 0 (beBytes 8 9 ++ zeros 8)) (decoding SeqState.ready)).verdict (packet 0
    (beBytes 8 9 ++ zeros 8)) = Verdict.command session ∧ (heard (packet 0 (beBytes 8 9 ++ zeros 8)) session
    (decoding SeqState.ready)).commonBad opUnloadImage (packet 0 (beBytes 8 9 ++ zeros 8)) = none ∧ ((heard (packet
    0 (beBytes 8 9 ++ zeros 8)) session (decoding SeqState.ready)).image? (BitVec.toNat (packet 0 (beBytes 8 9 ++
    zeros 8)).partition) (arg (packet 0 (beBytes 8 9 ++ zeros 8)) 0 8)).isSome = true ∧ bound SeqState.ready ∈
    (decoding SeqState.ready).seqs.table ∧ (bound SeqState.ready).state ≠ SeqState.closed ∧ (bound
    SeqState.ready).model = arg (packet 0 (beBytes 8 9 ++ zeros 8)) 0 8 := by decide +kernel

/-! ### Sequences -/

theorem test_sequence_opens : Takes opSeqOpen seqOpenCheck seqOpenQuota (packet 0 (openSeqParams 0 0)) session
    loadedWorld ∧ (arg (packet 0 (openSeqParams 0 0)) 30 2).testBit 1 = false ∧ loadedWorld.seqs.table.length <
    16384 := by decide +kernel
theorem test_sequence_revives : Takes opSeqOpen seqOpenCheck seqOpenQuota (packet 0 (openSeqParams 2 5)) session
    (decoding SeqState.evicted) ∧ (arg (packet 0 (openSeqParams 2 5)) 30 2).testBit 1 = true := by decide +kernel
theorem test_sequence_queried : (Takes opSeqQuery (fun c s => badIf (s.seq? c.part (c.be 0 8)).isNone 5) never
    (packet 0 (beBytes 8 5 ++ zeros 8)) session (decoding SeqState.ready)) ∧ (decoding SeqState.ready).seq?
    (BitVec.toNat (packet 0 (beBytes 8 5 ++ zeros 8)).partition) (arg (packet 0 (beBytes 8 5 ++ zeros 8)) 0 8) =
    some (bound SeqState.ready) := by decide +kernel
theorem test_sequence_closes : (TakesOn opSeqClose seqCloseCheck never (packet 0 (beBytes 8 5 ++ zeros 8)) session
    (decoding SeqState.ready) ∧ Numbered (decoding SeqState.ready) ∧ (decoding SeqState.ready).stepsOf (arg (packet
    0 (beBytes 8 5 ++ zeros 8)) 0 8) = []) ∧ (TakesOn opSeqClose seqCloseCheck never (packet 0 (beBytes 8 5 ++ zeros
    8)) session stepping ∧ Numbered stepping ∧ stepping.stepsOf (arg (packet 0 (beBytes 8 5 ++ zeros 8)) 0 8) ≠ [])
    := by decide +kernel
theorem test_step_joins : (TakesOn opSeqStep seqStepCheck never (packet 0 stepParams) session (decoding
    SeqState.ready) ∧ Numbered (decoding SeqState.ready) ∧ (decoding SeqState.ready).seq? (BitVec.toNat (packet 0
    stepParams).partition) (arg (packet 0 stepParams) 0 8) = some (bound SeqState.ready) ∧ seqStepAdmission ((heard
    (packet 0 stepParams) session (decoding SeqState.ready)).ctx opSeqStep (packet 0 stepParams) session) (heard
    (packet 0 stepParams) session (decoding SeqState.ready)) = Option.map Except.ok none ∧ (bound
    SeqState.ready).state ≠ SeqState.evicted) ∧ (TakesOn opSeqStep seqStepCheck never (packet 0 stepParams) session
    (decoding SeqState.evicted) ∧ Numbered (decoding SeqState.evicted) ∧ (decoding SeqState.evicted).seq?
    (BitVec.toNat (packet 0 stepParams).partition) (arg (packet 0 stepParams) 0 8) = some (bound SeqState.evicted) ∧
    seqStepAdmission ((heard (packet 0 stepParams) session (decoding SeqState.evicted)).ctx opSeqStep (packet 0
    stepParams) session) (heard (packet 0 stepParams) session (decoding SeqState.evicted)) = Option.map Except.ok
    none ∧ (bound SeqState.evicted).state = SeqState.evicted) :=
  ⟨by and_intros <;> first | decide +kernel | rfl | simp, by and_intros <;> first | decide +kernel | rfl | simp⟩
theorem test_batch_closes : batching.batch? batch.id = some batch ∧ batch.closeAt ≤ (advance later.dt
    batching).clock.mt := by decide +kernel

/-! ### Page tables -/

theorem test_sequence_bound : Takes opPtEdit bindCheck never (packet 0 bindParams) session unbound
    := by decide +kernel
theorem test_pages_appended : Takes opPtEdit appendCheck never (packet 0 (editParams 0 0 1 0 entryOf0)) session
    pages ∧ Edits (packet 0 (editParams 0 0 1 0 entryOf0)) pages pagedSeq paged ∧ arg (packet 0 (editParams 0 0 1 0
    entryOf0)) 8 2 < paged.tables.length := by decide +kernel
theorem test_pages_replaced : Takes opPtEdit replaceCheck never (packet 0 (editParams 0 1 1 1 entryOf0)) session
    pages ∧ Edits (packet 0 (editParams 0 1 1 1 entryOf0)) pages pagedSeq paged ∧ arg (packet 0 (editParams 0 1 1 1
    entryOf0)) 8 2 < paged.tables.length := by decide +kernel
theorem test_pages_cut : (Takes opPtEdit truncateCheck never (packet 0 (editParams 0 2 0 256 [])) session pages ∧
    Edits (packet 0 (editParams 0 2 0 256 [])) pages pagedSeq paged) ∧ (Takes opPtEdit truncateCheck never (packet 0
    (editParams 65535 2 0 256 [])) session pages ∧ Edits (packet 0 (editParams 65535 2 0 256 [])) pages pagedSeq
    paged) ∧ ((Takes opPtEdit (editBad true fun x x_1 => none) never (packet 0 (editParams 0 3 0 0 [])) session
    pages) ∧ Edits (packet 0 (editParams 0 3 0 0 [])) pages pagedSeq paged) := by decide +kernel
theorem test_pages_reported : (Takes opPtEdit (editBad false fun x x_1 => none) never (packet 0 (editParams 0 5 0 0
    [])) session pages) ∧ Edits (packet 0 (editParams 0 5 0 0 [])) pages pagedSeq paged ∧ arg (packet 0 (editParams
    0 5 0 0 [])) 8 2 ≠ 65535 := by decide +kernel
theorem test_frames_carved : Takes opPtEdit carveCheck carveQuota (packet 0 carveParams) session carving ∧
    carving.alloc? (BitVec.toNat (packet 0 carveParams).partition) (arg (packet 0 carveParams) 32 8) = some kvAlloc
    ∧ (2 = if arg (packet 0 carveParams) 44 4 = 0 then carveMost (arg (packet 0 carveParams) 40 4) kvAlloc.bytes
    else arg (packet 0 carveParams) 44 4) ∧ carving.carveRun 2 = some 0 := by decide +kernel

/-! ### The watch and journals -/

theorem test_policy_set : Takes opWatchSet policyCheck never (packet 0 policyParams) session watched
    := by decide +kernel
theorem test_entries_set : Takes opWatchSet entriesCheck never (packet 0 entriesParams) session watched
    := by decide +kernel
theorem test_watch_cleared : (Takes opWatchSet (fun c s => firstBad [watchCommon c s, s.unitBad 6]) never (packet 0
    ([2] ++ zeros 7)) session watched) := by decide +kernel
theorem test_journal_opens : Takes opStepBegin stepBeginCheck stepBeginQuota (packet 0 (beBytes 2 1 ++ zeros 6 ++
    beBytes 8 1)) session world ∧ shadowPlace ((heard (packet 0 (beBytes 2 1 ++ zeros 6 ++ beBytes 8 1)) session
    world).ctx opStepBegin (packet 0 (beBytes 2 1 ++ zeros 6 ++ beBytes 8 1)) session) (freshened (heard (packet 0
    (beBytes 2 1 ++ zeros 6 ++ beBytes 8 1)) session world)) Tier.woodshed = Placement.granted Tier.woodshed []
    := by decide +kernel
theorem test_commit_waits : TakesOn opStepCommit journalBad never (packet 0 (beBytes 8 8 ++ zeros 8)) session
    journalled := by decide +kernel
theorem test_commit_publishes : Canonical publishing ∧ publishing.journal? 0 = some committing ∧ committing.state =
    JournalState.committing ∧ (∀ (c : Nat), c ∈ committing.cmds → (committing.ended.any fun x => decide (x.cmd = c))
    = true) ∧ committing.failed = 0 ∧ cellsWf committing.shadow = true ∧ (∀ (c : Host.Cell), c ∈ committing.shadow →
    c.fst / granuleBytes ∈ committing.shadowed) := by decide +kernel
theorem test_journal_aborts : Takes opStepAbort journalBad never (packet 0 (beBytes 8 8 ++ zeros 8)) session
    journalled ∧ journalled.journalOf (arg (packet 0 (beBytes 8 8 ++ zeros 8)) 0 8) = some (journal
    JournalState.opened) := by decide +kernel

/-! ### Partitions, resets and counters -/

theorem test_freeze_stamp : freezeCtx.stamp ≤ 40000000 := by
  have hm : freezeHeard.clock.mt + replyBound opCtrFreeze freezePacket ≤ 40000000 := by decide +kernel
  have hl := Nat.mod_lt (Config.replyLatency freezeHeard.fresh) (Nat.succ_pos (replyBound opCtrFreeze freezePacket))
  show freezeHeard.clock.mt + Config.replyLatency freezeHeard.fresh % (replyBound opCtrFreeze freezePacket).succ ≤ _
  omega
theorem test_freeze_taken_2 : TakesOn opCtrFreeze freezeCheck never freezePacket session gridded ∧
    Numbered gridded ∧ arg freezePacket 0 1 = 1 := by
  refine ⟨⟨by decide +kernel, ?_⟩, by decide +kernel, by decide +kernel⟩
  have hc : freezeHeard.commonBad opCtrFreeze freezePacket = none := by decide +kernel
  have hg : freezeHeard.grid? freezeCtx.part (freezeCtx.be 2 2) = some grid := by decide +kernel
  have hb : grid.boundary (freezeCtx.be 8 8) = 40000000 := by decide +kernel
  have ha : freezeCtx.be 0 1 = 1 := by decide +kernel
  have hf : freezeCheck freezeCtx freezeHeard = none := by
    have h3 : freezeHeard.ctrs.freezes.any (·.partition = freezeCtx.part) = false := by decide +kernel
    simp only [freezeCheck, hg, hb, ha, h3, Option.any_some, Option.isNone_some,
      decide_eq_false (Nat.not_lt.mpr test_freeze_stamp)]
    decide
  show freezeHeard.notifyBad opCtrFreeze freezeCheck never freezePacket session = none
  have hn : freezeHeard.notifyBad opCtrFreeze freezeCheck never freezePacket session
      = firstBad [freezeCheck freezeCtx freezeHeard, freezeHeard.activatingBad, freezeHeard.activationBad opCtrFreeze freezePacket,
          freezeHeard.slotsBad opCtrFreeze freezePacket session, never freezeCtx freezeHeard] := by
    unfold State.notifyBad; rw [hc]; rfl
  rw [hn, hf]
  decide +kernel

theorem test_partition_created : Takes opPartCreate partCreateCheck partCreateQuota (packet 255 createParams)
    session twoClusters := by decide +kernel
theorem test_damper_changed : Takes opDamperSet damperSetCheck never (packet 0 damperParams) session regulatedState
    ∧ regulatedState.part? (BitVec.toNat (packet 0 damperParams).partition) = some regulated := by decide +kernel
theorem test_dampers_refill : (5 = refillsDue regulatedState.clock.mt (advance soon.dt regulatedState).clock.mt) ∧
    (0 = refillsDue regulatedState.clock.mt (advance now.dt regulatedState).clock.mt) := by decide +kernel
theorem test_partition_destroyed : TakesOn opPartDestroy partDestroyCheck never (packet 255 ([0] ++ zeros 7))
    session busy ∧ (Option.any (fun x => x.resetting) (busy.part? (arg (packet 255 ([0] ++ zeros 7)) 0 1)) = false)
    := by decide +kernel
theorem test_cores_reset : (resetKind (packet 0 (resetParams 0)) = 0 ∧ TakesOn opResetPart resetPartCheck never
    (packet 0 (resetParams 0)) session busy ∧ Numbered busy) ∧ (resetKind (packet 0 (resetParams 1)) = 1 ∧ TakesOn
    opResetPart resetPartCheck never (packet 0 (resetParams 1)) session busy ∧ Numbered busy) := by decide +kernel
theorem test_partition_resets : resetKind (packet 0 (resetParams 2)) = 2 ∧ TakesOn opResetPart resetPartCheck never
    (packet 0 (resetParams 2)) session busy := by decide +kernel
theorem test_partition_drained : resettingState.part? resetting.num = some resetting ∧ resetting.resetting = true ∧
    resetting.destroying = 0 ∧ (advance now.dt resettingState).drainHeld resetting.num = false := by decide +kernel
theorem test_module_reset_asked : (Takes opResetModule resetModuleCheck never (packet 255 (resetParams 3)) session
    busy ∧ busy.boot.resetReq = none ∧ resetKind (packet 255 (resetParams 3)) = 3) ∧ (Takes opResetModule
    resetModuleCheck never (packet 255 (resetParams 4)) session busy ∧ busy.boot.resetReq = none ∧ resetKind (packet
    255 (resetParams 4)) = 4) := by decide +kernel
theorem test_counters_configured : (Takes opCtrConfig ctrConfigCheck never (packet 0 countersParams) session world ∧
    arg (packet 0 countersParams) 2 2 = 1 ∧ arg (packet 0 countersParams) 0 2 < world.cores.length ∧ arg (packet 0
    countersParams) 0 2 ≠ 65535) ∧ (Takes opCtrConfig ctrConfigCheck never (packet 0 samplingParams) session world ∧
    arg (packet 0 samplingParams) 2 2 = 2) := by decide +kernel
theorem test_freeze_taken : TakesOn opCtrFreeze freezeCheck never (packet 0 (freezeParams 0 1)) session gridded ∧
    Numbered gridded ∧ arg (packet 0 (freezeParams 0 1)) 0 1 = 0 := by decide +kernel
theorem test_freeze_instant : (List.find? (fun x => decide (x.partition = 0)) freezing.ctrs.freezes = some freeze) ∧
    (advance later.dt freezing).grid? 0 freeze.gridId = some grid ∧ grid.boundary freeze.boundary ≤ (advance
    later.dt freezing).clock.mt ∧ freezing.cmd? freeze.cmd = some (command 2049 (Work.ctrFreeze 0))
    := by decide +kernel
theorem test_counters_read : (Takes opCtrRead ctrReadCheck never (packet 0 ([0] ++ zeros 7)) session snapped ∧ arg
    (packet 0 ([0] ++ zeros 7)) 0 1 = 0) ∧ (Takes opCtrRead ctrReadCheck never (packet 0 ([1] ++ zeros 7)) session
    snapped ∧ arg (packet 0 ([1] ++ zeros 7)) 0 1 = 1 ∧ (List.find? (fun x => decide (x.fst = arg (packet 0 ([1] ++
    zeros 7)) 2 2)) (snapped.ctrOf (BitVec.toNat (packet 0 ([1] ++ zeros 7)).partition)).snap = some (arg (packet 0
    ([1] ++ zeros 7)) 2 2, 1, List.replicate 16 9))) ∧ (Takes opCtrRead ctrReadCheck never (packet 0 ([2] ++ zeros
    7)) session snapped ∧ arg (packet 0 ([2] ++ zeros 7)) 0 1 = 2) := by decide +kernel
theorem test_window_ends : world.ctrs.lastWindow < (advance later.dt world).windowBoundary := by decide +kernel

/-! ### Codec engines -/

theorem test_codec_opened : Takes opCodecOpen codecOpenCheck never (packet 0 codecParams) session world ∧ (0 = if
    arg (packet 0 codecParams) 2 1 = 255 then world.idlestEngine else arg (packet 0 codecParams) 2 1)
    := by decide +kernel
theorem test_frames_pushed : TakesOn opCodecPush pushCheck never (packet 0 pushParams) session coding ∧
    pushAdmission ((heard (packet 0 pushParams) session coding).ctx opCodecPush (packet 0 pushParams) session)
    (heard (packet 0 pushParams) session coding) = Option.map Except.ok none :=
  by and_intros <;> first | decide +kernel | rfl | simp
theorem test_codec_closes : (TakesOn opCodecClose codecCloseCheck never (packet 0 (beBytes 8 12 ++ zeros 8)) session
    coding ∧ Numbered coding) ∧ (TakesOn opCodecClose codecCloseCheck never (packet 0 (beBytes 8 12 ++ zeros 8))
    session (encoding 1 0) ∧ Numbered (encoding 1 0)) := by decide +kernel
theorem test_unit_ends : (0 < (encoding 2 0).fuses.variant.engines ∧ 0 < (encoding 2 0).codec.engines.length ∧
    ((encoding 2 0).engineAt 0).unit = (push 2 0).id ∧ (encoding 2 0).push? (push 2 0).id = some (push 2 0) ∧
    (encoding 2 0).codecOf (push 2 0).handle = some encoder ∧ encoder.decode = false ∧ encoder.engine = 0 ∧ (push 2
    0).frame + 1 < (push 2 0).frameCount) ∧ (0 < (encoding 2 1).fuses.variant.engines ∧ 0 < (encoding 2
    1).codec.engines.length ∧ ((encoding 2 1).engineAt 0).unit = (push 2 1).id ∧ (encoding 2 1).push? (push 2 1).id
    = some (push 2 1) ∧ (encoding 2 1).codecOf (push 2 1).handle = some encoder ∧ encoder.decode = false ∧
    encoder.engine = 0 ∧ (push 2 1).frame + 1 < (push 2 1).frameCount) ∧ (0 < (encoding 1 1).fuses.variant.engines ∧
    0 < (encoding 1 1).codec.engines.length ∧ ((encoding 1 1).engineAt 0).unit = (push 1 1).id ∧ (encoding 1
    1).push? (push 1 1).id = some (push 1 1) ∧ (encoding 1 1).codecOf (push 1 1).handle = some encoder ∧
    encoder.decode = false ∧ encoder.engine = 0 ∧ (push 1 1).frame + 1 = (push 1 1).frameCount ∧ encoder.rows ≤
    (push 1 1).row + 1) := by decide +kernel

/-! ### Links and collectives -/

theorem test_frames_acknowledged : InOrder (frameOf []) (enter now unacknowledged) := by decide +kernel
theorem test_frames_replayed : InOrder (frameOf []) (enter now unacknowledged) ∧ CleanLinks unacknowledged ∧
    unacknowledged.zhevub.ops = [] ∧ unacknowledged.zhevub.waiting = [] ∧ (newer = List.filter (fun x => decide (2 ^
    31 ≤ (BitVec.toNat (frameOf []).ackSeq + 2 ^ 32 - BitVec.toNat x.frame.frameSeq) % 2 ^ 32))
    (unacknowledged.linkAt (frameOf []).link).replay) ∧ (∀ (x : SentFrame), x ∈ newer → x.replays < 8)
    := by decide +kernel
theorem test_credit_taken : InOrder (frameOf (beBytes 4 3)) (enter now linked) := by decide +kernel
theorem test_unknown_frames_counted : (enter now linked).linkUp (frameOf []).link = true ∧ (9 = 0 ∨ 6 < 9)
    := by decide +kernel
theorem test_crc_failure_answered : (enter now linked).linkUp 0 = true := by decide +kernel
theorem test_link_lost : (enter now linked).linkPresent 0 = true ∧ linked.boot.mode = Mode.ready ∧ (linked.linkAt
    0).state ≠ LinkState.down ∧ (linked.linkAt 0).replay = [] ∧ CleanLinks linked ∧ linked.zhevub.ops = [] ∧
    linked.zhevub.waiting = [] := by decide +kernel
theorem test_fec_counted : (enter now linked).linkPresent 0 = true ∧ (linked.linkAt 0).state = LinkState.up ∧
    linked.boot.mode = Mode.ready ∧ (linked.linkAt 0).fecTimes = [] ∧ (linked.linkAt 0).replay = [] ∧ CleanLinks
    linked ∧ linked.zhevub.ops = [] ∧ linked.zhevub.waiting = [] := by decide +kernel
theorem test_link_retrained : (enter later retraining).linkPresent outcome.link = true ∧ retraining.boot.mode =
    Mode.ready ∧ retraining.boot.pstate = PState.run ∧ (retraining.linkAt outcome.link).state ≠ LinkState.up ∧
    retraining.set.linkRetrain.getD outcome.link 0 = 1 ∧ (retraining.linkAt outcome.link).lastTrain + 1000000000 ≤
    retraining.clock.steady + later.dt ∧ outcome.link < retraining.zhevub.links.length := by decide +kernel
theorem test_group_defined : (TakesOn opCollGroup groupCheck never (packet 0 (groupParams 4)) session groupable ∧
    Numbered groupable ∧ arg (packet 0 (groupParams 4)) 2 2 ≠ 0 ∧ groupable.alloc? (BitVec.toNat (packet 0
    (groupParams 4)).partition) (arg (packet 0 (groupParams 4)) 16 8) = some (alloc 1 2097152) ∧ group = groupOf
    ((heard (packet 0 (groupParams 4)) session groupable).ctx opCollGroup (packet 0 (groupParams 4)) session)
    ((heard (packet 0 (groupParams 4)) session groupable).readMem View.home (BitVec.toNat (packet 0 (groupParams
    4)).partition) ((alloc 1 2097152).base + arg (packet 0 (groupParams 4)) 24 8) (16 * arg (packet 0 (groupParams
    4)) 2 2)) ∧ (heard (packet 0 (groupParams 4)) session groupable).rangePoison View.home (BitVec.toNat (packet 0
    (groupParams 4)).partition) ((alloc 1 2097152).base + arg (packet 0 (groupParams 4)) 24 8) (16 * arg (packet 0
    (groupParams 4)) 2 2) = false ∧ (heard (packet 0 (groupParams 4)) session groupable).groupOk group = true) ∧
    (TakesOn opCollGroup groupCheck never (packet 0 (groupParams 0)) session grouped ∧ Numbered grouped ∧ arg
    (packet 0 (groupParams 0)) 2 2 = 0) := by decide +kernel
theorem test_operations_posted : TakesOn opCollPost postCheck never (packet 0 collParams) session grouped ∧ byCost
    ((heard (packet 0 collParams) session grouped).ctx opCollPost (packet 0 collParams) session) (heard (packet 0
    collParams) session grouped) = Option.map Except.ok none :=
  by and_intros <;> first | decide +kernel | rfl | simp
theorem test_chunk_taken_3 : InOrder (chunkFrame 1) (enter now (collecting vectorOp)) ∧ 32 ≤ (chunkFrame
    1).payload.length ∧ ((collecting vectorOp).group? (BitVec.toNat (chunkFrame 1).groupTag)).isSome = true ∧ Awaits
    (collecting vectorOp) vectorOp group reduceStep ∧ vectorOp.tag = BitVec.toNat (chunkFrame 1).groupTag ∧
    vectorOp.disagrees (chunkFrame 1).payload = false ∧ vectorOp.early = false ∧ vectorOp.kind ≠ 3 ∧
    vectorOp.incoming = [] ∧ vectorOp.done = [] ∧ 2 ≤ (vectorOp.awaited group reduceStep).length ∧ (vectorOp.awaited
    group reduceStep)[beAt (chunkFrame 1).payload 8 4]? = some (49154, 1) ∧ 49154 + 1 ≤ vectorOp.acc.length ∧
    reduceStep.combine = true ∧ (Option.any (fun x => x.combine) (vectorOp.steps group)[vectorOp.step + 1]? = true)
    ∧ beAt (chunkFrame 1).payload 12 2 = vectorOp.step ∧ beAt (chunkFrame 1).payload 16 2 = 1 ∧ beAt (chunkFrame
    1).payload 14 2 = 0 ∧ beAt (chunkFrame 1).payload 20 4 = 0 ∧ beAt (chunkFrame 1).payload 24 4 = crc32c
    (List.drop 32 (chunkFrame 1).payload) := by
  refine ⟨by decide +kernel, by decide +kernel, by decide +kernel, ⟨rfl, ?_⟩, ?_⟩
  · refine ⟨by decide +kernel, by decide +kernel, by decide +kernel, by decide +kernel, by decide +kernel, by decide +kernel,
      by decide +kernel, by decide +kernel⟩
  · refine ⟨by decide +kernel, by decide +kernel, by decide +kernel, by decide +kernel, by decide +kernel, by decide +kernel,
      by decide +kernel, by decide +kernel, ?_, by decide +kernel, by decide +kernel, by decide +kernel, by decide +kernel,
      by decide +kernel, by decide +kernel, by decide +kernel⟩
    show 49154 + 1 ≤ (List.replicate 65540 (0 : Nat)).length
    rw [List.length_replicate]; decide
theorem test_chunk_taken : (InOrder (chunkFrame 2) (enter now grouped) ∧ 32 ≤ (chunkFrame 2).payload.length ∧
    (grouped.group? (BitVec.toNat (chunkFrame 2).groupTag)).isSome = true ∧ grouped.zhevub.ops = [] ∧ CleanLinks
    grouped) ∧ (InOrder (chunkFrame 2) (enter now (collecting runningOp)) ∧ 32 ≤ (chunkFrame 2).payload.length ∧
    ((collecting runningOp).group? (BitVec.toNat (chunkFrame 2).groupTag)).isSome = true ∧ Awaits (collecting
    runningOp) runningOp group reduceStep ∧ runningOp.tag = BitVec.toNat (chunkFrame 2).groupTag ∧
    runningOp.disagrees (chunkFrame 2).payload = false ∧ runningOp.step ≤ beAt (chunkFrame 2).payload 12 2 ∧ (beAt
    (chunkFrame 2).payload 12 2 = runningOp.step → runningOp.done.contains (beAt (chunkFrame 2).payload 8 4) =
    false) ∧ (∀ (c : ChunkIn), c ∈ runningOp.incoming → ¬(c.step = beAt (chunkFrame 2).payload 12 2 ∧ c.chunk = beAt
    (chunkFrame 2).payload 8 4)) ∧ 1 < beAt (chunkFrame 2).payload 16 2) := by decide +kernel
theorem test_chunk_sent : (collecting runningOp).zhevub.ops = [runningOp] ∧ runningOp.phase = CollPhase.running ∧
    (collecting runningOp).group? runningOp.tag = some group ∧ List.find? ((enter now (collecting
    runningOp)).chunkReady 0 runningOp) runningOp.outgoing = some chunkOut ∧ (enter now (collecting
    runningOp)).chunkLink group chunkOut = some 0 := by decide +kernel
theorem test_chunk_controls : InOrder (controlFrame 0) (enter now (collecting sentOp)) ∧ (collecting sentOp).opOf
    (controlFrame 0) = some sentOp ∧ ((sentOp.outgoing.any fun c => (collecting sentOp).chunkNamed (controlFrame 0)
    sentOp c && decide (c.resends < 3)) = true) := by decide +kernel
theorem test_operations_broken : (Alone (enter now (collecting runningOp)) runningOp collCommand ∧ runningOp.phase =
    CollPhase.running ∧ InOrder (controlFrame 0) (enter now (collecting runningOp)) ∧ runningOp.tag = BitVec.toNat
    (controlFrame 0).groupTag) ∧ (Alone (enter later (collecting runningOp)) runningOp collCommand ∧ runningOp.phase
    = CollPhase.running ∧ InOrder (controlFrame 0) (enter later (collecting runningOp)) ∧ runningOp.tag =
    BitVec.toNat (controlFrame 0).groupTag) ∧ (Alone (enter later (collecting runningOp)) runningOp collCommand ∧
    runningOp.phase = CollPhase.running ∧ runningOp.reporting = false ∧ runningOp.lastChunk + (collecting
    runningOp).set.collWaitLimit * 1000000 ≤ (collecting runningOp).clock.steady + later.dt) := by decide +kernel
theorem test_operations_settled : ((collecting releasedOp).zhevub.ops = [releasedOp] ∧ (collecting
    releasedOp).zhevub.waiting = [] ∧ CleanLinks (collecting releasedOp) ∧ releasedOp.phase = CollPhase.released ∧
    releasedOp.consumers = [] ∧ (collecting releasedOp).journalOf releasedOp.journal = none ∧ (collecting
    releasedOp).journalOf 0 = none ∧ InOrder (controlFrame 0) (enter now (collecting releasedOp)) ∧ (collecting
    releasedOp).opOf (controlFrame 0) = some releasedOp) ∧ ((collecting releasedOp).zhevub.ops = [releasedOp] ∧
    (collecting releasedOp).zhevub.waiting = [] ∧ CleanLinks (collecting releasedOp) ∧ releasedOp.phase =
    CollPhase.released ∧ releasedOp.consumers = [] ∧ (collecting releasedOp).journalOf releasedOp.journal = none ∧
    (collecting releasedOp).journalOf 0 = none ∧ InOrder (controlFrame 1) (enter now (collecting releasedOp)) ∧
    (collecting releasedOp).opOf (controlFrame 1) = some releasedOp ∧ beAt (controlFrame 1).payload 1 1 ≠ 0) ∧
    ((collecting releasedOp).zhevub.ops = [releasedOp] ∧ (collecting releasedOp).zhevub.waiting = [] ∧ CleanLinks
    (collecting releasedOp) ∧ releasedOp.phase = CollPhase.released ∧ releasedOp.consumers = [] ∧ (collecting
    releasedOp).journalOf releasedOp.journal = none ∧ (collecting releasedOp).journalOf 0 = none ∧ InOrder
    (controlFrame 1) (enter later (collecting releasedOp)) ∧ (collecting releasedOp).opOf (controlFrame 1) = some
    releasedOp ∧ beAt (controlFrame 1).payload 1 1 ≠ 0) ∧ ((collecting releasedOp).zhevub.ops = [releasedOp] ∧
    (collecting releasedOp).zhevub.waiting = [] ∧ CleanLinks (collecting releasedOp) ∧ releasedOp.phase =
    CollPhase.released ∧ releasedOp.consumers = [] ∧ (collecting releasedOp).journalOf releasedOp.journal = none ∧
    (collecting releasedOp).journalOf 0 = none ∧ releasedOp.releasedAt + (collecting releasedOp).set.collSettleLimit
    * 1000 ≤ (collecting releasedOp).clock.steady + later.dt) ∧ ((collecting runningOp).zhevub.ops = [runningOp] ∧
    (collecting runningOp).zhevub.waiting = [] ∧ CleanLinks (collecting runningOp) ∧ Awaits (collecting runningOp)
    runningOp group reduceStep ∧ InOrder (controlFrame 0) (enter now (collecting runningOp)) ∧ (collecting
    runningOp).opOf (controlFrame 0) = some runningOp ∧ beAt (controlFrame 0).payload 1 1 = 0) :=
  ⟨by decide +kernel, by decide +kernel, by decide +kernel, by decide +kernel, by decide +kernel⟩

/-! ### Firmware -/

theorem test_image_staged : TakesOn opFwStage fwStageCheck never (packet 255 stageParams) session updating ∧
    TwoSlots updating ∧ 1 = updating.targetSlot (arg (packet 255 stageParams) 1 1) ∧ updating.alloc? (arg (packet
    255 stageParams) 0 1) (arg (packet 255 stageParams) 8 8) = some (alloc 1 2097152) := by decide +kernel
theorem test_image_verified : TwoSlots verifying ∧ verifying.fw.stage = some stage ∧ stage.slot < 2 ∧ verifying.cmd?
    stage.cmd = some stageCommand ∧ some (513, 7) = verifying.fwBad (verifying.fwSlot stage.slot).bytes
    := by decide +kernel
theorem test_relay_starts : TakesOn opFwRelay fwRelayCheck never (packet 255 relayParams) session relayReady ∧
    List.map (hopAt (List.drop 8 (body (packet 255 relayParams)))) (List.range (arg (packet 255 relayParams) 1 1)) =
    [hop] ∧ relayReady.linkUp hop.link = true ∧ (relayReady.linkAt hop.link).peerSerial = hop.expect
    := by decide +kernel
theorem test_relay_taken : (InOrder (relayFrame 0 0 370 relayHop) (advance now.dt updating) ∧ (1 = (Option.map (fun
    x => x.target) (List.map (hopAt (List.drop 32 (relayFrame 0 0 370 relayHop).payload)) (List.range (((relayFrame
    0 0 370 relayHop).payload.length - 32) / 16))).head?).getD 0) ∧ (advance now.dt updating).relayBad 1 (beAt
    (relayFrame 0 0 370 relayHop).payload 16 8) = none ∧ TwoSlots updating) ∧ (InOrder (relayFrame 0 0 8 relayHop)
    (advance now.dt updating) ∧ (1 = (Option.map (fun x => x.target) (List.map (hopAt (List.drop 32 (relayFrame 0 0
    8 relayHop).payload)) (List.range (((relayFrame 0 0 8 relayHop).payload.length - 32) / 16))).head?).getD 0) ∧
    (advance now.dt updating).relayBad 1 (beAt (relayFrame 0 0 8 relayHop).payload 16 8) = some 7)
    := by decide +kernel
theorem test_relay_stored : (InOrder (relayFrame 1 0 4 [5, 6]) (advance now.dt receiving) ∧ receiving.relayOf
    (relayFrame 1 0 4 [5, 6]).payload = some relayIn ∧ TwoSlots receiving ∧ relayIn.slot < 2 ∧ relayIn.inLink = some
    (relayFrame 1 0 4 [5, 6]).link ∧ beAt (relayFrame 1 0 4 [5, 6]).payload 1 1 + 1 = relayIn.hop ∧ beAt (relayFrame
    1 0 4 [5, 6]).payload 16 8 = relayIn.received ∧ relayIn.received < relayIn.length ∧ [5, 6] = List.take
    (relayIn.length - relayIn.received) (List.drop 32 (relayFrame 1 0 4 [5, 6]).payload) ∧ relayIn.received + [5,
    6].length < relayIn.length) ∧ (InOrder (relayFrame 1 0 4 [5, 6, 7, 8]) (advance now.dt receiving) ∧
    receiving.relayOf (relayFrame 1 0 4 [5, 6, 7, 8]).payload = some relayIn ∧ TwoSlots receiving ∧ relayIn.slot < 2
    ∧ relayIn.inLink = some (relayFrame 1 0 4 [5, 6, 7, 8]).link ∧ beAt (relayFrame 1 0 4 [5, 6, 7, 8]).payload 1 1
    + 1 = relayIn.hop ∧ beAt (relayFrame 1 0 4 [5, 6, 7, 8]).payload 16 8 = relayIn.received ∧ relayIn.received <
    relayIn.length ∧ [5, 6, 7, 8] = List.take (relayIn.length - relayIn.received) (List.drop 32 (relayFrame 1 0 4
    [5, 6, 7, 8]).payload) ∧ some (513, 7) = receiving.fwBad ((receiving.fwSlot relayIn.slot).bytes ++ [5, 6, 7, 8])
    ∧ relayIn.length ≤ relayIn.received + [5, 6, 7, 8].length ∧ (relayIn.hops = [] ∨ (some (513, 7)).isSome = true))
    := by decide +kernel
theorem test_relay_reported : (InOrder (reportFrame 0) (advance now.dt relaying) ∧ relaying.relayOf (reportFrame
    0).payload = some relayOut ∧ (Option.map (fun x => x.link) relayOut.hops.head? = some (reportFrame 0).link) ∧
    relayOut.inLink = none ∧ [some (reported (reportFrame 0)), none] = relayOut.results.set (beAt (reportFrame
    0).payload 1 1) (some (reported (reportFrame 0))) ∧ (reported (reportFrame 0)).status = 0 ∧ (([some (reported
    (reportFrame 0)), none].all fun x => x.isSome) = false)) ∧ (InOrder (reportFrame 1025) (advance now.dt relaying)
    ∧ relaying.relayOf (reportFrame 1025).payload = some relayOut ∧ (Option.map (fun x => x.link)
    relayOut.hops.head? = some (reportFrame 1025).link) ∧ relayOut.inLink = none ∧ [some (reported (reportFrame
    1025)), none] = relayOut.results.set (beAt (reportFrame 1025).payload 1 1) (some (reported (reportFrame 1025)))
    ∧ ((reported (reportFrame 1025)).status ≠ 0 ∨ ([some (reported (reportFrame 1025)), none].all fun x => x.isSome)
    = true) ∧ (advance now.dt relaying).cmd? relayOut.cmd = some relayCommand) ∧ (InOrder (reportFrame 1025)
    (advance now.dt relayingMiddle) ∧ relayingMiddle.relayOf (reportFrame 1025).payload = some relayMiddle ∧
    (Option.map (fun x => x.link) relayMiddle.hops.head? = some (reportFrame 1025).link) ∧ relayMiddle.inLink = some
    1) := by decide +kernel
theorem test_relay_ends : (relaying.fw.relay = some relayOut ∧ relaying.clock.steady + now.dt < relayOut.lastReport
    + 300 * 10 ^ 9) ∧ (relaying.fw.relay = some relayOut ∧ relayOut.lastReport + 300 * 10 ^ 9 ≤
    relaying.clock.steady + atLast.dt ∧ relayOut.inLink = none ∧ relaying.cmd? relayOut.cmd = some relayCommand)
    := by decide +kernel
theorem test_slot_armed : (Takes opFwArm fwArmCheck never (packet 255 armParams) session armable) ∧ (armed.fw.armed
    = some (1, 200000000) ∧ (Takes opFwDisarm (fun x s => badIf s.fw.armed.isNone 15) never (packet 255 (zeros 8))
    session armed)) := by decide +kernel
theorem test_activation_begins : armed.fw.armed = some (1, 200000000) ∧ armed.boot.resetReq = none ∧ TwoSlots armed
    ∧ 200000000 ≤ (advance later.dt armed).clock.mt := by decide +kernel
theorem test_quote_asked : TakesOn opAttest attestCheck never (packet 255 (zeros 40)) session world
    := by decide +kernel
theorem test_quote_signed : attesting.fw.attests = [1] ∧ attesting.cmd? 1 = some attestCommand ∧ attestCommand.work
    = Work.attest (zeros 32) 1 ∧ (advance now.dt attesting).quoteBody (zeros 32) (attesting.net.eventSeq + 1) =
    (advance now.dt attesting).quoteBody (zeros 32) (attesting.net.eventSeq + 1) :=
  by and_intros <;> first | decide +kernel | rfl | simp
theorem test_heartwood_stored : (storing.flash.heartwood.length = 2 ∧ storing.fw.storeDue = true) ∧
    (world.flash.heartwood.length = 2 ∧ world.fw.storeDue = false) := by decide +kernel

/-! ### Registers -/

theorem test_registers_read : (Takes opRegRead regReadCheck never (packet 255 (readParams 147712)) session counted ∧
    arg (packet 255 (readParams 147712)) 4 2 = 1 ∧ arg (packet 255 (readParams 147712)) 0 4 ≠ 147464 ∧ (heard
    (packet 255 (readParams 147712)) session counted).readReg 0 (arg (packet 255 (readParams 147712)) 0 4) = some
    (100, heard (packet 255 (readParams 147712)) session counted)) ∧ (Takes opRegRead regReadCheck never (packet 255
    (readParams 65540)) session counted ∧ arg (packet 255 (readParams 65540)) 4 2 = 1 ∧ arg (packet 255 (readParams
    65540)) 0 4 ≠ 147464 ∧ (heard (packet 255 (readParams 65540)) session counted).readReg 0 (arg (packet 255
    (readParams 65540)) 0 4) = some (3, readLeft (packet 255 (readParams 65540)) counted 65540)) ∧ (Takes opRegRead
    regReadCheck never (packet 255 (readParams 148992)) session counted ∧ arg (packet 255 (readParams 148992)) 4 2 =
    1 ∧ arg (packet 255 (readParams 148992)) 0 4 ≠ 147464 ∧ (heard (packet 255 (readParams 148992)) session
    counted).readReg 0 (arg (packet 255 (readParams 148992)) 0 4) = some (4, readLeft (packet 255 (readParams
    148992)) counted 148992)) ∧ (Takes opRegRead regReadCheck never (packet 255 (readParams 147464)) session counted
    ∧ arg (packet 255 (readParams 147464)) 4 2 = 1 ∧ arg (packet 255 (readParams 147464)) 0 4 = 147464) :=
  ⟨by decide +kernel, by decide +kernel, by decide +kernel, by decide +kernel⟩
theorem test_registers_written : (Takes opRegWrite regWriteCheck never (packet 255 (writeParams 65536 503973120))
    session counted ∧ 503973120 = arg (packet 255 (writeParams 65536 503973120)) 8 4 ∧ arg (packet 255 (writeParams
    65536 503973120)) 4 2 = 1 ∧ arg (packet 255 (writeParams 65536 503973120)) 0 4 = 65536) ∧ (Takes opRegWrite
    regWriteCheck never (packet 255 (writeParams 65536 655361)) session counted ∧ 655361 = arg (packet 255
    (writeParams 65536 655361)) 8 4 ∧ arg (packet 255 (writeParams 65536 655361)) 4 2 = 1 ∧ arg (packet 255
    (writeParams 65536 655361)) 0 4 = 65536) ∧ (Takes opRegWrite regWriteCheck never (packet 255 (writeParams 147712
    7)) session counted ∧ 7 = arg (packet 255 (writeParams 147712 7)) 8 4 ∧ arg (packet 255 (writeParams 147712 7))
    4 2 = 1 ∧ arg (packet 255 (writeParams 147712 7)) 0 4 = 147712) ∧ (Takes opRegWrite regWriteCheck never (packet
    255 (writeParams 147968 2097168)) session counted ∧ 2097168 = arg (packet 255 (writeParams 147968 2097168)) 8 4
    ∧ arg (packet 255 (writeParams 147968 2097168)) 4 2 = 1 ∧ arg (packet 255 (writeParams 147968 2097168)) 0 4 =
    147968) ∧ (Takes opRegWrite regWriteCheck never (packet 255 (writeParams 147972 7)) session counted ∧ 7 = arg
    (packet 255 (writeParams 147972 7)) 8 4 ∧ arg (packet 255 (writeParams 147972 7)) 4 2 = 1 ∧ (arg (packet 255
    (writeParams 147972 7)) 0 4 = 65540 ∨ arg (packet 255 (writeParams 147972 7)) 0 4 = 65552 ∨ arg (packet 255
    (writeParams 147972 7)) 0 4 = 147468 ∨ arg (packet 255 (writeParams 147972 7)) 0 4 = 147972)) :=
  ⟨by decide +kernel, by decide +kernel, by decide +kernel, by decide +kernel, by decide +kernel⟩
theorem test_time_controlled : (world.portUp = true ∧ 1310978 = 1310978) ∧ (world.portUp = true ∧ 4294967295 =
    4294967295) := by decide +kernel
theorem test_flash_programmed : (TwoSlots programming ∧ programming.boot.mode = Mode.kindling ∧ 1 < 2) ∧ (TwoSlots
    programming ∧ programming.boot.mode = Mode.kindling ∧ (List.replicate 256 7).length = 256 ∧
    programming.fw.progSlot = some 1 ∧ 1 < 2 ∧ programming.fw.progOffset + 1024 ≤ 67108864) ∧ (TwoSlots updating ∧
    updating.boot.mode ≠ Mode.kindling) := by decide +kernel
theorem test_rap_owned : (RapTaken (rapPacket 2 kindler 0 0 []) 2 unowned) ∧ (RapTaken (rapPacket 2 stranger 0 0 [])
    2 kindling) ∧ (RapTaken (rapPacket 3 kindler 0 0 []) 3 kindling) ∧ (RapTaken (rapPacket 3 stranger 0 0 []) 3
    kindling) :=
  ⟨by decide +kernel, by decide +kernel, by decide +kernel, by decide +kernel⟩
theorem test_rap_reads : (RapTaken (rapPacket 0 kindler 32772 1 [0]) 0 kindling ∧ kindling.owns (rapPacket 0 kindler
    32772 1 [0]).src = true ∧ between 1 (BitVec.toNat (rapPacket 0 kindler 32772 1 [0]).count) 256 = true ∧
    (regRange (BitVec.toNat (rapPacket 0 kindler 32772 1 [0]).address) (BitVec.toNat (rapPacket 0 kindler 32772 1
    [0]).count)).all (advance (rapPacket 0 kindler 32772 1 [0]).dt kindling).mapped = true) ∧ (RapTaken (rapPacket 0
    kindler 147464 1 [0]) 0 kindling ∧ kindling.owns (rapPacket 0 kindler 147464 1 [0]).src = true ∧ between 1
    (BitVec.toNat (rapPacket 0 kindler 147464 1 [0]).count) 256 = true ∧ (regRange (BitVec.toNat (rapPacket 0
    kindler 147464 1 [0]).address) (BitVec.toNat (rapPacket 0 kindler 147464 1 [0]).count)).all (advance (rapPacket
    0 kindler 147464 1 [0]).dt kindling).mapped = true) ∧ (RapTaken (rapPacket 0 stranger 32772 1 [0]) 0 kindling ∧
    kindling.owns (rapPacket 0 stranger 32772 1 [0]).src = false) ∧ (RapTaken (rapPacket 0 kindler 4 1 [0]) 0
    kindling ∧ kindling.owns (rapPacket 0 kindler 4 1 [0]).src = true ∧ (between 1 (BitVec.toNat (rapPacket 0
    kindler 4 1 [0]).count) 256 && (regRange (BitVec.toNat (rapPacket 0 kindler 4 1 [0]).address) (BitVec.toNat
    (rapPacket 0 kindler 4 1 [0]).count)).all (advance (rapPacket 0 kindler 4 1 [0]).dt kindling).mapped) = false)
    :=
  ⟨by decide +kernel, by decide +kernel, by decide +kernel, by decide +kernel⟩
theorem test_rap_writes : (RapTaken (rapPacket 1 stranger 32768 1 [3]) 1 kindling ∧ kindling.owns (rapPacket 1
    stranger 32768 1 [3]).src = false) ∧ (RapTaken (rapPacket 1 kindler 32768 1 [BitVec.toNat startStep3]) 1
    kindling ∧ kindling.owns (rapPacket 1 kindler 32768 1 [BitVec.toNat startStep3]).src = true ∧ BitVec.toNat
    (rapPacket 1 kindler 32768 1 [BitVec.toNat startStep3]).count = 1 ∧ (rapPacket 1 kindler 32768 1 [BitVec.toNat
    startStep3]).values = [startStep3] ∧ BitVec.toNat (rapPacket 1 kindler 32768 1 [BitVec.toNat
    startStep3]).address = 32768 ∧ kindling.boot.stepRunning = 0 ∧ 3 ≤ BitVec.toNat startStep3 % 16 ∧ BitVec.toNat
    startStep3 % 16 ≤ kindling.boot.stepDone + 1 ∧ BitVec.toNat startStep3 % 16 ≤ 11 ∧ (BitVec.toNat startStep3 % 16
    = 3 → kindling.boot.stepDone = 2) ∧ 5 ≤ BitVec.toNat startStep3 / 128 % 64 ∧ BitVec.toNat startStep3 / 128 % 64
    ≤ 50) ∧ (RapTaken (rapPacket 1 kindler 147712 1 [10001]) 1 kindling ∧ kindling.owns (rapPacket 1 kindler 147712
    1 [10001]).src = true ∧ BitVec.toNat (rapPacket 1 kindler 147712 1 [10001]).count = 1 ∧ (rapPacket 1 kindler
    147712 1 [10001]).values = [10001] ∧ BitVec.toNat (rapPacket 1 kindler 147712 1 [10001]).address = 147712 ∧
    10000 < 10001 % 2 ^ 14) := by decide +kernel
theorem test_rap_repeated : ((2, Instr.claim) ∈ [(0, Instr.rapRead), (1, Instr.rapWrite), (2, Instr.claim), (3,
    Instr.releaseRap)] ∧ repeated.owns (rapPacket 2 kindler 0 0 []).src = true ∧ repeated.boot.lastRap = some
    answered ∧ answered.seq = BitVec.toNat (rapPacket 2 kindler 0 0 []).seq ∧ ((advance (rapPacket 2 kindler 0 0
    []).dt repeated).received (rapPacket 2 kindler 0 0 []).src.ip (20 + 4 * (rapPacket 2 kindler 0 0
    []).values.length)).rapDiscards (rapPacket 2 kindler 0 0 []) 2 = false) ∧ ((2, Instr.claim) ∈ [(0,
    Instr.rapRead), (1, Instr.rapWrite), (2, Instr.claim), (3, Instr.releaseRap)] ∧ RapTaken (rapPacket 2 kindler 0
    0 []) 2 unowned) ∧ ((0, Instr.rapRead) ∈ [(0, Instr.rapRead), (1, Instr.rapWrite), (2, Instr.claim), (3,
    Instr.releaseRap)] ∧ RapTaken (rapPacket 0 kindler 32772 1 [0]) 0 kindling) :=
  ⟨by and_intros <;> first | decide +kernel | rfl | simp, by and_intros <;> first | decide +kernel | rfl | simp,
      by and_intros <;> first | decide +kernel | rfl | simp⟩
theorem test_owner_rules : (RapTaken (rapPacket 2 kindler 0 0 []) 2 unowned) ∧ (RapTaken (rapPacket 3 kindler 0 0
    []) 3 kindling ∧ kindling.owns (rapPacket 3 kindler 0 0 []).src = true) ∧ (RapTaken (rapPacket 0 stranger 32772
    1 [0]) 0 kindling ∧ kindling.owns (rapPacket 0 stranger 32772 1 [0]).src = false) ∧ (RapTaken (rapPacket 1
    stranger 32768 1 [3]) 1 kindling ∧ kindling.owns (rapPacket 1 stranger 32768 1 [3]).src = false) :=
  ⟨by decide +kernel, by decide +kernel, by decide +kernel, by decide +kernel⟩

/-! ### Bring-up and resets -/

theorem test_warm_resets : warmAsked.boot.resetReq = some (ResetReq.warm 3 2) := by decide +kernel
theorem test_power_on_resets : (world.portUp = true ∧ 10000 ≤ 10000) ∧ (9999 < 10000) ∧ (railing.boot.mode =
    Mode.rails) := by decide +kernel
theorem test_rails_follow : (world.boot.mode ≠ Mode.off ∧ (43999 < 44000 ∨ 65000 < 43999 ∨ (43999 < 48000 ∨ 60000 <
    43999) ∧ 10000000 < 1)) ∧ (44000 ≤ 47999 ∧ 47999 ≤ 65000 ∧ (48000 ≤ 47999 ∧ 47999 ≤ 60000 ∨ 10000000 ≤
    10000000)) ∧ (world.boot.mode ≠ Mode.off ∧ (47999 < 44000 ∨ 65000 < 47999 ∨ (47999 < 48000 ∨ 60000 < 47999) ∧
    10000000 < 10000001)) ∧ (off.boot.mode = Mode.off) :=
  ⟨by decide +kernel, by decide +kernel, by decide +kernel, by decide +kernel⟩
theorem test_resumes_alone : resuming.boot.mode = Mode.kindling ∧ resuming.boot.autoRun = true ∧
    resuming.boot.stepRunning = 0 ∧ resuming.boot.stepDone = 2 := by decide +kernel
theorem test_fuses_read : StepDue 3 (stepping_ 3) := by decide +kernel
theorem test_cores_tested : StepDue 4 (stepping_ 4) := by decide +kernel
theorem test_cores_enabled : StepDue 5 (stepping_ 5) ∧ (stepping_ 5).cores.length = 128 ∧ (stepping_
    5).boot.enabled.length = 4 := by decide +kernel
theorem test_stacks_trained : StepDue 6 (stepping_ 6) ∧ (stepping_ 6).mem.hbmSet.length = 32 ∧ (stepping_
    6).flash.hbmTraining.length = 32 := by decide +kernel
theorem test_links_trained : StepDue 7 (stepping_ 7) ∧ (stepping_ 7).zhevub.links.length = 64 := by decide +kernel
theorem test_links_checked : StepDue 8 checking ∧ checking.zhevub.links.length = 64 := by decide +kernel
theorem test_firmware_boots : StepDue 9 (stepping_ 9) ∧ TwoSlots (stepping_ 9) ∧ (stepping_ 9).fw.progFirst = false
    ∧ (stepping_ 9).bootRecord.trial = none ∧ (0 = if (stepping_ 9).slotState 1 = SlotState.active then 1 else 0) ∧
    false = (stepping_ 9).bootable 0 ∧ false = (stepping_ 9).bootable (1 - 0) := by decide +kernel
theorem test_firmware_spreads : (StepDue 10 spreading ∧ (∀ (x : Nat × Nat), x ∈ [(0, 1)] →
    (spreading.boot.enabled.getD x.fst 0).testBit x.snd = false)) ∧ (StepDue 10 spreading ∧ [(0, 0)].head? = some
    (0, 0) ∧ (spreading.boot.enabled.getD (0, 0).fst 0).testBit (0, 0).snd = true) := by decide +kernel
theorem test_becomes_ready : (StepDue 11 (stepping_ 11) ∧ TwoSlots (stepping_ 11) ∧ (stepping_ 11).fw.activeSlot <
    2) ∧ (StepDue 11 trying ∧ TwoSlots trying ∧ trying.fw.activeSlot < 2) := by decide +kernel
theorem test_step_completes : ((acted 4 2 true).boot.mode = Mode.kindling ∧ (acted 4 2 true).boot.stepRunning = 4 ∧
    4 ≠ 0 ∧ (acted 4 2 true).boot.stepActed = true ∧ (acted 4 2 true).boot.endResult = 2) ∧ ((acted 4 1
    false).boot.mode = Mode.kindling ∧ (acted 4 1 false).boot.stepRunning = 4 ∧ 4 ≠ 0 ∧ (acted 4 1
    false).boot.stepActed = true ∧ (acted 4 1 false).boot.endResult ≠ 2 ∧ ((acted 4 1 false).boot.autoRun = false ∨
    11 ≤ 4)) ∧ ((acted 4 1 true).boot.mode = Mode.kindling ∧ (acted 4 1 true).boot.stepRunning = 4 ∧ 4 ≠ 0 ∧ (acted
    4 1 true).boot.stepActed = true ∧ (acted 4 1 true).boot.endResult ≠ 2 ∧ (acted 4 1 true).boot.autoRun = true ∧ 4
    < 11) ∧ ((acted 11 0 true).boot.mode = Mode.kindling ∧ (acted 11 0 true).boot.stepRunning = 11 ∧ 11 ≠ 0 ∧ (acted
    11 0 true).boot.stepActed = true ∧ (acted 11 0 true).boot.endResult ≠ 2 ∧ ((acted 11 0 true).boot.autoRun =
    false ∨ 11 ≤ 11)) :=
  ⟨by decide +kernel, by decide +kernel, by decide +kernel, by decide +kernel⟩

/-! ### Power, supply and heat -/

theorem test_target_written : ((exiting 2).portUp = true ∧ (3, Instr.powerTargetS3) ∈ [(0, Instr.powerTargetRun),
    (1, Instr.powerTargetS1), (2, Instr.powerTargetS2), (3, Instr.powerTargetS3)]) ∧ (sleepy.portUp = true ∧ (0,
    Instr.powerTargetRun) ∈ [(0, Instr.powerTargetRun), (1, Instr.powerTargetS1), (2, Instr.powerTargetS2), (3,
    Instr.powerTargetS3)]) :=
  ⟨by and_intros <;> first | decide +kernel | rfl | simp, by and_intros <;> first | decide +kernel | rfl | simp⟩
theorem test_sleep_entered : ((targeted 2).boot.mode = Mode.ready ∧ (targeted 2).cmds = [] ∧ (targeted
    2).net.windows = [] ∧ (targeted 2).boot.target = 2 ∧ ((targeted 2).boot.pstate = PState.run ∨ (targeted
    2).boot.pstate = PState.s1)) ∧ ((targeted 3).boot.mode = Mode.ready ∧ (targeted 3).cmds = [] ∧ (targeted
    3).net.windows = [] ∧ (targeted 3).boot.target = 3 ∧ ((targeted 3).boot.pstate = PState.run ∨ (targeted
    3).boot.pstate = PState.s1 ∨ (targeted 3).boot.pstate = PState.s2)) := by decide +kernel
theorem test_sleep_left : ((exiting 2).boot.pstate = PState.leaving ∧ (exiting 2).boot.pdeep ≠ 3) ∧ ((exiting
    3).boot.pstate = PState.leaving ∧ (exiting 3).boot.pdeep = 3 ∧ (exiting 3).mem.hbmSet.length = 32 ∧ (exiting
    3).cores.length = 128) := by decide +kernel
theorem test_rail_fell : (contracted.portUp = true ∧ 1 < contracted.dieCount ∧ 1 < contracted.mem.dies.length ∧ 600
    ≤ 604 ∧ (contracted.dieAt 1).inEpisode = false) ∧ (dipping.portUp = true ∧ 1 < dipping.dieCount ∧ 1 <
    dipping.mem.dies.length ∧ 590 ≤ 604 ∧ (dipping.dieAt 1).inEpisode = true) := by decide +kernel
theorem test_rail_ended : (dipping.portUp = true ∧ 1 < dipping.dieCount ∧ 1 < dipping.mem.dies.length ∧
    (dipping.dieAt 1).inEpisode = true ∧ 600 ≤ 604 ∧ (dipping.dieAt 1).sustained = false ∧ (dipping.dieAt
    1).fellLast + 2000000 ≤ dipping.clock.steady + later.dt) ∧ (dipping.portUp = true ∧ 1 < dipping.dieCount ∧ 1 <
    dipping.mem.dies.length ∧ (dipping.dieAt 1).inEpisode = true ∧ 604 < 650 ∧ (dipping.dieAt 1).fellLast + 50000 ≤
    dipping.clock.steady + later.dt) := by decide +kernel
theorem test_rail_lost : contracted.portUp = true ∧ 1 < contracted.dieCount ∧ 572 ≤ 572 ∧ contracted.boot.resetReq =
    none := by decide +kernel
theorem test_heat_sampled : world.stacksPowered = true ∧ world.mem.hbmSet.length = 32 ∧ [30, 90, 106].length ≤ 8 *
    world.dieCount := by decide +kernel
theorem test_heat_fell : (3 < 32 ∧ 3 < warm.mem.hbmSet.length ∧ (warm.stackAt 3).level ≠ 0 ∧ (warm.stackAt 3).below
    = some 0 ∧ 0 + 10000000 ≤ warm.clock.steady + later.dt) ∧ (3 < 32 ∧ 3 < warm.mem.hbmSet.length ∧ (warm.stackAt
    3).level ≠ 0 ∧ (warm.stackAt 3).below = some 0 ∧ warm.clock.steady + now.dt < 0 + 10000000) := by decide +kernel

/-! ### Media time -/

theorem test_master_chosen : (world.portUp = true ∧ BitVec.toNat elsewhere.domain ≠ world.set.domain) ∧
    (world.portUp = true ∧ BitVec.toNat (announceMsg 7 100 false).domain = world.set.domain ∧ (announceMsg 7 100
    false).ptpTimescale = false) ∧ (world.portUp = true ∧ BitVec.toNat (announceMsg 7 100 true).domain =
    world.set.domain ∧ (announceMsg 7 100 true).ptpTimescale = true ∧ world.clock.master = none) ∧ ((following
    TimeState.locked).portUp = true ∧ BitVec.toNat (announceMsg 7 90 true).domain = (following
    TimeState.locked).set.domain ∧ (announceMsg 7 90 true).ptpTimescale = true ∧ (following
    TimeState.locked).clock.master = some master ∧ master.grandmaster = BitVec.toNat (announceMsg 7 90
    true).grandmaster) ∧ ((following TimeState.locked).portUp = true ∧ BitVec.toNat (announceMsg 8 90 true).domain =
    (following TimeState.locked).set.domain ∧ (announceMsg 8 90 true).ptpTimescale = true ∧ (following
    TimeState.locked).clock.master = some master ∧ master.grandmaster ≠ BitVec.toNat (announceMsg 8 90
    true).grandmaster ∧ rankBelow (announceRank (announceMsg 8 90 true)) master.rank = true) ∧ ((following
    TimeState.locked).portUp = true ∧ BitVec.toNat (announceMsg 8 110 true).domain = (following
    TimeState.locked).set.domain ∧ (announceMsg 8 110 true).ptpTimescale = true ∧ (following
    TimeState.locked).clock.master = some master ∧ master.grandmaster ≠ BitVec.toNat (announceMsg 8 110
    true).grandmaster ∧ rankBelow (announceRank (announceMsg 8 110 true)) master.rank = false) :=
  ⟨by decide +kernel, by decide +kernel, by decide +kernel, by decide +kernel, by decide +kernel, by decide +kernel⟩
theorem test_sync_taken : ((following TimeState.free).portUp = true ∧ (syncMsg 5).usable = true ∧ (following
    TimeState.free).set.source ≠ 2 ∧ (following TimeState.free).clock.master = some master ∧ master.grandmaster =
    BitVec.toNat (syncMsg 5).grandmaster ∧ (following TimeState.free).clock.stepPending = false) ∧ ((following
    TimeState.free).portUp = true ∧ (syncMsg 500).usable = true ∧ (following TimeState.free).set.source ≠ 2 ∧
    (following TimeState.free).clock.master = some master ∧ master.grandmaster = BitVec.toNat (syncMsg
    500).grandmaster ∧ (following TimeState.free).clock.stepPending = false) ∧ ((following TimeState.free).portUp =
    true ∧ (syncMsg 2000000).usable = true ∧ (following TimeState.free).set.source ≠ 2 ∧ (following
    TimeState.free).clock.master = some master ∧ master.grandmaster = BitVec.toNat (syncMsg 2000000).grandmaster ∧
    (following TimeState.free).clock.stepPending = false) ∧ ((following TimeState.locked).portUp = true ∧ (syncMsg
    2000000).usable = true ∧ (following TimeState.locked).set.source ≠ 2 ∧ (following TimeState.locked).clock.master
    = some master ∧ master.grandmaster = BitVec.toNat (syncMsg 2000000).grandmaster ∧ (following
    TimeState.locked).clock.stepPending = false) :=
  ⟨by decide +kernel, by decide +kernel, by decide +kernel, by decide +kernel⟩
theorem test_source_losses : ((following TimeState.locked).set.source ≠ 2 ∧ (following
    TimeState.locked).clock.master = some master ∧ master.lastSync + 3 * master.syncInterval ≤ (following
    TimeState.locked).clock.steady + later.dt) ∧ (holding.clock.state = TimeState.holdover ∧
    holding.clock.holdoverSince + 60000000000 ≤ holding.clock.steady + later.dt) ∧ ((pulsed 0).clock.ppsPresent =
    true ∧ (pulsed 0).clock.lastPps = some 0 ∧ 0 + 3000000000 ≤ (pulsed 0).clock.steady + later.dt ∧ (pulsed
    0).set.source = 0) ∧ ((pulsed 1).clock.ppsPresent = true ∧ (pulsed 1).clock.lastPps = some 0 ∧ 0 + 3000000000 ≤
    (pulsed 1).clock.steady + later.dt ∧ (pulsed 1).set.source ≠ 0) :=
  ⟨by decide +kernel, by decide +kernel, by decide +kernel, by decide +kernel⟩
theorem test_step_made : (steppingTime.clock.stepPending = true ∧ 2000000 = (↑(advance now.dt steppingTime).clock.mt
    + steppingTime.clock.stepOffset).toNat ∧ (∀ (c : Cmd), c ∈ steppingTime.cmds → c.contract = false)) ∧
    (stepHeld.clock.stepPending = true ∧ 2000000 = (↑(advance now.dt stepHeld).clock.mt +
    stepHeld.clock.stepOffset).toNat ∧ (∃ c, c ∈ stepHeld.cmds ∧ c.contract = true)) := by decide +kernel
theorem test_edge_taken : (world.portUp = true ∧ true ≠ decide (world.set.ppsEdge = 1)) ∧ (world.portUp = true ∧
    false = decide (world.set.ppsEdge = 1) ∧ world.set.source = 0) ∧ (hostTimed.portUp = true ∧ false = decide
    (hostTimed.set.ppsEdge = 1) ∧ hostTimed.set.source = 2 ∧ hostTimed.clock.setSeconds = some 5 ∧ (∀ (c : Cmd), c ∈
    hostTimed.cmds → c.contract = false)) ∧ ((pulsed 1).portUp = true ∧ false = decide ((pulsed 1).set.ppsEdge = 1)
    ∧ (pulsed 1).set.source = 1 ∧ (pulsed 1).clock.state = TimeState.locked) :=
  ⟨by decide +kernel, by decide +kernel, by decide +kernel, by decide +kernel⟩
theorem test_frame_synced : (nearBoundary.portUp = true ∧ false = decide (nearBoundary.set.fsyncEdge = 1)) ∧ (true ≠
    decide (nearBoundary.set.fsyncEdge = 1)) ∧ (synced.portUp = true ∧ false = decide (synced.set.fsyncEdge = 1)) ∧
    (synced.clock.fsyncPresent = true ∧ synced.clock.lastFsync = some 0 ∧ 0 + 3000000000 ≤ synced.clock.steady +
    later.dt) :=
  ⟨by decide +kernel, by decide +kernel, by decide +kernel, by decide +kernel⟩
theorem test_frame_sync_reported : (synced.grid? 0 6 = some boundGrid ∧ boundGrid.starved (advance later.dt
    synced).clock.mt = true) ∧ (synced.grid? 0 6 = some boundGrid ∧ boundGrid.starved (advance now.dt
    synced).clock.mt = false) := by decide +kernel

/-! ### The management target -/

theorem test_address_taken : (world.boot.mode ≠ Mode.off ∧ world.phys.dynAddr = none ∧ 76 + world.phys.addrSel = 76
    + world.phys.addrSel) ∧ (world.boot.mode ≠ Mode.off ∧ world.phys.dynAddr = none ∧ 32 ≠ 76 + world.phys.addrSel)
    ∧ (addressed.phys.dynAddr ≠ none) ∧ (addressed.boot.mode ≠ Mode.off) ∧ (off.boot.mode = Mode.off) :=
  ⟨by decide +kernel, by decide +kernel, by decide +kernel, by decide +kernel, by decide +kernel⟩
theorem test_target_read : ((6, Instr.getpid) ∈ [(6, Instr.getpid), (1, Instr.getbcr), (1, Instr.getdcr), (2,
    Instr.getstatus), (2, Instr.getmxds)] ∧ Reached 9 addressed) ∧ ((6, Instr.getpid) ∈ [(6, Instr.getpid), (1,
    Instr.getbcr), (1, Instr.getdcr), (2, Instr.getstatus), (2, Instr.getmxds)] ∧ ¬Reached 8 addressed) :=
  ⟨by and_intros <;> first | decide +kernel | rfl | simp, by and_intros <;> first | decide +kernel | rfl | simp⟩
theorem test_interrupts_allowed : ((true, Instr.enec) ∈ [(true, Instr.enec), (false, Instr.disec)] ∧ (Reached 9
    addressed ∨ addressed.boot.mode ≠ Mode.off ∧ 9 = 126)) ∧ ((false, Instr.disec) ∈ [(true, Instr.enec), (false,
    Instr.disec)] ∧ (Reached 126 addressed ∨ addressed.boot.mode ≠ Mode.off ∧ 126 = 126)) :=
  ⟨by and_intros <;> first | decide +kernel | rfl | simp, by and_intros <;> first | decide +kernel | rfl | simp⟩
theorem test_other_codes_refused : addressed.boot.mode ≠ Mode.off ∧ knownCcc (51) = false := by decide +kernel
theorem test_management_moved : (Reached 9 atSerial ∧ atSerial.phys.readOffset < 256) ∧ (Reached 9 atSerial ∧ 2 ≤
    [7, 8].length) ∧ (Reached 9 (atVoltage true) ∧ (atVoltage true).phys.readOffset < 256) ∧ (Reached 9 (atVoltage
    false) ∧ 2 ≤ [7, 8].length) ∧ (Reached 9 (atVoltage false) ∧ (atVoltage false).phys.readOffset < 256) :=
  ⟨by decide +kernel, by decide +kernel, by decide +kernel, by decide +kernel, by decide +kernel⟩

/-! ### Cores -/

theorem turn_met {P : Type} {k : Kind P} {s : State} {H : P → List (Nat × Bool) → Prop} [∀ p b, Decidable (H p b)]
    (h : turnCheck k s (fun p b => decide (H p b)) = true) : TurnMet k s H := by
  unfold turnCheck at h
  split at h
  · exact absurd h (by simp)
  · rename_i p hp
    split at h
    · exact absurd h (by simp)
    · rename_i bound hb
      simp only [Bool.and_eq_true, decide_eq_true_eq, Bool.not_eq_true'] at h
      obtain ⟨⟨⟨⟨⟨⟨⟨h1, h2⟩, h3⟩, h4⟩, h5⟩, h6⟩, h7⟩, h8⟩ := h
      exact ⟨p, bound, ⟨h1, rfl, h2, h3, Prod.ext hp rfl, .inr h4, fun _ => h5, h6, h7, hb⟩, h8⟩

theorem stop_met {P : Type} {k : Kind P} {s : State} {x : Stop} (h : stopCheck k s x = true) : StopMet k s x := by
  unfold stopCheck at h
  split at h
  · exact absurd h (by simp)
  · rename_i y hy
    simp only [Bool.and_eq_true, decide_eq_true_eq, Bool.not_eq_true'] at h
    obtain ⟨⟨⟨⟨⟨h0, h1⟩, h2⟩, h3⟩, h4⟩, h5⟩ := h
    exact ⟨h1, rfl, h2, h3, Prod.ext (h0 ▸ hy) rfl, .inr h4, h5⟩

theorem hold_met {P : Type} {k : Kind P} {s : State} (h : holdCheck k s = true) : HoldMet k s := by
  unfold holdCheck at h
  simp only [Bool.and_eq_true, decide_eq_true_eq, Bool.not_eq_true'] at h
  obtain ⟨⟨⟨⟨h1, h2⟩, h3⟩, h4⟩, h5⟩ := h
  split at h5
  · rename_i p hp
    exact ⟨_, _, h1, rfl, h2, h3, rfl, h4, .inr ⟨p, hp, h5⟩⟩
  · exact absurd h5 (by simp)

theorem half_met {fill : Nat} {held : Bool} (h : halfCheck fill held = true) : ∃ p, halfRead fill = (.ok p, (halfRead fill).2)
    ∧ (enter now (halfWaiting fill)).halfHeld p halfMacro.opId = held := by
  unfold halfCheck at h
  split at h
  · rename_i p hp
    exact ⟨p, Prod.ext hp rfl, by simpa using h⟩
  · exact absurd h (by simp)
theorem crc_step_64 (n c d : Nat) (h : (zeros 64).foldl crcByte c = d) :
    (zeros (n + 64)).foldl crcByte c = (zeros n).foldl crcByte d := by
  rw [← h, ← List.foldl_append]; unfold zeros; rw [List.replicate_append_replicate, Nat.add_comm]
theorem crc_of (bs : List Byte) (c : Nat) (h : bs.foldl crcByte 0xFFFFFFFF = c) : crc32c bs = c ^^^ 0xFFFFFFFF := by
  unfold crc32c; rw [h]
theorem crc_zeros : crc32c (zeros 256) = 0xb872b190 := by
  have h : (zeros 256).foldl crcByte 0xFFFFFFFF = 0x478d4e6f :=
    (crc_step_64 192 0xffffffff 0xfc371498 (by decide +kernel)).trans <|
    (crc_step_64 128 0xfc371498 0xf7d89b24 (by decide +kernel)).trans <|
    (crc_step_64 64 0xf7d89b24 0x8bca87cf (by decide +kernel)).trans <|
    (crc_step_64 0 0x8bca87cf 0x478d4e6f (by decide +kernel)).trans <|
    rfl
  exact (crc_of _ _ h).trans (by decide +kernel)
theorem crc_more_zeros : crc32c (zeros 1024) = 0xeeaede7c := by
  have h : (zeros 1024).foldl crcByte 0xFFFFFFFF = 0x11512183 :=
    (crc_step_64 960 0xffffffff 0xfc371498 (by decide +kernel)).trans <|
    (crc_step_64 896 0xfc371498 0xf7d89b24 (by decide +kernel)).trans <|
    (crc_step_64 832 0xf7d89b24 0x8bca87cf (by decide +kernel)).trans <|
    (crc_step_64 768 0x8bca87cf 0x478d4e6f (by decide +kernel)).trans <|
    (crc_step_64 704 0x478d4e6f 0x3d5a233 (by decide +kernel)).trans <|
    (crc_step_64 640 0x3d5a233 0x4509d0c9 (by decide +kernel)).trans <|
    (crc_step_64 576 0x4509d0c9 0xcc289dc7 (by decide +kernel)).trans <|
    (crc_step_64 512 0xcc289dc7 0xcf03123f (by decide +kernel)).trans <|
    (crc_step_64 448 0xcf03123f 0x39b9ac6b (by decide +kernel)).trans <|
    (crc_step_64 384 0x39b9ac6b 0x1fd80331 (by decide +kernel)).trans <|
    (crc_step_64 320 0x1fd80331 0x7793e80c (by decide +kernel)).trans <|
    (crc_step_64 256 0x7793e80c 0xc5c4c2f9 (by decide +kernel)).trans <|
    (crc_step_64 192 0xc5c4c2f9 0xfc7deb93 (by decide +kernel)).trans <|
    (crc_step_64 128 0xfc7deb93 0xd77c4c0 (by decide +kernel)).trans <|
    (crc_step_64 64 0xd77c4c0 0xc011635a (by decide +kernel)).trans <|
    (crc_step_64 0 0xc011635a 0x11512183 (by decide +kernel)).trans <|
    rfl
  exact (crc_of _ _ h).trans (by decide +kernel)
theorem zero_table_good : tableStop zeroTable = none := by
  have h1 : (tableOf zeroTable).segments = zeros 1024 := by decide +kernel
  have hc : crc32c (tableOf zeroTable).segments = leAt zeroTable 32 4 := by
    rw [h1, crc_more_zeros]; decide +kernel
  have hl : ¬ zeroTable.length < 64 := by decide +kernel
  have hn : ¬ zeroTable.length < 64 + leAt zeroTable 28 4 := by decide +kernel
  have hf : tableFieldsOk zeroTable = true := by decide +kernel
  have hv : (tableOf zeroTable).finite = true := by decide +kernel
  unfold tableStop
  rw [if_neg hl]
  simp only [hc, hn, hf, hv, if_false, Bool.not_true, Bool.false_eq_true, ne_eq, not_true_eq_false, decide_false,
    Bool.or_self]
  decide +kernel

theorem test_control_issues_1 : TurnMet kindSend sending (fun _ _ => Canonical sending) ∧ TurnMet kindRecv recvTurn
    (fun _ _ => Canonical recvTurn) ∧ TurnMet (kindWait 0) (waiting 0x10 1) (fun _ _ => Canonical (waiting 0x10 1))
    ∧ TurnMet (kindWait 1) (waiting 1 0) (fun _ _ => Canonical (waiting 1 0)) ∧ TurnMet (kindWait 2) (waiting
    0x70002 1) (fun _ _ => Canonical (waiting 0x70002 1)) ∧ TurnMet (kindFence 0) (fencing 0) (fun _ _ => Canonical
    (fencing 0)) ∧ TurnMet (kindFence 1) (fencing 1) (fun _ _ => Canonical (fencing 1)) ∧ TurnMet (kindFence 2)
    (fencing 2) (fun _ _ => Canonical (fencing 2)) :=
  ⟨turn_met (by decide +kernel), turn_met (by decide +kernel), turn_met (by decide +kernel),
      turn_met (by decide +kernel), turn_met (by decide +kernel), turn_met (by decide +kernel),
      turn_met (by decide +kernel), turn_met (by decide +kernel)⟩
theorem test_moves_issue_1 : TurnMet kindCopy copying32 (fun _ _ => Canonical copying32) ∧ TurnMet (kindReduce 1
    .fp32) (reducing 1 0) (fun _ _ => Canonical (reducing 1 0)) ∧ TurnMet (kindReduce 2 .bf16) (reducing 2 1) (fun _
    _ => Canonical (reducing 2 1)) ∧ TurnMet kindAtomic atomicOp (fun _ _ => Canonical atomicOp) :=
  ⟨turn_met (by decide +kernel), turn_met (by decide +kernel), turn_met (by decide +kernel),
      turn_met (by decide +kernel)⟩
theorem test_flame_issues_1 : TurnMet kindElt (eltwise 0) (fun _ _ => Canonical (eltwise 0)) ∧ TurnMet kindStat
    statistic (fun _ _ => Canonical statistic) ∧ TurnMet kindNorm norming (fun _ _ => Canonical norming) :=
  ⟨turn_met (by decide +kernel), turn_met (by decide +kernel), turn_met (by decide +kernel)⟩
theorem test_flame_issues_2 : TurnMet kindElt (eltwise 15) (fun _ bound => Canonical (eltwise 15) ∧ (bound.find?
    (·.2)).isSome = true) ∧ TurnMet kindPreload (preloading [Bank.reset, Bank.reset]) (fun _ bound => Canonical
    (preloading [Bank.reset, Bank.reset]) ∧ (bound.find? (·.2)).isSome = true) :=
  ⟨turn_met (by decide +kernel), turn_met (by decide +kernel)⟩
theorem test_array_issues_1 : TurnMet kindMatmul multiplying (fun _ _ => Canonical multiplying) ∧ TurnMet kindConv
    convolving (fun _ _ => Canonical convolving) ∧ TurnMet kindAttn (attending absent) (fun _ _ => Canonical
    (attending absent)) :=
  ⟨turn_met (by decide +kernel), turn_met (by decide +kernel), turn_met (by decide +kernel)⟩
theorem test_updates_issue_1 : TurnMet kindUpdate updateTurn (fun _ _ => Canonical updateTurn) ∧ TurnMet kindRoot
    (rooting 2) (fun _ _ => Canonical (rooting 2)) ∧ TurnMet kindBank (bankTurn 1 []) (fun _ _ => Canonical
    (bankTurn 1 [])) :=
  ⟨turn_met (by decide +kernel), turn_met (by decide +kernel), turn_met (by decide +kernel)⟩
theorem test_hazards_hold_1 : HoldMet kindMatmul (blocked multiplying) ∧ HoldMet kindConv (blocked convolving) ∧
    HoldMet kindAttn (blocked (attending absent)) ∧ HoldMet kindElt (blocked (eltwise 0)) ∧ HoldMet kindPreload
    (blocked (preloading [Bank.reset, Bank.reset])) ∧ HoldMet kindStat (blocked statistic) ∧ HoldMet kindNorm
    (blocked norming) ∧ HoldMet kindUpdate (blocked updateTurn) :=
  ⟨hold_met (by decide +kernel), hold_met (by decide +kernel), hold_met (by decide +kernel),
      hold_met (by decide +kernel), hold_met (by decide +kernel), hold_met (by decide +kernel),
      hold_met (by decide +kernel), hold_met (by decide +kernel)⟩
theorem test_hazards_hold_2 : HoldMet kindRoot (blocked (rooting 2)) ∧ HoldMet kindBank (blocked (bankTurn 1 [])) ∧
    HoldMet kindCopy (blocked copying32) ∧ HoldMet (kindReduce 1 .fp32) (blocked (reducing 1 0)) ∧ HoldMet
    (kindReduce 2 .bf16) (blocked (reducing 2 1)) ∧ HoldMet kindAtomic (blocked atomicOp) ∧ HoldMet kindSend
    (blocked sending) ∧ HoldMet kindRecv (blocked recvTurn) :=
  ⟨hold_met (by decide +kernel), hold_met (by decide +kernel), hold_met (by decide +kernel),
      hold_met (by decide +kernel), hold_met (by decide +kernel), hold_met (by decide +kernel),
      hold_met (by decide +kernel), hold_met (by decide +kernel)⟩
theorem test_bad_entries_end_1 : StopMet kindMatmul (illFormed 1 0) Stop.field ∧ StopMet kindConv (illFormed 2 0)
    Stop.field ∧ StopMet kindAttn (illFormed 3 0) Stop.field ∧ StopMet kindElt (illFormed 4 0) Stop.field ∧ StopMet
    kindPreload (illFormed 4 1) Stop.field ∧ StopMet kindStat (illFormed 5 0) Stop.field ∧ StopMet kindNorm
    (illFormed 6 0) Stop.field ∧ StopMet kindUpdate (illFormed 7 0) Stop.field ∧ StopMet kindRoot (illFormed 8 0)
    Stop.field ∧ StopMet kindBank (illFormed 0x30 0) Stop.field ∧ StopMet kindCopy (illFormed 0x10 0) Stop.field :=
  ⟨stop_met (by decide +kernel), stop_met (by decide +kernel), stop_met (by decide +kernel),
      stop_met (by decide +kernel), stop_met (by decide +kernel), stop_met (by decide +kernel),
      stop_met (by decide +kernel), stop_met (by decide +kernel), stop_met (by decide +kernel),
      stop_met (by decide +kernel), stop_met (by decide +kernel)⟩
theorem test_bad_entries_end_2 : StopMet (kindReduce 1 .fp32) (illFormed 0x10 1) Stop.field ∧ StopMet (kindReduce 2
    .bf16) (illFormed 0x10 2) Stop.field ∧ StopMet kindAtomic (illFormed 0x10 3) Stop.field ∧ StopMet kindSend
    (illFormed 0x11 0) Stop.field ∧ StopMet kindRecv (illFormed 0x12 0) Stop.field ∧ StopMet (kindWait 0) (illFormed
    0x20 0) Stop.field ∧ StopMet (kindWait 1) (illFormed 0x20 1) Stop.field ∧ StopMet (kindWait 2) (illFormed 0x20
    2) Stop.field ∧ StopMet (kindFence 0) (illFormed 0x21 0) Stop.field ∧ StopMet (kindFence 1) (illFormed 0x21 1)
    Stop.field ∧ StopMet (kindFence 2) (illFormed 0x21 2) Stop.field :=
  ⟨stop_met (by decide +kernel), stop_met (by decide +kernel), stop_met (by decide +kernel),
      stop_met (by decide +kernel), stop_met (by decide +kernel), stop_met (by decide +kernel),
      stop_met (by decide +kernel), stop_met (by decide +kernel), stop_met (by decide +kernel),
      stop_met (by decide +kernel), stop_met (by decide +kernel)⟩
theorem test_messages_sent_1 : TurnMet kindSend sending (fun p _ => (turnRun sending).cores.getD p.dest 0 = 0 ∧
    (sending.coreAt 0).finished = false ∧ (sending.coreAt 0).run = (turnRun sending).id) :=
  turn_met (by decide +kernel)
theorem test_messages_sent_2 : TurnMet kindSend (sendingTo peerDone) (fun p _ => (turnRun (sendingTo
    peerDone)).cores.getD p.dest 0 = 1 ∧ ((sendingTo peerDone).coreAt 1).finished = true) :=
  turn_met (by decide +kernel)
theorem test_messages_received_1 : TurnMet kindRecv recvTurn (fun _ _ => Canonical recvTurn ∧ (recvTurn.coreAt
    0).mailbox = []) :=
  turn_met (by decide +kernel)
theorem test_messages_received_2 : TurnMet kindRecv delivered (fun p _ => Canonical delivered ∧ (delivered.coreAt
    0).mailbox.find? (fun g => !(delivered.coreAt 0).taken.contains g.id && p.wants g) = some message ∧
    message.frags = [([1, 2, 3], false)] ∧ message.drained = 0 ∧ message.length ≤ 256 ∧ p.receipt ≠ absent ∧ p.dst +
    p.maxLength ≤ p.receipt) :=
  turn_met (by decide +kernel)
theorem test_waits_entered_1 : TurnMet (kindWait 0) (waiting 0x10 1) (fun _ _ => True) ∧ TurnMet (kindWait 1)
    (waiting 1 0) (fun _ _ => True) ∧ TurnMet (kindWait 2) (waiting 0x70002 1) (fun _ _ => True) :=
  ⟨turn_met (by decide +kernel), turn_met (by decide +kernel), turn_met (by decide +kernel)⟩
theorem test_fences_entered_1 : TurnMet (kindFence 0) (fencing 0) (fun _ _ => True) ∧ TurnMet (kindFence 1) (fencing
    1) (fun _ _ => True) ∧ TurnMet (kindFence 2) (fencing 2) (fun _ _ => True) :=
  ⟨turn_met (by decide +kernel), turn_met (by decide +kernel), turn_met (by decide +kernel)⟩
theorem test_copies_land_1 : TurnMet kindCopy copying32 (fun p _ => Canonical copying32 ∧ HobOut p.dst ∧ p.unchanged
    = true) ∧ TurnMet kindCopy converting (fun p _ => Canonical converting ∧ HobOut p.dst ∧ p.unchanged = false) :=
  ⟨turn_met (by decide +kernel), turn_met (by decide +kernel)⟩
theorem test_reductions_land_1 : TurnMet (kindReduce 1 .fp32) (reducing 1 0) (fun p _ => Canonical (reducing 1 0) ∧
    PlainMemory (turnState (reducing 1 0)) 0 (turnRun (reducing 1 0)) ∧ tensorsMeet p.src p.dst = false) :=
  turn_met (by decide +kernel)
theorem test_reductions_land_2 : TurnMet (kindReduce 2 .bf16) (reducing 2 1) (fun p _ => Canonical (reducing 2 1) ∧
    PlainMemory (turnState (reducing 2 1)) 0 (turnRun (reducing 2 1)) ∧ tensorsMeet p.src p.dst = false) :=
  turn_met (by decide +kernel)
theorem test_atomics_land_1 : TurnMet kindAtomic atomicOp (fun p _ => Canonical atomicOp ∧ PlainMemory (turnState
    atomicOp) 0 (turnRun atomicOp) ∧ p.entries.length = 1 ∧ p.results ≠ absent) :=
  turn_met (by decide +kernel)
theorem test_eltwise_lands_1 : TurnMet kindElt (eltwise 0) (fun p bound => Canonical (eltwise 0) ∧ HobOut p.out ∧
    bound.find? (·.2) = none ∧ p.out.empty = false) :=
  turn_met (by decide +kernel)
theorem test_rowstat_lands_1 : TurnMet kindStat statistic (fun p _ => Canonical statistic ∧ HobOut p.out ∧
    p.out.empty = false) :=
  turn_met (by decide +kernel)
theorem test_norm_lands_1 : TurnMet kindNorm norming (fun p _ => Canonical norming ∧ HobOut p.out ∧ p.out.empty =
    false) :=
  turn_met (by decide +kernel)
theorem test_preload_done_1 : TurnMet kindPreload (preloading [bankOf true, Bank.reset]) (fun _ bound => bound.find?
    (·.2) = none) :=
  turn_met (by decide +kernel)
theorem test_matmul_lands_1 : TurnMet kindMatmul multiplying (fun p bound => Canonical multiplying ∧ HobOut p.out ∧
    bound.find? (·.2) = none ∧ p.out.empty = false) :=
  turn_met (by decide +kernel)
theorem test_conv_lands_1 : TurnMet kindConv convolving (fun p bound => Canonical convolving ∧ bound.find? (·.2) =
    none ∧ p.members.length = 1 ∧ ∀ m ∈ p.members, HobOut m.out ∧ m.desc.regroup ≠ 2) :=
  turn_met (by decide +kernel)
theorem test_attn_lands_1 : TurnMet kindAttn (attending 0x300) (fun p _ => p.commit = true ∧ p.out.empty = false) :=
  turn_met (by decide +kernel)
theorem test_attn_lands_2 : TurnMet kindAttn (attending absent) (fun p _ => p.commit = false ∧ Canonical (attending
    absent) ∧ HobOut p.out ∧ p.lse = absent ∧ meets p.writes (kindAttn.reads p) = false) :=
  turn_met (by decide +kernel)
theorem test_update_lands_1 : TurnMet kindUpdate updateTurn (fun p _ => Canonical updateTurn ∧ p.roots = none ∧
    p.h.module = false ∧ p.q.module = false ∧ meets p.h.outSpans ((p.q :: (p.m.toList ++ p.v.toList)).map
    Tensor.outSpans).flatten = false ∧ meets p.q.outSpans ((p.m.toList ++ p.v.toList).map Tensor.outSpans).flatten =
    false ∧ 0 < p.h.e 0 ∧ p.m.isSome = true ∧ p.v = none) :=
  turn_met (by decide +kernel)
theorem test_roots_counted_1 : TurnMet kindRoot (rooting 0) (fun p _ => p.due = false) ∧ TurnMet kindRoot (rooting
    2) (fun p _ => p.due = true ∧ p.status ≠ absent) :=
  ⟨turn_met (by decide +kernel), turn_met (by decide +kernel)⟩
theorem test_tiles_checked_1 : TurnMet kindBank (bankTurn 1 []) (fun p _ => p.force = true) :=
  turn_met (by decide +kernel)
theorem test_moves_store_1 : TurnMet kindCopy copying32 (fun _ bound => Canonical copying32 ∧ PlainMemory (turnState
    copying32) 0 (turnRun copying32) ∧ bound.find? (·.2) = none) ∧ TurnMet (kindReduce 1 .fp32) (reducing 1 0) (fun
    _ bound => Canonical (reducing 1 0) ∧ PlainMemory (turnState (reducing 1 0)) 0 (turnRun (reducing 1 0)) ∧
    bound.find? (·.2) = none) ∧ TurnMet (kindReduce 2 .bf16) (reducing 2 1) (fun _ bound => Canonical (reducing 2 1)
    ∧ PlainMemory (turnState (reducing 2 1)) 0 (turnRun (reducing 2 1)) ∧ bound.find? (·.2) = none) ∧ TurnMet
    kindAtomic atomicOp (fun _ bound => Canonical atomicOp ∧ PlainMemory (turnState atomicOp) 0 (turnRun atomicOp) ∧
    bound.find? (·.2) = none) ∧ TurnMet kindRecv delivered (fun _ bound => Canonical delivered ∧ PlainMemory
    (turnState delivered) 0 (turnRun delivered) ∧ bound.find? (·.2) = none) ∧ TurnMet kindSend sending (fun _ bound
    => Canonical sending ∧ PlainMemory (turnState sending) 0 (turnRun sending) ∧ bound.find? (·.2) = none) ∧ TurnMet
    (kindWait 0) (waiting 0x10 1) (fun _ bound => Canonical (waiting 0x10 1) ∧ PlainMemory (turnState (waiting 0x10
    1)) 0 (turnRun (waiting 0x10 1)) ∧ bound.find? (·.2) = none) ∧ TurnMet (kindWait 1) (waiting 1 0) (fun _ bound
    => Canonical (waiting 1 0) ∧ PlainMemory (turnState (waiting 1 0)) 0 (turnRun (waiting 1 0)) ∧ bound.find? (·.2)
    = none) ∧ TurnMet (kindWait 2) (waiting 0x70002 1) (fun _ bound => Canonical (waiting 0x70002 1) ∧ PlainMemory
    (turnState (waiting 0x70002 1)) 0 (turnRun (waiting 0x70002 1)) ∧ bound.find? (·.2) = none) ∧ TurnMet (kindFence
    0) (fencing 0) (fun _ bound => Canonical (fencing 0) ∧ PlainMemory (turnState (fencing 0)) 0 (turnRun (fencing
    0)) ∧ bound.find? (·.2) = none) ∧ TurnMet (kindFence 1) (fencing 1) (fun _ bound => Canonical (fencing 1) ∧
    PlainMemory (turnState (fencing 1)) 0 (turnRun (fencing 1)) ∧ bound.find? (·.2) = none) ∧ TurnMet (kindFence 2)
    (fencing 2) (fun _ bound => Canonical (fencing 2) ∧ PlainMemory (turnState (fencing 2)) 0 (turnRun (fencing 2))
    ∧ bound.find? (·.2) = none) :=
  ⟨turn_met (by decide +kernel), turn_met (by decide +kernel), turn_met (by decide +kernel),
      turn_met (by decide +kernel), turn_met (by decide +kernel), turn_met (by decide +kernel),
      turn_met (by decide +kernel), turn_met (by decide +kernel), turn_met (by decide +kernel),
      turn_met (by decide +kernel), turn_met (by decide +kernel), turn_met (by decide +kernel)⟩
theorem test_work_stores_1 : TurnMet kindElt (eltwise 0) (fun _ bound => Canonical (eltwise 0) ∧ PlainMemory
    (turnState (eltwise 0)) 0 (turnRun (eltwise 0)) ∧ bound.find? (·.2) = none) ∧ TurnMet kindPreload (preloading
    [bankOf true, Bank.reset]) (fun _ bound => Canonical (preloading [bankOf true, Bank.reset]) ∧ PlainMemory
    (turnState (preloading [bankOf true, Bank.reset])) 0 (turnRun (preloading [bankOf true, Bank.reset])) ∧
    bound.find? (·.2) = none) ∧ TurnMet kindStat statistic (fun _ bound => Canonical statistic ∧ PlainMemory
    (turnState statistic) 0 (turnRun statistic) ∧ bound.find? (·.2) = none) ∧ TurnMet kindNorm norming (fun _ bound
    => Canonical norming ∧ PlainMemory (turnState norming) 0 (turnRun norming) ∧ bound.find? (·.2) = none) ∧ TurnMet
    kindMatmul multiplying (fun _ bound => Canonical multiplying ∧ PlainMemory (turnState multiplying) 0 (turnRun
    multiplying) ∧ bound.find? (·.2) = none) ∧ TurnMet kindConv convolving (fun _ bound => Canonical convolving ∧
    PlainMemory (turnState convolving) 0 (turnRun convolving) ∧ bound.find? (·.2) = none) ∧ TurnMet kindUpdate
    updateTurn (fun _ bound => Canonical updateTurn ∧ PlainMemory (turnState updateTurn) 0 (turnRun updateTurn) ∧
    bound.find? (·.2) = none) ∧ TurnMet kindRoot (rooting 2) (fun _ bound => Canonical (rooting 2) ∧ PlainMemory
    (turnState (rooting 2)) 0 (turnRun (rooting 2)) ∧ bound.find? (·.2) = none) ∧ TurnMet kindBank (bankTurn 1 [])
    (fun _ bound => Canonical (bankTurn 1 []) ∧ PlainMemory (turnState (bankTurn 1 [])) 0 (turnRun (bankTurn 1 []))
    ∧ bound.find? (·.2) = none) ∧ TurnMet kindAttn (attending absent) (fun p _ => Canonical (attending absent) ∧
    PlainMemory (turnState (attending absent)) 0 (turnRun (attending absent)) ∧ p.commit = false) :=
  ⟨turn_met (by decide +kernel), turn_met (by decide +kernel), turn_met (by decide +kernel),
      turn_met (by decide +kernel), turn_met (by decide +kernel), turn_met (by decide +kernel),
      turn_met (by decide +kernel), turn_met (by decide +kernel), turn_met (by decide +kernel),
      turn_met (by decide +kernel)⟩
theorem test_tiles_checked_2 : TurnMet kindBank (bankTurn 0 sameRecord) (fun p _ => p.force = false
    ∧ FVal.zero.lt p.threshold = true ∧ (leAt (recordOf (bankTurn 0 sameRecord) p) 4 1).testBit 0 = true
    ∧ p.signature (turnState (bankTurn 0 sameRecord)) (jobOf (turnState (bankTurn 0 sameRecord)) 0
        (turnRun (bankTurn 0 sameRecord)) (macroEntry (turnBytes (bankTurn 0 sameRecord))))
      = leAt (recordOf (bankTurn 0 sameRecord) p) 0 4) := by
  obtain ⟨p, bound, ht, h1, h2, h3, h4⟩ := turn_met (k := kindBank) (s := bankTurn 0 sameRecord)
    (H := fun p _ => p.force = false ∧ FVal.zero.lt p.threshold = true ∧ recordOf (bankTurn 0 sameRecord) p = sameRecord
      ∧ signed (bankTurn 0 sameRecord) p = zeros 256) (by decide +kernel)
  refine ⟨p, bound, ht, h1, h2, by rw [h3]; decide +kernel, ?_⟩
  rw [h3]
  show crc32c (signed (bankTurn 0 sameRecord) p) = _
  rw [h4, crc_zeros]
  decide +kernel
theorem test_slots_granted : (((asking 1 [request 1]).coreAt 0).requests = [request 1] ∧ ((asking 1 [request
    1]).coreAt 0).slotsUsed < 64 ∧ (enter now (asking 1 [request 1])).dieMhz (coreDie (request 1).sender) ≠ 0 ∧ 0 <
    (asking 1 [request 1]).cores.length ∧ ((((asking 1 [request 1]).coreAt 0).unretired.all fun m => match m.pending
    with | Pending.receiving message => false | x => true) = true)) ∧ (((asking 2 [request 2]).coreAt 0).requests =
    [request 2] ∧ ((asking 2 [request 2]).coreAt 0).slotsUsed < 64 ∧ (enter now (asking 2 [request 2])).dieMhz
    (coreDie (request 2).sender) ≠ 0 ∧ 0 < (asking 2 [request 2]).cores.length ∧ ((((asking 2 [request 2]).coreAt
    0).unretired.all fun m => match m.pending with | Pending.receiving message => false | x => true) = true)) ∧
    ((fullBox.coreAt 0).requests = [request 1] ∧ 64 ≤ (fullBox.coreAt 0).slotsUsed) := by decide +kernel
theorem test_waits_end : ((enter now (held 0)).run? ((held 0).coreAt 0).run = some (launchRun true) ∧ (enter now
    (held 0)).waitHolds 0 (launchRun true) = true) ∧ ((enter now (held 1)).run? ((held 1).coreAt 0).run = some
    (launchRun true) ∧ (enter now (held 1)).waitHolds 0 (launchRun true) = false) := by decide +kernel
theorem test_macros_retire : ((enter now (doneRun [doneMacro Pending.none] 4 0)).run? ((doneRun [doneMacro
    Pending.none] 4 0).coreAt 0).run = some (launchRun true) ∧ (enter now (doneRun [doneMacro Pending.none] 4
    0)).dieMhz (coreDie 0) ≠ 0 ∧ 0 < (doneRun [doneMacro Pending.none] 4 0).cores.length ∧ (List.find? (fun x =>
    decide (x.index = 0)) ((doneRun [doneMacro Pending.none] 4 0).coreAt 0).unretired = some (doneMacro
    Pending.none)) ∧ (enter now (doneRun [doneMacro Pending.none] 4 0)).mayRetire 0 (launchRun true) (doneMacro
    Pending.none) = true) ∧ ((enter now (doneRun [doneMacro Pending.half] 1 0)).run? ((doneRun [doneMacro
    Pending.half] 1 0).coreAt 0).run = some (launchRun true) ∧ (enter now (doneRun [doneMacro Pending.half] 1
    0)).dieMhz (coreDie 0) ≠ 0 ∧ 0 < (doneRun [doneMacro Pending.half] 1 0).cores.length ∧ (List.find? (fun x =>
    decide (x.index = 0)) ((doneRun [doneMacro Pending.half] 1 0).coreAt 0).unretired = some (doneMacro
    Pending.half)) ∧ (enter now (doneRun [doneMacro Pending.half] 1 0)).mayRetire 0 (launchRun true) (doneMacro
    Pending.half) = false) ∧ ((enter now (doneRun [] 1 2)).run? ((doneRun [] 1 2).coreAt 0).run = some (launchRun
    true) ∧ (enter now (doneRun [] 1 2)).dieMhz (coreDie 0) ≠ 0 ∧ 0 < (doneRun [] 1 2).cores.length ∧ (List.find?
    (fun x => decide (x.index = 1)) ((doneRun [] 1 2).coreAt 0).unretired = none) ∧ ((doneRun [] 1 2).coreAt 0).skip
    ≠ 0 ∧ ((doneRun [] 1 2).coreAt 0).next = 1) := by decide +kernel
theorem test_tables_load : ((enter now (tableLoading zeroTable)).run? ((tableLoading zeroTable).coreAt 0).run = some
    (launchRun true) ∧ (List.find? (fun m => match m.pending with | Pending.table _ => true | _ => false)
    ((tableLoading zeroTable).coreAt 0).unretired = some tableMacro) ∧ tableMacro.pending = Pending.table 0 ∧ (enter
    now (tableLoading zeroTable)).dieMhz (coreDie 0) ≠ 0 ∧ ((tableLoading zeroTable).coreAt 0).banks[0]? = some
    (loadingOf zeroTable) ∧ tableStop (loadingOf zeroTable).table = none) ∧ ((enter now (tableLoading (zeros
    64))).run? ((tableLoading (zeros 64)).coreAt 0).run = some (launchRun true) ∧ (List.find? (fun m => match
    m.pending with | Pending.table _ => true | _ => false) ((tableLoading (zeros 64)).coreAt 0).unretired = some
    tableMacro) ∧ tableMacro.pending = Pending.table 0 ∧ (enter now (tableLoading (zeros 64))).dieMhz (coreDie 0) ≠
    0 ∧ ((tableLoading (zeros 64)).coreAt 0).banks[0]? = some (loadingOf (zeros 64)) ∧ tableStop (loadingOf (zeros
    64)).table = some Stop.field ∧ (launchRun true).fail = 0) :=
  ⟨⟨by decide +kernel, rfl, rfl, by decide +kernel, rfl, zero_table_good⟩, by decide +kernel⟩
theorem test_culling_sound_1 : (0 : Nat) < 1 ∧ 3 ∈ [3] ∧ 0 ≤ 1 ∧ 1 < 0 + 4
    ∧ ({ causal := 1, window := none, radius := none, anchorFull := false, prefixVisible := false, anchors := [], overrides := none }
        : Mask).visible { pos := 3, at_ := binding.coords 3 } { pos := 1, at_ := binding.coords 1 } 0 = true := by decide +kernel
theorem test_half_released_1 : ∃ p tr, Canonical (halfWaiting 3)
    ∧ (enter now (halfWaiting 3)).run? ((halfWaiting 3).coreAt 0).run = some (launchRun true)
    ∧ ((halfWaiting 3).coreAt 0).unretired.find? (·.pending = .half) = some halfMacro
    ∧ (∀ x ∈ ((halfWaiting 3).coreAt 0).unretired, x.index = halfMacro.index → x = halfMacro)
    ∧ (enter now (halfWaiting 3)).dieMhz (coreDie 0) ≠ 0 ∧ halfMacro.attnSeq ≠ 0
    ∧ halfRead 3 = (.ok p, tr)
    ∧ (enter now (halfWaiting 3)).halfHeld p halfMacro.opId = true := by
  obtain ⟨p, hp, hh⟩ := half_met (by decide +kernel : halfCheck 3 true = true)
  exact ⟨p, _, by decide +kernel, by decide +kernel, by decide +kernel, by decide +kernel, by decide +kernel, by decide +kernel, hp, hh⟩
theorem test_half_released_2 : ∃ p tr, Canonical (halfWaiting 0)
    ∧ (enter now (halfWaiting 0)).run? ((halfWaiting 0).coreAt 0).run = some (launchRun true)
    ∧ ((halfWaiting 0).coreAt 0).unretired.find? (·.pending = .half) = some halfMacro
    ∧ (∀ x ∈ ((halfWaiting 0).coreAt 0).unretired, x.index = halfMacro.index → x = halfMacro)
    ∧ (enter now (halfWaiting 0)).dieMhz (coreDie 0) ≠ 0 ∧ halfMacro.attnSeq ≠ 0
    ∧ halfRead 0 = (.ok p, tr)
    ∧ (enter now (halfWaiting 0)).halfHeld p halfMacro.opId = false := by
  obtain ⟨p, hp, hh⟩ := half_met (by decide +kernel : halfCheck 0 false = true)
  exact ⟨p, _, by decide +kernel, by decide +kernel, by decide +kernel, by decide +kernel, by decide +kernel, by decide +kernel, hp, hh⟩

end
end

section
/-! PROOFS. Command packets whose parameters fail their CRC (03 R83, R88): what a refusal that no session records sends and
leaves alone, and that every opcode hands its packet to the judgement of orders 1 to 4 of R88 before it does anything else. -/

namespace Sys2Proof.Proofs

open Sys2Proof.Machine Sys2Proof.Claims

/-! ### Refusals -/

/-- PARAM_CRC, as orders 1 to 4 of R88 give it. -/
def paramCrcBad : Bad := { status := 0x0204, cause := 0 }

/-- Every refusal sends its status reply within its bound, under the next event number (R85, R87, R102). -/
theorem refuse_replied (s : State) (p : Packet) (id : Option Nat) (bound : Nat) (b : Bad) :
    Replied p s (s.refuse p id bound b) bound b.status b.cause (s.net.eventSeq + 1) b.data :=
  ⟨s.replyTime bound, (replyTime_bounds s bound).1, (replyTime_bounds s bound).2, by
    rw [refuse_out]
    exact List.mem_append_right _ (List.mem_singleton_self _)⟩

/-- `Replied` reads only the media time of the state before. -/
theorem replied_of_mt_eq {p : Packet} {b b' t : State} {bound status cause seq : Nat} {data : List Byte}
    (h : Replied p b t bound status cause seq data) (hmt : b.clock.mt = b'.clock.mt) :
    Replied p b' t bound status cause seq data := by
  rwa [Replied, hmt] at h

/-- A refusal that no session records touches event numbers, what is sent and the supply of free values alone. -/
theorem refuse_turnedAway (s : State) (p : Packet) (bound : Nat) (b : Bad) :
    TurnedAway s (s.refuse p none bound b) := by
  refine ⟨rfl, rfl, fun part hpart => ?_⟩
  cases part with
  | net | out | fresh | ctrs => exact absurd (by decide) hpart
  | _ => rfl

/-- A refusal that no session records leaves the open sessions as they are. -/
theorem refuse_session? (s : State) (p : Packet) (bound : Nat) (b : Bad) (e : Endpoint) :
    (s.refuse p none bound b).session? e = s.session? e := rfl

/-! ### Sessions that a packet has reached -/

theorem wake_session? (s : State) (e : Endpoint) : s.wake.session? e = s.session? e := by
  simp only [State.session?, wake_net]

/-- A session as a command of session `id` at steady time `time` leaves it (R78). -/
def lastActiveAt (time id : Nat) (n : Session) : Session := if n.id = id then { n with lastActive := time } else n

theorem lastActiveAt_opened (time id : Nat) (n : Session) : (lastActiveAt time id n).opened = n.opened := by
  unfold lastActiveAt; split <;> rfl

theorem lastActiveAt_peer (time id : Nat) (n : Session) : (lastActiveAt time id n).peer = n.peer := by
  unfold lastActiveAt; split <;> rfl

/-- How a SEQ counts is not for the time of the last command to say (R80). -/
theorem lastActiveAt_judge (time id seq : Nat) (n : Session) : (lastActiveAt time id n).judge seq = n.judge seq := by
  unfold lastActiveAt; split <;> rfl

theorem touchSession_sessions (s : State) (id : Nat) :
    (s.touchSession id).net.sessions = s.net.sessions.map (lastActiveAt s.clock.steady id) := by
  refine List.map_congr_left fun n _ => ?_
  simp only [lastActiveAt, decide_eq_true_eq]

/-- Hearing from a session changes no more of the sessions than the time they were last active. -/
theorem touchSession_session? (s : State) (id : Nat) (e : Endpoint) :
    (s.touchSession id).session? e = (s.session? e).map (lastActiveAt s.clock.steady id) := by
  have unmoved : (fun n : Session => n.opened && n.peer = e) ∘ lastActiveAt s.clock.steady id
      = fun n => n.opened && n.peer = e := by
    funext n
    simp only [Function.comp_apply, lastActiveAt_opened, lastActiveAt_peer]
  unfold State.session?
  rw [touchSession_sessions, List.find?_map, unmoved]

/-- The session that `heard` leaves at the packet's source judges SEQs as the one there before. -/
theorem heard_session_judge {p : Packet} {n m : Session} {s : State} (hm : (heard p n s).session? p.src = some m) :
    ∃ m₀, (landed p s).session? p.src = some m₀ ∧ ∀ seq, m.judge seq = m₀.judge seq := by
  rw [heard, touchSession_session?, wake_session?, Option.map_eq_some_iff] at hm
  obtain ⟨m₀, hm₀, rfl⟩ := hm
  exact ⟨m₀, hm₀, fun seq => lastActiveAt_judge ..⟩

/-! ### The judgement of a packet -/

/-- PARAM_CRC is for a new SEQ of the session at the packet's source (R80, R88). -/
theorem verdict_crc {s : State} {p : Packet} {n : Session} (hv : s.verdict p = .crc n) :
    s.session? p.src = some n ∧ ∃ h, n.judge p.seq.toNat = .fresh h := by
  unfold State.verdict at hv
  split at hv
  · cases hv
  split at hv
  · cases hv
  split at hv
  · cases hv
  next n' hn =>
    split at hv
    · cases hv
    split at hv
    · cases hv
    · cases hv
    next h hfresh =>
      split at hv
      · cases hv
        exact ⟨hn, h, hfresh⟩
      · cases hv

/-- Parameters that fail their CRC are refused before the opcode sees the command, and nothing records it. -/
theorem withCommand_crc {p : Packet} {k : Session → State → State} {n : Session} {s : State}
    (hv : (landed p s).verdict p = .crc n) :
    withCommand p k (landed p s) = (heard p n s).refuse p none 200000 paramCrcBad := by
  simp only [withCommand, hv, heard, paramCrcBad]

/-- A RESET packet is judged first, whatever its KIND. -/
theorem resetPacket_withCommand (p : Packet) (s : State) : ∃ k, resetPacket p s = withCommand p k (landed p s) := by
  unfold resetPacket
  split
  · exact ⟨_, rfl⟩
  · exact ⟨_, rfl⟩

/-- Whatever its opcode, a command packet is judged before its opcode has a say (R83, R88). -/
theorem packetCommand_withCommand (p : Packet) (code : W16) (s : State) :
    ∀ c ∈ (fun p => Instr.unknownOpcode p code) :: packetCommands,
      ∃ k, exec (c p) s = .next (withCommand p k (landed p s)) := by
  have hreset : ∃ k, (.next (resetPacket p s) : Host.Outcome State Fault Refusal) = .next (withCommand p k (landed p s)) :=
    (resetPacket_withCommand p s).imp fun _ => congrArg _
  repeat refine List.forall_mem_cons.mpr ⟨⟨_, rfl⟩, ?_⟩
  repeat refine List.forall_mem_cons.mpr ⟨hreset, ?_⟩
  exact List.forall_mem_nil _

/-- Every opcode of the table but HELLO, and every opcode outside it, refuses parameters that fail their CRC. -/
theorem exec_packetCommand_crc {p : Packet} {code : W16} {n : Session} {s : State}
    (hv : (landed p s).verdict p = .crc n) {c : Packet → Instr}
    (hc : c ∈ (fun p => Instr.unknownOpcode p code) :: packetCommands) :
    exec (c p) s = .next ((heard p n s).refuse p none 200000 paramCrcBad) := by
  obtain ⟨k, hk⟩ := packetCommand_withCommand p code s c hc
  rw [hk, withCommand_crc hv]

/-- HELLO refuses parameters that fail their CRC once it has found a version in common (R73, R88). -/
theorem exec_hello_crc {p : Packet} {s : State} {v : Nat} (hserves : (landed p s).servesAddress p.dst = true)
    (hkept : (landed p s).discards p = false)
    (hnew : (((landed p s).session? p.src).bind fun n =>
      if n.helloSeq = p.seq.toNat then n.stored.find? (·.seq = n.helloSeq) else none) = none)
    (hversion : negotiate (beAt p.params 0 1) (beAt p.params 1 1) moduleMin moduleMax = some v)
    (hcrc : crc32c p.params ≠ p.paramCrc.toNat) :
    exec (.hello p) s = .next ((landed p s).wake.refuse p none 200000 paramCrcBad) := by
  have hello : (landed p s).hello p = (landed p s).wake.refuse p none 200000 paramCrcBad := by
    simp only [State.hello, hnew, hversion, if_pos hcrc, paramCrcBad]
  change execHello p s = _
  simp only [execHello, hserves, hkept, hello, Bool.not_true, Bool.false_and, Bool.false_eq_true, if_false]

/-! ### The obligation -/

/-- A refusal without a record keeps a new SEQ of the packet's session new (R80, R83). -/
theorem refused_seq_fresh {p : Packet} {n m : Session} {s : State} (b : Bad)
    (hv : (landed p s).verdict p = .crc n)
    (hm : ((heard p n s).refuse p none 200000 b).session? p.src = some m) :
    ∃ h, m.judge p.seq.toNat = .fresh h := by
  rw [refuse_session?] at hm
  obtain ⟨m₀, hm₀, hjudge⟩ := heard_session_judge hm
  obtain ⟨hn, hfresh⟩ := verdict_crc hv
  obtain rfl : m₀ = n := Option.some.inj (hm₀.symm.trans hn)
  simpa only [hjudge] using hfresh

/-- Settles O9: the CRC is judged before any opcode's own checks, and the refusal is one that no session records. -/
theorem crcRefused : Obligations.CrcRefused := by
  unfold Obligations.CrcRefused Claims.CrcRefused
  constructor
  · intro p code n s hv c hc
    refine ⟨_, exec_packetCommand_crc hv hc, ?_, refuse_turnedAway .., fun m hm => refused_seq_fresh _ hv hm⟩
    have hreplied := refuse_replied (heard p n s) p none 200000 paramCrcBad
    rwa [heard_eventSeq] at hreplied
  · intro p s hserves hkept hnew hversion hcrc
    refine ⟨_, exec_hello_crc hserves hkept hnew hversion hcrc, ?_, refuse_turnedAway ..⟩
    have hreplied := refuse_replied (landed p s).wake p none 200000 paramCrcBad
    rw [wake_net, landed_net] at hreplied
    exact replied_of_mt_eq hreplied (wake_mt _)

end Sys2Proof.Proofs
end

section
/-! PROOFS. The sequence table (09 R305, R306): how a reply opcode refuses and how one without an effect answers, that an
image which a sequence names is in use, and the entry that SEQ_QUERY gives. -/

namespace Sys2Proof.Proofs

open Sys2Proof.Machine Sys2Proof.Claims

/-! ### Reply opcodes -/

/-- A refusal reaches the sessions, event numbers, what is sent and the supply of free values, and nothing of the module. -/
theorem refuse_keepsModule (s : State) (p : Packet) (id : Option Nat) (bound : Nat) (b : Bad) :
    KeepsModule s (s.refuse p id bound b) := by
  intro part hpart
  cases part with
  | net | out | fresh | ctrs => exact absurd (by decide) hpart
  | _ => simp only [agree, refuse_fuses, refuse_flash, refuse_set, refuse_clock, refuse_cmds, refuse_nextCmd, refuse_parts,
      refuse_mem, refuse_cores, refuse_kv, refuse_seqs, refuse_watch, refuse_zhevub, refuse_codec, refuse_boot, refuse_fw,
      refuse_phys, refuse_pending]

/-- What the checks of its own chapter find is the refusal of a command that passes the common ones (R88). -/
theorem replyBad_of_check {s : State} {o : Op} {check quota : Ctx → State → Option Bad} {p : Packet} {n : Session}
    {b : Bad} (hcommon : s.commonBad o p = none) (hcheck : check (s.ctx o p n) s = some b) :
    s.replyBad o check quota p n = some b := by
  simp only [State.replyBad, hcommon, hcheck, firstBad, List.findSome?_cons, id_eq]

/-- An answer is DONE within its bound, under the next event number, with the data of its effect (R85, R87, R102). -/
theorem answer_replied (s : State) (o : Op) (effect : Ctx → State → State × List Byte) (p : Packet) (n : Session) :
    Replied p s (s.answer o nothing effect p n) (replyBound o p) 0 0 (s.net.eventSeq + 1)
      (effect (s.atStamp o nothing p n).1 (s.atStamp o nothing p n).2).2 :=
  ⟨s.replyTime (replyBound o p), (replyTime_bounds ..).1, (replyTime_bounds ..).2, by
    rw [answer_out]
    exact List.mem_append_right _ (List.mem_singleton_self _)⟩

/-- An answer without an effect leaves the module as it is. -/
theorem answer_keepsModule {s : State} {o : Op} {effect : Ctx → State → State × List Byte} {p : Packet} {n : Session}
    (hnone : ∀ c t, (effect c t).1 = t) : KeepsModule s (s.answer o nothing effect p n) := by
  intro part hpart
  cases part with
  | net | out | fresh | ctrs => exact absurd (by decide) hpart
  | _ => simp [agree, hnone]

/-! ### UNLOAD_IMAGE of an image that a sequence names -/

/-- A sequence that is not CLOSED keeps the image it names in use (R305). -/
theorem imageInUse_of_named {s : State} {q : Seq} {h : Nat} (hq : q ∈ s.seqs.table) (hopen : q.state ≠ .closed)
    (hmodel : q.model = h) : s.imageInUse h = true := by
  have named : (s.seqs.table.any fun r => r.model = h && r.state ≠ .closed) = true :=
    List.any_eq_true.mpr ⟨q, hq, by simp only [hmodel, hopen, ne_eq, not_false_eq_true, decide_true, Bool.and_self]⟩
  simp only [State.imageInUse, named, Bool.or_true]

/-- UNLOAD_IMAGE finds STATE wrong with a loaded image in use (04 R149). -/
theorem unloadCheck_inUse {c : Ctx} {s : State} (himage : (s.image? c.part (c.be 0 8)).isSome = true)
    (huse : s.imageInUse (c.be 0 8) = true) : unloadCheck c s = some (bad 15) := by
  have found : (s.image? c.part (c.be 0 8)).isNone = false := by
    rw [← Option.not_isSome, himage, Bool.not_true]
  simp only [unloadCheck, found, huse, firstBad, badIf, Bool.false_eq_true, if_false, if_true, List.findSome?_cons, id_eq]

/-- UNLOAD_IMAGE that its checks refuse answers with their refusal. -/
theorem exec_unloadImage_refused {p : Packet} {n : Session} {s : State} {b : Bad}
    (hv : (landed p s).verdict p = .command n)
    (hb : (heard p n s).replyBad opUnloadImage unloadCheck never p n = some b) :
    exec (.unloadImage p) s = .next ((heard p n s).refuse p (some n.id) 200000 b) :=
  congrArg Host.Outcome.next (replyOp_refused hv hb)

/-- Settles O17: the sequence keeps the image in use, so the check of UNLOAD_IMAGE refuses with STATE. -/
theorem imageNamed : Obligations.ImageNamed := by
  unfold Obligations.ImageNamed Claims.ImageNamed
  intro p n s q hv hcommon himage hq hopen hmodel
  have huse : (heard p n s).imageInUse (arg p 0 8) = true :=
    imageInUse_of_named (by rwa [heard_seqs]) hopen hmodel
  have hbad : (heard p n s).replyBad opUnloadImage unloadCheck never p n = some (bad 15) :=
    replyBad_of_check hcommon (unloadCheck_inUse himage huse)
  refine ⟨_, exec_unloadImage_refused hv hbad, ?_, refuse_keepsModule (heard p n s) p (some n.id) 200000 (bad 15)⟩
  have hreplied := refuse_replied (heard p n s) p (some n.id) 200000 (bad 15)
  rwa [heard_eventSeq] at hreplied

/-! ### SEQ_QUERY -/

@[simp] theorem leBytes_length (w n : Nat) : (leBytes w n).length = w := by
  induction w generalizing n with
  | zero => rfl
  | succ w ih => simp only [leBytes, List.length_cons, ih]

@[simp] theorem beBytes_length (w n : Nat) : (beBytes w n).length = w := by
  rw [beBytes, List.length_reverse, leBytes_length]

@[simp] theorem zeros_length (n : Nat) : (zeros n).length = n := List.length_replicate

/-- The fields of R299 fill 128 bytes. -/
theorem seqEntry_length (s : State) (q : Seq) : (s.seqEntry q).length = 128 := by
  unfold State.seqEntry
  simp only [List.length_append, beBytes_length, zeros_length]

/-- The entry shows the sequence table and the commands in flight, and nothing else of the module. -/
theorem seqEntry_congr {s t : State} (hseqs : t.seqs = s.seqs) (hcmds : t.cmds = s.cmds) (q : Seq) :
    t.seqEntry q = s.seqEntry q := by
  unfold State.seqEntry
  simp only [State.stepsOf, State.cmd?, hseqs, hcmds]

theorem seq?_congr {s t : State} (hseqs : t.seqs = s.seqs) (part h : Nat) : t.seq? part h = s.seq? part h := by
  simp only [State.seq?, hseqs]

/-- What SEQ_QUERY does once it is taken: it reads the entry named and leaves the state alone (R306). -/
def queryEffect (c : Ctx) (s : State) : State × List Byte :=
  (s, ((s.seq? c.part (c.be 0 8)).map s.seqEntry).getD [])

theorem exec_seqQuery_taken {p : Packet} {n : Session} {s : State}
    (htaken : Takes opSeqQuery (fun c s => badIf (s.seq? c.part (c.be 0 8)).isNone 5) never p n s) :
    exec (.seqQuery p) s = .next ((heard p n s).answer opSeqQuery nothing queryEffect p n) :=
  congrArg Host.Outcome.next (replyOp_taken htaken.1 htaken.2)

/-- The reply's data is the entry as it stands before the stamp, which touches no sequence. -/
theorem queryEffect_data {s : State} {p : Packet} {n : Session} {q : Seq}
    (hq : s.seq? p.partition.toNat (arg p 0 8) = some q) :
    (queryEffect (s.atStamp opSeqQuery nothing p n).1 (s.atStamp opSeqQuery nothing p n).2).2 = s.seqEntry q := by
  have hfound : (s.atStamp opSeqQuery nothing p n).2.seq? p.partition.toNat (arg p 0 8) = some q := by
    rwa [seq?_congr (atStamp_seqs ..)]
  change ((State.seq? _ p.partition.toNat (arg p 0 8)).map _).getD [] = _
  rw [hfound, Option.map_some, Option.getD_some, seqEntry_congr (atStamp_seqs ..) (atStamp_cmds ..)]

/-- Settles O20: SEQ_QUERY answers with the entry it finds, whatever its state, and has no effect. -/
theorem sequenceQueried : Obligations.SequenceQueried := by
  unfold Obligations.SequenceQueried Claims.SequenceQueried
  intro p n s q htaken hq
  have hheard : (heard p n s).seq? p.partition.toNat (arg p 0 8) = some q := by
    rwa [seq?_congr (heard_seqs ..)]
  refine ⟨_, exec_seqQuery_taken htaken, ?_, seqEntry_length .., answer_keepsModule fun _ _ => rfl⟩
  have hreplied := answer_replied (heard p n s) opSeqQuery queryEffect p n
  rwa [queryEffect_data hheard, heard_eventSeq] at hreplied

end Sys2Proof.Proofs
end

section
/-! PROOFS. The RAP requests of kindling mode (17 R516, R518): the state in which a request finds the module, the reply that
each one sends and whether it is kept, and from these the rules of ownership and of a request repeated. -/

namespace Sys2Proof.Proofs

open Sys2Proof.Machine Sys2Proof.Claims

/-! ### Parts that a step leaves alone -/

theorem agree_trans {s t u : State} (part : StatePart) (hst : agree s t part) (htu : agree t u part) :
    agree s u part := by
  cases part <;> exact Eq.trans htu hst

theorem keepsBut_trans {changed : List StatePart} {s t u : State} (hst : KeepsBut changed s t)
    (htu : KeepsBut changed t u) : KeepsBut changed s u :=
  fun part hpart => agree_trans part (hst part hpart) (htu part hpart)

theorem keepsBut_mono {changed more : List StatePart} {s t : State} (hsub : changed ⊆ more)
    (h : KeepsBut changed s t) : KeepsBut more s t :=
  fun part hpart => h part fun hmem => hpart (hsub hmem)

/-- A step's time begins with nothing sent. -/
theorem advance_out (dt : Nat) (s : State) : (advance dt s).out = [] := rfl

theorem advance_steady (dt : Nat) (s : State) : (advance dt s).clock.steady = s.clock.steady + dt := rfl

/-! ### A request that arrives -/

/-- The state in which a RAP request that is not discarded finds the module. -/
def rapReached (r : RapPacket) (s : State) : State :=
  ((advance r.dt s).received r.src.ip (20 + 4 * r.values.length)).rapHeard r.src

theorem rapHeard_received (r : RapPacket) (s : State) :
    ((advance r.dt s).received r.src.ip (20 + 4 * r.values.length)).rapHeard r.src = rapReached r s := rfl

theorem owns_congr {s t : State} (howner : t.boot.owner = s.boot.owner) (e : Endpoint) : t.owns e = s.owns e := by
  simp only [State.owns, howner]

/-- Hearing from a sender touches nothing but the owner's time. -/
theorem rapHeard_keepsBut (s : State) (e : Endpoint) : KeepsBut [.boot] s (s.rapHeard e) := by
  intro part hpart
  unfold State.rapHeard
  split
  · cases part with
    | boot => exact absurd (by decide) hpart
    | _ => rfl
  · cases part <;> rfl

theorem rapHeard_owns (s : State) (e : Endpoint) : (s.rapHeard e).owns e = s.owns e := by
  unfold State.rapHeard
  split
  next howns => exact (decide_eq_true rfl).trans howns.symm
  · rfl

theorem rapHeard_lastRap (s : State) (e : Endpoint) : (s.rapHeard e).boot.lastRap = s.boot.lastRap := by
  unfold State.rapHeard; split <;> rfl

theorem rapHeard_of_stranger {s : State} {e : Endpoint} (hstranger : s.owns e = false) : s.rapHeard e = s := by
  simp only [State.rapHeard, hstranger, Bool.false_eq_true, if_false]

theorem received_keepsBut (s : State) (a : IpAddr) (n : Nat) : KeepsBut [.ctrs] s (s.received a n) := by
  intro part hpart
  cases part with
  | ctrs => exact absurd (by decide) hpart
  | _ => simp only [agree, received_fuses, received_flash, received_set, received_clock, received_net, received_cmds,
      received_nextCmd, received_parts, received_mem, received_cores, received_kv, received_seqs, received_watch,
      received_zhevub, received_codec, received_boot, received_fw, received_phys, received_pending, received_out,
      received_fresh]

theorem rapReached_keepsBut (r : RapPacket) (s : State) : KeepsBut [.ctrs, .boot] (advance r.dt s) (rapReached r s) :=
  keepsBut_trans (keepsBut_mono (by decide) (received_keepsBut _ _ _))
    (keepsBut_mono (by decide) (rapHeard_keepsBut _ _))

theorem rapReached_rapKeeps (changed : List StatePart) (r : RapPacket) (s : State) :
    RapKeeps changed r s (rapReached r s) :=
  keepsBut_mono (by simp) (rapReached_keepsBut r s)

@[simp] theorem rapReached_out (r : RapPacket) (s : State) : (rapReached r s).out = [] :=
  rapReached_keepsBut r s .out (by decide)

@[simp] theorem rapReached_clock (r : RapPacket) (s : State) : (rapReached r s).clock = (advance r.dt s).clock :=
  rapReached_keepsBut r s .clock (by decide)

@[simp] theorem rapReached_lastRap (r : RapPacket) (s : State) : (rapReached r s).boot.lastRap = s.boot.lastRap := by
  rw [rapReached, rapHeard_lastRap, received_boot, advance_boot]

@[simp] theorem rapReached_owns (r : RapPacket) (s : State) : (rapReached r s).owns r.src = s.owns r.src := by
  rw [rapReached, rapHeard_owns]
  exact owns_congr (by rw [received_boot, advance_boot]) r.src

/-- A packet of a sender that is not the owner leaves ownership and the reply kept as they are. -/
theorem rapReached_boot_of_stranger {r : RapPacket} {s : State} (hstranger : s.owns r.src = false) :
    (rapReached r s).boot = s.boot := by
  have harrived : ((advance r.dt s).received r.src.ip (20 + 4 * r.values.length)).owns r.src = false := by
    rwa [owns_congr (s := s) (by rw [received_boot, advance_boot])]
  rw [rapReached, rapHeard_of_stranger harrived, received_boot, advance_boot]

/-- A request that is taken is acted on. -/
theorem rapOp_taken {r : RapPacket} {op : Nat} {s : State} (htaken : RapTaken r op s)
    (act : State → RapPacket → State) : rapOp op act r s = act (rapReached r s) r := by
  obtain ⟨hkept, hnew⟩ := htaken
  simp only [rapOp, hkept, Bool.false_eq_true, if_false, rapHeard_received, rapReached_lastRap, rapReached_owns]
  cases hlast : s.boot.lastRap with
  | none => rfl
  | some k => exact if_neg fun ⟨howns, hseq⟩ => hnew k hlast howns hseq

/-- The owner's request that repeats a RAP_SEQ draws the reply kept, whatever it asks for. -/
theorem rapOp_repeated {r : RapPacket} {op : Nat} {s : State} {k : RapReply} (howns : s.owns r.src = true)
    (hlast : s.boot.lastRap = some k) (hseq : k.seq = r.seq.toNat)
    (hkept : ((advance r.dt s).received r.src.ip (20 + 4 * r.values.length)).rapDiscards r op = false)
    (act : State → RapPacket → State) :
    rapOp op act r s = (rapReached r s).emit (.udp 46212 r.src k.bytes) := by
  simp only [rapOp, hkept, Bool.false_eq_true, if_false, rapHeard_received, rapReached_lastRap, rapReached_owns, hlast]
  exact if_pos ⟨howns, hseq⟩

/-- A command that is a RAP operation carries out that operation's action when its request is taken. -/
theorem exec_taken {c : Instr} {r : RapPacket} {op : Nat} {s : State} {act : State → RapPacket → State}
    (hexec : exec c s = .next (rapOp op act r s)) (htaken : RapTaken r op s) :
    exec c s = .next (act (rapReached r s) r) :=
  hexec.trans (congrArg Host.Outcome.next (rapOp_taken htaken act))

/-! ### Replies -/

@[simp] theorem rapReply_out (s : State) (r : RapPacket) (op status : Nat) (vs : List Nat) (keep : Bool) :
    (s.rapReply r op status vs keep).out = s.out ++ [.udp 46212 r.src (rapAnswer r op status vs)] := by
  cases keep <;> rfl

@[simp] theorem rapReply_owner (s : State) (r : RapPacket) (op status : Nat) (vs : List Nat) (keep : Bool) :
    (s.rapReply r op status vs keep).boot.owner = s.boot.owner := by
  cases keep <;> rfl

theorem rapReply_kept_lastRap (s : State) (r : RapPacket) (op status : Nat) (vs : List Nat) :
    (s.rapReply r op status vs true).boot.lastRap = some { seq := r.seq.toNat, bytes := rapAnswer r op status vs } := rfl

theorem rapReply_unkept_boot (s : State) (r : RapPacket) (op status : Nat) (vs : List Nat) :
    (s.rapReply r op status vs false).boot = s.boot := rfl

theorem emit_keepsBut (s : State) (e : Emission) : KeepsBut [.out, .ctrs] s (s.emit e) := by
  intro part hpart
  cases part with
  | out | ctrs => exact absurd (by decide) hpart
  | _ => rfl

theorem rapReply_unkept_keepsBut (s : State) (r : RapPacket) (op status : Nat) (vs : List Nat) :
    KeepsBut [.out, .ctrs] s (s.rapReply r op status vs false) :=
  emit_keepsBut _ _

/-! ### Requests of a sender that is not the owner -/

/-- A READ that is turned away takes its values from the supply of open choices. -/
theorem rapRead_of_stranger {s : State} {r : RapPacket} (hstranger : s.owns r.src = false) :
    s.rapRead r = (s.openValues r.count.toNat).2.rapReply r 0 1 (s.openValues r.count.toNat).1 false := by
  simp only [State.rapRead, hstranger, Bool.not_false, if_true, State.rapRefuse]

theorem rapWrite_of_stranger {s : State} {r : RapPacket} (hstranger : s.owns r.src = false) :
    s.rapWrite r = s.rapReply r 1 1 [] false := by
  simp only [State.rapWrite, hstranger, Bool.not_false, if_true, State.rapRefuse, Nat.one_ne_zero, if_false]

theorem rapRelease_of_stranger {s : State} {r : RapPacket} (hstranger : s.owns r.src = false) :
    s.rapRelease r = s.rapReply r 3 1 [] false := by
  simp only [State.rapRelease, hstranger, Bool.false_eq_true, if_false]

/-- Open values come from the supply and from nowhere else. -/
theorem openValues_keepsBut (s : State) (n : Nat) : KeepsBut [.fresh] s (s.openValues n).2 := by
  intro part hpart
  cases part with
  | fresh => exact absurd (by decide) hpart
  | _ => rfl

/-! ### Requests of the owner -/

/-- Each READ of the owner ends in a reply that is kept. -/
theorem rapRead_of_owner {s : State} {r : RapPacket} (howns : s.owns r.src = true) :
    ∃ (u : State) (status : Nat) (vs : List Nat), s.rapRead r = u.rapReply r 0 status vs true := by
  simp only [State.rapRead, howns, Bool.not_true, Bool.false_eq_true, if_false]
  split
  · exact ⟨(s.openValues r.count.toNat).2, 2, (s.openValues r.count.toNat).1, by simp only [State.rapRefuse, if_true]⟩
  · exact ⟨_, _, _, rfl⟩

/-- Each WRITE of the owner ends in a reply that is kept. -/
theorem rapWrite_of_owner {s : State} {r : RapPacket} (howns : s.owns r.src = true) :
    ∃ (u : State) (status : Nat) (vs : List Nat), s.rapWrite r = u.rapReply r 1 status vs true := by
  simp only [State.rapWrite, howns, Bool.not_true, Bool.false_eq_true, if_false]
  split
  · exact ⟨s, 2, [], by simp only [State.rapRefuse, Nat.one_ne_zero, if_false]⟩
  split
  · split
    · exact ⟨_, _, _, rfl⟩
    · exact ⟨_, _, _, rfl⟩
  · exact ⟨_, _, _, rfl⟩

/-- The owner's RELEASE ends its ownership, and its reply is kept. -/
theorem rapRelease_of_owner {s : State} {r : RapPacket} (howns : s.owns r.src = true) :
    s.rapRelease r = { s.rapReply r 3 0 [] true with boot.owner := none } := by
  simp only [State.rapRelease, howns, if_true]

/-! ### CLAIM -/

/-- An owner other than `e` has sent a packet in the 10 s before the steady time `time` (R516). -/
abbrev heldAgainst (s : State) (e : Endpoint) (time : Nat) : Bool :=
  s.boot.owner.any fun o => decide (o.peer ≠ e ∧ time < o.last + 10000000000)

/-- No owner is held off by itself. -/
theorem owns_of_heldAgainst {s : State} {e : Endpoint} {time : Nat} (hheld : heldAgainst s e time = true) :
    s.owns e = false := by
  obtain ⟨o, howner, hother⟩ := (Option.any_eq_true _ _).mp hheld
  obtain ⟨hpeer, -⟩ := of_decide_eq_true hother
  simp only [State.owns, howner, Option.any_some, hpeer, decide_false]

/-- The packet that carries a request holds its sender off no longer and no less than before. -/
theorem rapReached_heldAgainst (r : RapPacket) (s : State) (time : Nat) :
    heldAgainst (rapReached r s) r.src time = heldAgainst s r.src time := by
  cases howns : s.owns r.src with
  | false => rw [heldAgainst, rapReached_boot_of_stranger howns]
  | true =>
    have free {u : State} (hu : u.owns r.src = true) : heldAgainst u r.src time = false :=
      Bool.eq_false_iff.mpr fun hheld => by simp [owns_of_heldAgainst hheld] at hu
    rw [free howns, free ((rapReached_owns r s).trans howns)]

/-- The state in which `e` owns the registers, heard from last at steady time `time` (R516). -/
def claimedAt (s : State) (e : Endpoint) (time : Nat) : State :=
  { s with boot.owner := some { peer := e, last := time } }

/-- CLAIM is refused while another owner holds the registers, and else gives them to its sender (R516). -/
theorem rapClaim_eq (s : State) (r : RapPacket) :
    s.rapClaim r = if heldAgainst s r.src s.clock.steady = true then s.rapReply r 2 1 [] false
      else (claimedAt s r.src s.clock.steady).rapReply r 2 0 [] true := by
  simp only [State.rapClaim, heldAgainst, Bool.decide_and, claimedAt]

theorem rapReached_rapClaim_refused {r : RapPacket} {s : State}
    (hheld : heldAgainst s r.src (s.clock.steady + r.dt) = true) :
    (rapReached r s).rapClaim r = (rapReached r s).rapReply r 2 1 [] false := by
  rw [rapClaim_eq, rapReached_heldAgainst, rapReached_clock, advance_steady, if_pos hheld]

theorem rapReached_rapClaim_granted {r : RapPacket} {s : State}
    (hfree : ¬ heldAgainst s r.src (s.clock.steady + r.dt) = true) :
    (rapReached r s).rapClaim r =
      (claimedAt (rapReached r s) r.src (s.clock.steady + r.dt)).rapReply r 2 0 [] true := by
  rw [rapClaim_eq, rapReached_heldAgainst, rapReached_clock, advance_steady, if_neg hfree]

/-! ### The rules of ownership -/

/-- Settles O40: the packet that carries a request makes no owner of its sender, so each request is judged by the owner
that stood before. -/
theorem ownerRules : Obligations.OwnerRules := by
  unfold Obligations.OwnerRules Claims.OwnerRules
  intro r s
  refine ⟨fun htaken => ?claim, fun htaken howns => ?release, fun htaken hstranger => ?read, fun htaken hstranger => ?write⟩
  case claim =>
    refine ⟨_, exec_taken (act := State.rapClaim) rfl htaken, ?_⟩
    split
    next hheld =>
      rw [rapReached_rapClaim_refused hheld, rapReply_owner, rapReply_out, rapReached_out,
        rapReached_boot_of_stranger (owns_of_heldAgainst hheld)]
      exact ⟨rfl, rfl⟩
    next hfree =>
      rw [rapReached_rapClaim_granted hfree, rapReply_owner, rapReply_out]
      exact ⟨rfl, congrArg (· ++ _) (rapReached_out r s)⟩
  case release =>
    refine ⟨_, exec_taken (act := State.rapRelease) rfl htaken, ?_⟩
    rw [rapRelease_of_owner (by rwa [rapReached_owns])]
  case read =>
    have hopen := openValues_keepsBut (rapReached r s) r.count.toNat
    refine ⟨_, ((rapReached r s).openValues r.count.toNat).1, exec_taken (act := State.rapRead) rfl htaken, ?_⟩
    rw [rapRead_of_stranger (by rwa [rapReached_owns])]
    refine ⟨?_, ?_, ?_⟩
    · rw [rapReply_out, hopen .out (by decide), rapReached_out, List.nil_append]
    · rw [rapReply_unkept_boot, hopen .boot (by decide), rapReached_boot_of_stranger hstranger]
    · exact keepsBut_trans (rapReached_rapKeeps _ r s) (keepsBut_trans (keepsBut_mono (by decide) hopen)
        (keepsBut_mono (by decide) (rapReply_unkept_keepsBut _ r 0 1 _)))
  case write =>
    refine ⟨_, exec_taken (act := State.rapWrite) rfl htaken, ?_⟩
    rw [rapWrite_of_stranger (by rwa [rapReached_owns])]
    refine ⟨?_, ?_, ?_⟩
    · rw [rapReply_out, rapReached_out, List.nil_append]
    · rw [rapReply_unkept_boot, rapReached_boot_of_stranger hstranger]
    · exact keepsBut_trans (rapReached_rapKeeps _ r s)
        (keepsBut_mono (by decide) (rapReply_unkept_keepsBut _ r 1 1 []))

/-! ### The reply kept -/

/-- From `s` to `t` request `r` is answered, and its reply is kept when its sender is the owner before or after (R518). -/
def Answered (r : RapPacket) (op : Nat) (s t : State) : Prop :=
  ∃ status vs, .udp 46212 r.src (rapAnswer r op status vs) ∈ t.out
    ∧ (s.owns r.src = true ∨ t.owns r.src = true →
        t.boot.lastRap = some { seq := r.seq.toNat, bytes := rapAnswer r op status vs })

theorem rapReply_mem_out (u : State) (r : RapPacket) (op status : Nat) (vs : List Nat) (keep : Bool) :
    .udp 46212 r.src (rapAnswer r op status vs) ∈ (u.rapReply r op status vs keep).out := by
  rw [rapReply_out]
  exact List.mem_append_right _ (List.mem_singleton_self _)

theorem answered_of_kept (s u : State) (r : RapPacket) (op status : Nat) (vs : List Nat) :
    Answered r op s (u.rapReply r op status vs true) :=
  ⟨status, vs, rapReply_mem_out .., fun _ => rapReply_kept_lastRap ..⟩

/-- A reply that is not kept is in order for a sender who neither owned the registers nor owns them now. -/
theorem answered_of_stranger {s u : State} {r : RapPacket} (hstranger : s.owns r.src = false)
    (howner : u.boot.owner = s.boot.owner) (op status : Nat) (vs : List Nat) :
    Answered r op s (u.rapReply r op status vs false) := by
  have still : (u.rapReply r op status vs false).owns r.src = false := by
    rwa [owns_congr ((rapReply_owner ..).trans howner)]
  refine ⟨status, vs, rapReply_mem_out .., ?_⟩
  simp only [hstranger, still, Bool.false_eq_true, or_self, false_implies]

theorem rapRead_answered (s : State) (r : RapPacket) : Answered r 0 s (s.rapRead r) := by
  cases howns : s.owns r.src with
  | true =>
    obtain ⟨u, status, vs, hread⟩ := rapRead_of_owner howns
    exact hread ▸ answered_of_kept ..
  | false =>
    rw [rapRead_of_stranger howns]
    exact answered_of_stranger howns (congrArg Boot.owner (openValues_keepsBut s _ .boot (by decide))) ..

theorem rapWrite_answered (s : State) (r : RapPacket) : Answered r 1 s (s.rapWrite r) := by
  cases howns : s.owns r.src with
  | true =>
    obtain ⟨u, status, vs, hwrite⟩ := rapWrite_of_owner howns
    exact hwrite ▸ answered_of_kept ..
  | false => exact rapWrite_of_stranger howns ▸ answered_of_stranger howns rfl ..

theorem rapClaim_answered (s : State) (r : RapPacket) : Answered r 2 s (s.rapClaim r) := by
  rw [rapClaim_eq]
  split
  next hheld => exact answered_of_stranger (owns_of_heldAgainst hheld) rfl ..
  · exact answered_of_kept ..

theorem rapRelease_answered (s : State) (r : RapPacket) : Answered r 3 s (s.rapRelease r) := by
  cases howns : s.owns r.src with
  | true =>
    rw [rapRelease_of_owner howns]
    exact ⟨0, [], rapReply_mem_out s r 3 0 [] true, fun _ => rapReply_kept_lastRap s r 3 0 []⟩
  | false => exact rapRelease_of_stranger howns ▸ answered_of_stranger howns rfl ..

/-- Each of the four requests is a RAP operation whose action answers and keeps its reply as R518 asks. -/
theorem exec_rap {op : Nat} {c : RapPacket → Instr}
    (hc : (op, c) ∈ [(0, Instr.rapRead), (1, .rapWrite), (2, .claim), (3, .releaseRap)]) (r : RapPacket) (s : State) :
    ∃ act, exec (c r) s = .next (rapOp op act r s) ∧ ∀ u, Answered r op u (act u r) := by
  simp only [List.mem_cons, Prod.mk.injEq, List.not_mem_nil, or_false] at hc
  obtain ⟨rfl, rfl⟩ | ⟨rfl, rfl⟩ | ⟨rfl, rfl⟩ | ⟨rfl, rfl⟩ := hc
  · exact ⟨State.rapRead, rfl, (rapRead_answered · r)⟩
  · exact ⟨State.rapWrite, rfl, (rapWrite_answered · r)⟩
  · exact ⟨State.rapClaim, rfl, (rapClaim_answered · r)⟩
  · exact ⟨State.rapRelease, rfl, (rapRelease_answered · r)⟩

/-- Settles O41: a repeated request never comes to its action, and each action answers and keeps what it answered. -/
theorem rapRepeated : Obligations.RapRepeated := by
  unfold Obligations.RapRepeated Claims.RapRepeated
  intro r s op c hc
  obtain ⟨act, hexec, hanswered⟩ := exec_rap hc r s
  constructor
  · intro k howns hlast hseq hkept
    rw [rapOp_repeated howns hlast hseq hkept] at hexec
    refine ⟨_, hexec, ?_, ?_, ?_⟩
    · rw [emit_out, rapReached_out, List.nil_append]
    · rw [emit_boot, rapReached_lastRap, hlast]
    · exact keepsBut_trans (rapReached_rapKeeps _ r s) (keepsBut_mono (by decide) (emit_keepsBut _ _))
  · intro htaken
    have hreached := hanswered (rapReached r s)
    rw [Answered, rapReached_owns] at hreached
    exact ⟨_, exec_taken hexec htaken, hreached⟩

end Sys2Proof.Proofs
end
